-- ==== Sys2Proof/Word.lean ====
section
/-!
DEFINITION. The word types of the module and their plainest arithmetic.
-/
namespace Sys2Proof

/-- A byte of memory. -/
abbrev Byte := BitVec 8

/-- A lane register (Table 2.5). -/
abbrev Word32 := BitVec 32

/-- A register pair, a 64-bit register or an address. -/
abbrev Word64 := BitVec 64

/-- Bits [63:32] of a u64 (R9). -/
def hi (x : Word64) : Word32 := x.extractLsb' 32 32

/-- Bits [31:0] of a u64 (R9). -/
def lo (x : Word64) : Word32 := x.extractLsb' 0 32

/-- The u64 whose halves are `h` and `l` (R53: the low half is in the named register). -/
def join (h l : Word32) : Word64 := h ++ l

end Sys2Proof
end

