-- ==== Sys2Proof/Syntax.lean ====
section
/-!
DEFINITION. Syntax of the block's commands: the operands they carry and Instr, one constructor per row of
spec/opcode_table.json.
-/
namespace Sys2Proof

/-- A resident group: the tile it runs on (tile number 0 to 4095 of R30) and its group slot 0 to 31 (R40). -/
structure GRef where
  tile : Nat
  slot : Nat
deriving DecidableEq, Repr, Inhabited

/-- The fields of an instruction word below its class and operation (Table 2.3). In each operand byte bit 7 is the
keep bit of R46 and bits 6 to 0 are the register number. -/
structure Insn where
  fmt : BitVec 4
  mod : BitVec 5
  imm : Bool
  ext : BitVec 10
  d : BitVec 8
  a : BitVec 8
  b : BitVec 8
  c : BitVec 8
deriving DecidableEq, Repr, Inhabited

/-- A submitted queue command: its context, its queue and its place in the queue's order of submission (R320). -/
structure CmdRef where
  ctx : Nat
  queue : Nat
  id : Nat
deriving DecidableEq, Repr, Inhabited

/-- The marks a request carries to a cistern: the context on whose behalf it is made (none for the host and the
board), the tile whose L1 it fills or whose lanes write (R264, R265), the hint of Table 9.3, the persistence window it
names (R260), whether it is a far prefetch or a checkpoint copy, which neither consume poison nor count (R259, R272), and its
class at the channel (Table 9.4). -/
structure MemReq where
  ctx : Option Nat
  tile : Option Nat
  hint : Nat
  win : Option Nat
  quiet : Bool
  cls : Nat
deriving DecidableEq, Repr, Inhabited

/-- What the ECC check of one HBM word of a line finds (R270): nothing, an error it corrects, or an error it cannot
correct, with the number of the 64-bit word in the line. -/
inductive Ecc where
  | ok
  | corrected (word : Nat)
  | uncorrectable (word : Nat)
deriving DecidableEq, Repr, Inhabited

/-- What a HELLO link frame says of its sender (R338): node, board identifier, board window, serial number, port and
role. -/
structure HelloRec where
  node : BitVec 20
  boardId : BitVec 32
  win : BitVec 3
  serial : BitVec 64
  port : BitVec 5
  role : BitVec 4
deriving DecidableEq, Repr, Inhabited

/-- What a HELLO proves of its sender (R396): the SHA-384 of the root key of its certificate chain, whether the chain's signatures and AK's over the
public key hold, the ephemeral public key, and the owner key hashes behind its block 6. -/
structure PeerKey where
  root : List (BitVec 8)
  ok : Bool
  pub : List (BitVec 8)
  owners : List (List (BitVec 8))
deriving DecidableEq, Repr, Inhabited

/-- A key that KEY_PROG gives the IDE stream (R395): the session it comes in, its number, and the key. -/
structure IdeKey where
  sess : Nat
  num : Nat
  key : BitVec 256
deriving DecidableEq, Repr, Inhabited

/-- What GET_MEASUREMENTS asks for (R385): an index, and whether the answer is to be signed, over a nonce. -/
structure MeasReq where
  index : Nat
  sign : Bool
  nonce : BitVec 256
deriving DecidableEq, Repr, Inhabited

/-- How a frame came over its link (R342, R345, R346): whole and in sequence, with a CRC or tag that fails, with another link sequence than the
one expected, or with a header whose SRC cannot be read. -/
inductive Wire where
  | good
  | crc
  | seq (n : BitVec 16)
  | noSrc
deriving DecidableEq, Repr, Inhabited

/-- A routed Ridge frame (R340): its header fields, its sixteen bytes of arguments and its payload; resv says that a
reserved header field is not zero, poisoned that the payload carries the poison mark, wire how it came over its link. -/
structure Frame where
  typ : BitVec 4
  vc : BitVec 2
  hops : BitVec 6
  dst : BitVec 20
  src : BitVec 20
  len : BitVec 14
  tag : BitVec 16
  board : BitVec 32
  args : BitVec 128
  payload : List (BitVec 8)
  resv : Bool
  poisoned : Bool
  wire : Wire
deriving DecidableEq, Repr, Inhabited

/-- A RoCEv2 packet received on a checkpoint queue pair (R358, R370); icrcBad is one whose ICRC fails (R346). -/
inductive RocePkt where
  | icrcBad
  | ack (psn : BitVec 24)
  | nakSequence (psn : BitVec 24)
  | nakRemote (psn : BitVec 24)
  | readResponse (psn : BitVec 24) (data : List (BitVec 8))
  | other
deriving DecidableEq, Repr, Inhabited

/-- What reaches the monitor's serial line beyond its commands (R437): a line with a framing error, input beyond what is held while a command runs,
or a line as it stands, without its end. -/
inductive MonRx where
  | framing
  | long
  | line (text : List (BitVec 8))
deriving DecidableEq, Repr, Inhabited

/-- How CNT names a counter (Table 16.8): by its index, or by its name, whose letters' case does not matter. -/
inductive CntSel where
  | index (i : Nat)
  | name (text : List (BitVec 8))
deriving DecidableEq, Repr, Inhabited

/-- A read of a BAR (R13): the BAR, the offset and the number of bytes. -/
structure BarRead where
  bar : Nat
  off : Nat
  size : Nat
deriving DecidableEq, Repr, Inhabited

/-- A TLP received on the host link, by what its check finds (R346, R395); cfgRead and cfgWrite reach the 4 bytes at a byte offset of configuration
space (R302). -/
inductive Tlp where
  | malformed
  | linkError
  | outsideBars (isRead : Bool)
  | poisonedWrite (bar : Nat) (off : Nat)
  | atomicUnsupported
  | notInStream
  | integrityFailure
  | cfgRead (reg : Nat)
  | cfgWrite (reg : Nat) (v : BitVec 32)
  | wellFormed
deriving DecidableEq, Repr, Inhabited

/-- The commands: one constructor per row of spec/opcode_table.json, in the table's order. -/
inductive Instr where
  /-- IADD (R56): Integer add with wrapping, per active lane. -/
  | iadd (g : GRef) (i : Insn)
  /-- ISUB (R56): Integer subtract with wrapping, per active lane. -/
  | isub (g : GRef) (i : Insn)
  /-- IMUL (R56): Low half of an integer product. -/
  | imul (g : GRef) (i : Insn)
  /-- IMULHI (R56): High half of an integer product. -/
  | imulhi (g : GRef) (i : Insn)
  /-- IMAD (R56): Low half of a product plus C. -/
  | imad (g : GRef) (i : Insn)
  /-- IMIN (R56): Integer minimum. -/
  | imin (g : GRef) (i : Insn)
  /-- IMAX (R56): Integer maximum. -/
  | imax (g : GRef) (i : Insn)
  /-- IABS (R56): Integer absolute value; the most negative value maps to itself. -/
  | iabs (g : GRef) (i : Insn)
  /-- AND (R56): Bitwise AND. -/
  | andB (g : GRef) (i : Insn)
  /-- OR (R56): Bitwise OR. -/
  | orB (g : GRef) (i : Insn)
  /-- XOR (R56): Bitwise XOR. -/
  | xorB (g : GRef) (i : Insn)
  /-- SHL (R56): Shift left by B[6:0]. -/
  | shl (g : GRef) (i : Insn)
  /-- SHR (R56): Shift right by B[6:0], arithmetic for signed formats. -/
  | shr (g : GRef) (i : Insn)
  /-- ROTL (R56): Rotate a 32-bit value left. -/
  | rotl (g : GRef) (i : Insn)
  /-- POPC (R56): Count the one bits. -/
  | popc (g : GRef) (i : Insn)
  /-- CLZ (R56): Count the leading zeros. -/
  | clz (g : GRef) (i : Insn)
  /-- BREV (R56): Reverse the bit order. -/
  | brev (g : GRef) (i : Insn)
  /-- ISET (R56): Integer compare, writing 0 or 1. -/
  | iset (g : GRef) (i : Insn)
  /-- SEL (R56): Select A or B on C. -/
  | sel (g : GRef) (i : Insn)
  /-- MOV (R56): Move a register or an immediate. -/
  | mov (g : GRef) (i : Insn)
  /-- MOVHI (R56): Set the upper 16 bits from IMM16. -/
  | movhi (g : GRef) (i : Insn)
  /-- FADD (R56): Correctly rounded floating-point add. -/
  | fadd (g : GRef) (i : Insn)
  /-- FSUB (R56): Correctly rounded floating-point subtract. -/
  | fsub (g : GRef) (i : Insn)
  /-- FMUL (R56): Correctly rounded floating-point multiply. -/
  | fmul (g : GRef) (i : Insn)
  /-- FFMA (R56): Fused multiply-add with a single rounding. -/
  | ffma (g : GRef) (i : Insn)
  /-- FMIN (R56): IEEE 754 minimumNumber. -/
  | fmin (g : GRef) (i : Insn)
  /-- FMAX (R56): IEEE 754 maximumNumber. -/
  | fmax (g : GRef) (i : Insn)
  /-- FABS (R56): Clear the sign bit. -/
  | fabs (g : GRef) (i : Insn)
  /-- FNEG (R56): Invert the sign bit. -/
  | fneg (g : GRef) (i : Insn)
  /-- FSET (R56): Floating-point compare, writing 0 or 1. -/
  | fset (g : GRef) (i : Insn)
  /-- FRCP (R57): Approximate reciprocal, deterministic. -/
  | frcp (g : GRef) (i : Insn)
  /-- FRSQ (R57): Approximate reciprocal square root. -/
  | frsq (g : GRef) (i : Insn)
  /-- FSQRT (R57): Approximate square root. -/
  | fsqrt (g : GRef) (i : Insn)
  /-- FEXP2 (R57): Approximate 2 to the power A. -/
  | fexp2 (g : GRef) (i : Insn)
  /-- FLOG2 (R57): Approximate base-2 logarithm. -/
  | flog2 (g : GRef) (i : Insn)
  /-- FSINPI (R57): Approximate sin(pi A). -/
  | fsinpi (g : GRef) (i : Insn)
  /-- FCOSPI (R57): Approximate cos(pi A). -/
  | fcospi (g : GRef) (i : Insn)
  /-- CVT (R58): Convert one element between the scalar formats. -/
  | cvt (g : GRef) (i : Insn)
  /-- CVT_PK (R58): Pack n F32 or S32 values into a packed format. -/
  | cvtPk (g : GRef) (i : Insn)
  /-- CVT_UPK (R56): Unpack a packed register exactly into n registers. -/
  | cvtUpk (g : GRef) (i : Insn)
  /-- VOTE (R56): Any, all or ballot across the active lanes. -/
  | vote (g : GRef) (i : Insn)
  /-- BCAST (R56): Broadcast one lane's A to every active lane. -/
  | bcast (g : GRef) (i : Insn)
  /-- SHFL (R56): Each active lane reads A of a lane that it names. -/
  | shfl (g : GRef) (i : Insn)
  /-- S2R (R56): Read a special register. -/
  | s2r (g : GRef) (i : Insn)
  /-- LD (R48): Global load through the L1, with ordering form and hint. -/
  | ld (g : GRef) (i : Insn)
  /-- ST (R84): Global store entering the tile's write-through store queue. -/
  | st (g : GRef) (i : Insn)
  /-- LDS (R47): Scratch load. -/
  | lds (g : GRef) (i : Insn)
  /-- STS (R47): Scratch store. -/
  | sts (g : GRef) (i : Insn)
  /-- PREF (R48): Prefetch the touched sectors into the L1. -/
  | pref (g : GRef) (i : Insn)
  /-- SCOPY (R59): Start an asynchronous scratch-to-scratch copy to a tile of the same spur. -/
  | scopy (g : GRef) (i : Insn)
  /-- SCOPY_DONE (R89): An SCOPY's bytes are written into the target tile's scratch. -/
  | scopyDone (g : GRef)
  /-- SCWAIT (R89): Wait until every SCOPY of the group has completed. -/
  | scwait (g : GRef) (i : Insn)
  /-- ATOM_ADD (R81): Atomic add at the owning cistern or in scratch. -/
  | atomAdd (g : GRef) (i : Insn)
  /-- ATOM_MIN (R81): Atomic minimum. -/
  | atomMin (g : GRef) (i : Insn)
  /-- ATOM_MAX (R81): Atomic maximum. -/
  | atomMax (g : GRef) (i : Insn)
  /-- ATOM_AND (R81): Atomic AND. -/
  | atomAnd (g : GRef) (i : Insn)
  /-- ATOM_OR (R81): Atomic OR. -/
  | atomOr (g : GRef) (i : Insn)
  /-- ATOM_XOR (R81): Atomic XOR. -/
  | atomXor (g : GRef) (i : Insn)
  /-- ATOM_EXCH (R81): Atomic exchange. -/
  | atomExch (g : GRef) (i : Insn)
  /-- ATOM_CAS (R81): Atomic compare-and-swap. -/
  | atomCas (g : GRef) (i : Insn)
  /-- NOP (R56): No operation. -/
  | nop (g : GRef) (i : Insn)
  /-- BRA (R55): Branch the whole group. -/
  | bra (g : GRef) (i : Insn)
  /-- BRANY (R55): Branch if any active lane has A not equal to 0. -/
  | brany (g : GRef) (i : Insn)
  /-- BRALL (R55): Branch if every active lane has A not equal to 0. -/
  | brall (g : GRef) (i : Insn)
  /-- CALL (R55): Write the return address and branch. -/
  | callG (g : GRef) (i : Insn)
  /-- RET (R55): Branch to the address held by the lowest active lane. -/
  | retG (g : GRef) (i : Insn)
  /-- MPUSH (R61): Push a mask-stack entry and narrow the active mask. -/
  | mpush (g : GRef) (i : Insn)
  /-- MELSE (R61): Switch to the else lanes of the top entry. -/
  | melse (g : GRef) (i : Insn)
  /-- MPOP (R61): Pop the top entry and restore the outer mask. -/
  | mpop (g : GRef) (i : Insn)
  /-- MPUSHL (R61): Push a loop entry. -/
  | mpushl (g : GRef) (i : Insn)
  /-- MBRK (R61): Remove the breaking lanes up to the nearest loop entry. -/
  | mbrk (g : GRef) (i : Insn)
  /-- ELECT (R65): Elect the lowest candidate lane. -/
  | elect (g : GRef) (i : Insn)
  /-- EXIT (R61): The active lanes leave the live mask. -/
  | exitG (g : GRef) (i : Insn)
  /-- MSTACK_SPILL_DONE (R63): A mask-stack spill to scratch completes and the group may issue again. -/
  | mstackSpillDone (g : GRef)
  /-- MSTACK_REFILL_DONE (R63): A mask-stack refill from scratch completes. -/
  | mstackRefillDone (g : GRef)
  /-- ILLEGAL_WORD (R54): An illegal instruction word executes as a counted no-operation. -/
  | illegalWord (g : GRef) (w : BitVec 64)
  /-- BLOCK_RESIDENT (R66): The scheduler places a whole block on a tile once its resources fit. -/
  | blockResident (r : CmdRef) (blk : Nat) (tile : Nat) (base : List Nat) (slots : List (List Nat))
  /-- NO_PROGRESS_EXPIRY (R71): A group's no-progress timer reaches its period and the context is lost. -/
  | noProgressExpiry (g : GRef)
  /-- ARRAY_PROGRESS_EXPIRY (R107): An array's progress timer reaches its period and the context is lost. -/
  | arrayProgressExpiry (tile : Nat) (arr : Nat)
  /-- FENCE (R79): Issue a fence at the chosen scope. -/
  | fence (g : GRef) (i : Insn)
  /-- FENCE_COMPLETE (R79): The fence completes once the earlier accesses are performed. -/
  | fenceComplete (g : GRef)
  /-- BAR (R93): A group arrives at the block barrier. -/
  | bar (g : GRef) (i : Insn)
  /-- WAITNE (R97): Wait until the watched word differs from B. -/
  | waitne (g : GRef) (i : Insn)
  /-- WAITNE_ANSWER (R97): The cistern or tile answers a held wait when the word changes. -/
  | waitneAnswer (g : GRef)
  /-- WAIT_RESEND (R99): A wait answered early by a full cistern is sent again after 1 us. -/
  | waitResend (g : GRef)
  /-- HOST_WAIT_POLL (R97): A wait on host memory is polled once per microsecond. -/
  | hostWaitPoll (g : GRef)
  /-- EVSIG (R100): Kernel release-signal of an event in the SET form. -/
  | evsig (g : GRef) (i : Insn)
  /-- EVWAIT (R100): Kernel wait until an event reaches a target or is poisoned. -/
  | evwait (g : GRef) (i : Insn)
  /-- EVWAIT_ANSWER (R100): A held EVWAIT completes with the event word. -/
  | evwaitAnswer (g : GRef)
  /-- UWAIT (R86): Wait for the named arrays and pumps to complete. -/
  | uwait (g : GRef) (i : Insn)
  /-- UWAIT_COMPLETE (R86): Every unit named by a UWAIT has completed. -/
  | uwaitComplete (g : GRef)
  /-- ALOAD (R121): Load a weight block into an array's shadow buffer. -/
  | aload (g : GRef) (i : Insn)
  /-- ASTREAM (R122): Stream rows through an array into the well. -/
  | astream (g : GRef) (i : Insn)
  /-- GPAIR (R123): Run both gradient products from one dY tile. -/
  | gpair (g : GRef) (i : Insn)
  /-- WDRAIN (R124): Round well rows to a format and write them out. -/
  | wdrain (g : GRef) (i : Insn)
  /-- WREDUCE (R126): Reduce source rows into a target row exactly. -/
  | wreduce (g : GRef) (i : Insn)
  /-- WACC (R128): Add raw records into well accumulators. -/
  | wacc (g : GRef) (i : Insn)
  /-- WCLR (R129): Clear well rows with a given base. -/
  | wclr (g : GRef) (i : Insn)
  /-- AMODE (R130): Set the FWD or BWD mode after every earlier array instruction completes. -/
  | amode (g : GRef) (i : Insn)
  /-- ARRAY_INSN_START (R131): A queued array or well instruction starts once its port is free and its start conditions hold. -/
  | arrayInsnStart (tile : Nat)
  /-- ARRAY_INSN_COMPLETE (R103): An array or well instruction finishes its port occupancy and writes its results. -/
  | arrayInsnComplete (tile : Nat) (arr : Nat) (port : Nat)
  /-- PDESC (R184): Read a tensor descriptor and enqueue it on a pump. -/
  | pdesc (g : GRef) (i : Insn)
  /-- PUMP_NEAR_FETCH (R189): A pump reads lines from their cisterns into its landing buffer. -/
  | pumpNearFetch (tile : Nat) (pump : Nat)
  /-- PUMP_FAR_PREFETCH (R189): A pump asks cisterns to bring lines from HBM ahead of use. -/
  | pumpFarPrefetch (tile : Nat) (pump : Nat)
  /-- PUMP_DELIVER (R178): A pump delivers a transformed unit to the feeder or into scratch. -/
  | pumpDeliver (tile : Nat) (pump : Nat)
  /-- PUMP_WRITE (R188): A pump's write side writes drained or spilled elements to memory. -/
  | pumpWrite (tile : Nat) (pump : Nat)
  /-- PUMP_ADD (R182): The owning cistern adds an incoming raw record atomically into a destination record. -/
  | pumpAdd (tile : Nat) (pump : Nat)
  /-- PUMP_DESC_COMPLETE (R191): A pump descriptor completes. -/
  | pumpDescComplete (tile : Nat) (pump : Nat) (wr : Bool)
  /-- RND (R223): Draw CG-412 output per active lane. -/
  | rnd (g : GRef) (i : Insn)
  /-- RKEY (R223): Set the group's CG-412 key. -/
  | rkey (g : GRef) (i : Insn)
  /-- STRD (R162): Read a field of a statistics record at its cistern. -/
  | strd (g : GRef) (i : Insn)
  /-- STCLR (R162): Clear a statistics record. -/
  | stclr (g : GRef) (i : Insn)
  /-- STADD (R162): Add to, or raise the maximum of, a statistics field. -/
  | stadd (g : GRef) (i : Insn)
  /-- CISTERN_READ (R253): A cistern serves a read by byte mask, fetching from HBM when needed. -/
  | cisternRead (q : MemReq) (dpa : Nat) (n : Nat)
  /-- CISTERN_WRITE (R253): A cistern merges or allocates a write by byte mask. -/
  | cisternWrite (tile : Nat) (k : Nat)
  /-- CISTERN_ATOMIC (R81): A cistern performs a global atomic on its line. -/
  | cisternAtomic (q : MemReq) (dpa : Nat) (op : Nat) (fmt : Nat) (b : BitVec 64) (c : BitVec 64)
  /-- CISTERN_WAIT_ARRIVAL (R97): A wait arrives at a cistern, which holds or answers it. -/
  | cisternWaitArrival (g : GRef)
  /-- CISTERN_VICTIM_WRITEBACK (R256): A dirty victim is written back before its way is reused. -/
  | cisternVictimWriteback (chan : Nat) (set : Nat)
  /-- CHANNEL_SLOT_GRANT (R268): A channel controller grants one line transfer slot by class priority. -/
  | channelSlotGrant (chan : Nat) (pc : Nat)
  /-- HBM_READ (R270): A line is read from HBM with ECC correction or poisoning. -/
  | hbmRead (line : Nat) (ecc : Ecc)
  /-- HBM_WRITEBACK (R255): A line is written to HBM by ECC word with merges. -/
  | hbmWriteback (line : Nat) (ecc : Ecc)
  /-- SCRUB (R270): The controller's scrub reaches an HBM word. -/
  | scrub (line : Nat) (ecc : Ecc)
  /-- HBM_REFRESH (R269): A per-bank refresh falls due. -/
  | hbmRefresh (chan : Nat) (bank : Nat)
  /-- NOP_COMMAND (R321): Queue command that does nothing but order and synchronise. -/
  | nopCommand (r : CmdRef)
  /-- LAUNCH (R325): Run a grid of blocks of one kernel. -/
  | launchCmd (r : CmdRef)
  /-- COPY (R326): Copy bytes through the context's translation. -/
  | copyCmd (r : CmdRef)
  /-- EVT_SIGNAL_SET (R326): Signal an event with SET. -/
  | evtSignalSet (r : CmdRef)
  /-- EVT_SIGNAL_INC (R326): Signal an event with INC. -/
  | evtSignalInc (r : CmdRef)
  /-- OBJ_REPAIR (R274): Copy clean lines over an object's lines, clearing poison. -/
  | objRepair (r : CmdRef)
  /-- UPD_RUN (R209): Run the update of a range of layers for step t. -/
  | updRun (r : CmdRef)
  /-- UPD_RUN_REFRESH (R220): Rewrite both narrow orders from the masters. -/
  | updRunRefresh (r : CmdRef)
  /-- UPD_SET_STEP (R208): Write step entries from a list of step sizes. -/
  | updSetStep (r : CmdRef)
  /-- UPD_LAYER (R209): A free update engine takes the next layer and runs its passes. -/
  | updLayer (spur : Nat)
  /-- UPD_LAYER_DONE (R209): An engine writes LASTSTEP and STATUS after every write of a layer is performed. -/
  | updLayerDone (spur : Nat)
  /-- SCHED_RUN (R226): Run one step of a pipeline schedule. -/
  | schedRun (r : CmdRef)
  /-- SCHED_RELEASE (R228): The step-schedule engine releases the next command once its conditions hold. -/
  | schedRelease (r : CmdRef)
  /-- SCHED_COMPLETION_COUNT (R229): A released command completes and the engine counts the completed commands in order. -/
  | schedCompletionCount (r : CmdRef) (i : Nat)
  /-- COLL_OPEN (R235): Open a collective from a descriptor. -/
  | collOpen (r : CmdRef)
  /-- COLL_RUN (R235): Run one step of an open collective. -/
  | collRun (r : CmdRef)
  /-- COLL_RUN_COMPLETE (R243): A COLL_RUN's contributions and results are settled and its census is written. -/
  | collRunComplete (r : CmdRef)
  /-- COLL_CLOSE (R235): Close a collective once no COLL_RUN of it runs. -/
  | collClose (r : CmdRef)
  /-- COLL_DEADLINE (R240): A holder's deadline passes and the open step closes short. -/
  | collDeadline (num : Nat) (shard : Nat)
  /-- CONTRIB_RESEND (R241): A contribution, part or barrier message not accepted is sent again after its interval. -/
  | contribResend (num : Nat)
  /-- BARRIER_RESEND (R353): A running BARRIER COLL_RUN sends its latest message again every 1 ms. -/
  | barrierResend (num : Nat)
  /-- REMOTE_SIGNAL (R352): Send a SIGNAL frame to an inbound slot of another module. -/
  | remoteSignal (r : CmdRef)
  /-- REMOTE_SIGNAL_RESEND (R352): An unanswered REMOTE_SIGNAL is sent again every 1 ms until RSP_TIMEOUT. -/
  | remoteSignalResend (r : CmdRef)
  /-- CKP_BEGIN (R363): Take the instant and protect every channel page of the checkpoint set. -/
  | ckpBegin (r : CmdRef)
  /-- CKP_ABORT (R376): Fail the context's running checkpoint. -/
  | ckpAbort (r : CmdRef)
  /-- CKP_RESTORE (R375): Read an image from the store into the set. -/
  | ckpRestore (r : CmdRef) (manifest : List (BitVec 8)) (data : List (BitVec 8))
  /-- CKP_PAGE_STAGE_DONE (R365): A protected page's staging copy is performed and the stalled write proceeds. -/
  | ckpPageStageDone (chan : Nat) (page : Nat)
  /-- CKP_DIRECT_SAVE_DONE (R366): The store acknowledges a page saved directly and the write proceeds. -/
  | ckpDirectSaveDone (chan : Nat) (page : Nat)
  /-- CKP_STREAM_WRITE (R370): The checkpoint engine sends a chunk of the image by RDMA WRITE. -/
  | ckpStreamWrite
  /-- CKP_STORE_ACK (R371): The store acknowledges image writes. -/
  | ckpStoreAck (bytes : Nat)
  /-- CKP_COMMIT (R371): The store acknowledges the manifest's last write and the checkpoint commits. -/
  | ckpCommit
  /-- CKP_FAIL (R372): A checkpoint fails and every protected page returns to NONE. -/
  | ckpFail (cause : Nat)
  /-- ROCE_RETRY_TIMEOUT (R370): A queue pair's local ACK timeout expires, retrying or entering the error state. -/
  | roceRetryTimeout (qp : Nat)
  /-- COMMAND_FETCH (R320): The device fetches an available command, submitting it. -/
  | commandFetch (ctx : Nat) (queue : Nat)
  /-- COMMAND_START (R322): A command starts once its queue order and WAIT event allow. -/
  | commandStart (r : CmdRef)
  /-- COMMAND_COMPLETE (R323): A command's SIG is performed and its completion record is written in sequence. -/
  | commandComplete (r : CmdRef)
  /-- CONTEXT_LOSS (R332): A fault makes a context lost; units stop, events are poisoned, and commands complete. -/
  | contextLoss (ctx : Nat) (code : BitVec 8) (va : BitVec 64) (info : BitVec 64)
  /-- CONTEXT_SWAP_OUT (R312): The scheduler saves a resident context into its save area. -/
  | contextSwapOut (ctx : Nat)
  /-- CONTEXT_SWAP_IN (R312): The scheduler restores the longest-waiting context. -/
  | contextSwapIn (ctx : Nat)
  /-- DOORBELL (R319): A 4-byte doorbell write makes commands available or is dropped. -/
  | doorbell (off : Nat) (size : Nat) (v : BitVec 32)
  /-- CTX_CREATE (R311): Admin command creating a context. -/
  | ctxCreate
  /-- CTX_DESTROY (R334): Admin command tearing a context down. -/
  | ctxDestroy
  /-- QUEUE_CREATE (R318): Admin command creating a queue. -/
  | queueCreate
  /-- QUEUE_DESTROY (R318): Admin command removing a queue after its fetched commands complete. -/
  | queueDestroy
  /-- OBJ_CREATE (R327): Admin command registering a memory object. -/
  | objCreate
  /-- OBJ_FREE (R328): Admin command invalidating a handle. -/
  | objFree
  /-- OBJ_EXPORT (R328): Admin command returning an key for another context. -/
  | objExport
  /-- OBJ_IMPORT (R328): Admin command adding a handle from an key for another context. -/
  | objImport
  /-- CTX_QUERY (R314): Admin command returning a context's query record. -/
  | ctxQuery
  /-- XLT_INV_RANGE (R317): Remove cached translations of an address range. -/
  | xltInvRange (v : BitVec 64)
  /-- XLT_INV_ALL (R317): Remove every cached translation of an address space. -/
  | xltInvAll (v : BitVec 64)
  /-- XLT_INV_DONE (R317): An invalidation completes and BUSY clears. -/
  | xltInvDone
  /-- FEAT_ACCEPT_WRITE (R305): Write the accepted feature set, dropped if not offered or locked. -/
  | featAcceptWrite (high : Bool) (v : BitVec 64)
  /-- LOCK (R305): Lock the accepted feature set. -/
  | featLock
  /-- HIF_TBL_BASE_WRITE (R308): Set the table area base, dropped while contexts or objects exist. -/
  | hifTblBaseWrite (v : BitVec 64)
  /-- BAR4_READ (R303): A host read through BAR4 served by the owning cistern. -/
  | bar4Read (off : Nat) (n : Nat)
  /-- BAR4_WRITE (R303): A host write through BAR4. -/
  | bar4Write (off : Nat) (data : List (BitVec 8))
  /-- BAR4_ATOMIC (R303): A host AtomicOp performed at the owning cistern. -/
  | bar4Atomic (off : Nat) (op : Nat) (size : Nat) (b : BitVec 64) (c : BitVec 64)
  /-- EVR_INTERRUPT (R309): The device signals the event ring's vector, at most once per microsecond. -/
  | evrInterrupt
  /-- REGISTER_WRITE (R10): A write to a register with no behaviour of its own, under the access codes. -/
  | registerWrite (off : Nat) (size : Nat) (v : BitVec 64)
  /-- PRELOAD_WRITE_DROP (R300): A BAR write without an image is dropped and counted. -/
  | preloadWriteDrop (bar : Nat) (off : Nat)
  /-- CLEAR (R299): Clear the load staging buffer. -/
  | loadClear
  /-- APPEND (R299): Append bytes from the data window to staging. -/
  | loadAppend (len : Nat)
  /-- LOAD (R296): Load the staged image through its static and hardware stages. -/
  | loadStaged
  /-- COMMIT (R295): Write the staged image into the inactive flash slot. -/
  | loadCommitSlot
  /-- LOAD_COMMIT (R295): Commit the staged image, then load from flash. -/
  | loadCommitLoad
  /-- RELOAD (R294): Load from flash by the slot-choice rule. -/
  | loadReload
  /-- PORT_TRAINING_DONE (R339): A Ridge port locks its lanes and FEC and moves to HELLO. -/
  | portTrainingDone (p : Nat) (lanes : BitVec 8)
  /-- PORT_TRAINING_TIMEOUT (R339): A port not locked after 500 ms starts training again. -/
  | portTrainingTimeout (p : Nat)
  /-- HELLO (R339): A HELLO link frame is received, checked and keys agreed. -/
  | linkHello (p : Nat) (h : HelloRec) (k : PeerKey)
  /-- ACK (R342): A cumulative link acknowledgement is received. -/
  | linkAck (p : Nat) (seq : BitVec 16)
  /-- LINK_NAK (R346): A link NAK is received and the sender replays. -/
  | linkNak (p : Nat) (seq : BitVec 16) (credits : BitVec 96) (overrun : Bool)
  /-- CREDIT (R341): Credits for a virtual channel are returned. -/
  | linkCredit (p : Nat) (credits : BitVec 96)
  /-- SIGNAL_LOSS (R347): A Ridge port loses signal and goes to RETRAIN. -/
  | signalLoss (p : Nat)
  /-- LINK_REKEY (R396): A direction reaching 2^47 control units forces a retrain with new keys. -/
  | linkRekey (p : Nat)
  /-- FRAME_FORWARD (R343): A frame for another destination is routed onto a port bundle. -/
  | frameForward (p : Nat) (f : Frame)
  /-- LINK_HOLD_EXPIRY (R341): A frame waiting longer than LINK_HOLD is dropped and answered LINK_DOWN. -/
  | linkHoldExpiry (k : Nat)
  /-- MEM_RD (R350): A board memory read received and served by the owning cistern. -/
  | memRd (p : Nat) (f : Frame)
  /-- MEM_WR (R350): A board memory write received and performed. -/
  | memWr (p : Nat) (f : Frame)
  /-- MEM_ATOM (R350): A board memory atomic received and performed. -/
  | memAtom (p : Nat) (f : Frame)
  /-- MEM_RSP (R350): An answer to a board memory request arrives at the requester. -/
  | memRsp (p : Nat) (f : Frame)
  /-- RSP_TIMEOUT_EXPIRY (R350): A board memory request unanswered within RSP_TIMEOUT loses its context. -/
  | rspTimeoutExpiry (tag : BitVec 16)
  /-- SIGNAL (R351): An inbound SIGNAL frame is performed on a slot's event or refused. -/
  | signalFrame (p : Nat) (f : Frame)
  /-- SIG_RSP (R352): A SIG_RSP arrives and REMOTE_SIGNAL completes. -/
  | sigRsp (p : Nat) (f : Frame)
  /-- BARRIER (R353): A barrier message is received and the highest step recorded. -/
  | barrierFrame (p : Nat) (f : Frame)
  /-- CONTRIB (R241): A contribution part reaches a holder and is added, carried or dropped. -/
  | contribFrame (p : Nat) (f : Frame)
  /-- RESULT (R242): Result or all-gather parts are received and written into DST. -/
  | resultFrame (p : Nat) (f : Frame)
  /-- NAK (R345): A routed NAK is received and the source acts per its code. -/
  | nakFrame (p : Nat) (f : Frame)
  /-- RETRAIN (R339): Host writes RETRAIN to a Ridge port. -/
  | portRetrain (p : Nat)
  /-- DISABLE (R339): Host sets or clears a Ridge port's DISABLE. -/
  | portDisable (p : Nat) (on : Bool)
  /-- ETH_RX_FRAME (R358): An ordinary Ethernet frame is received into the receive ring. -/
  | ethRxFrame (p : Nat) (data : List (BitVec 8)) (bad : Bool)
  /-- ETH_TXR_TAIL_WRITE (R358): The host raises the transmit tail and the module sends frames. -/
  | ethTxrTailWrite (p : Nat) (v : BitVec 32)
  /-- ETH_RXR_HEAD_WRITE (R358): The host gives receive buffers. -/
  | ethRxrHeadWrite (p : Nat) (v : BitVec 32)
  /-- ROCE_PACKET (R357): A RoCEv2 packet is received on a checkpoint queue pair. -/
  | rocePacket (qp : Nat) (k : RocePkt)
  /-- PFC_WATCHDOG (R346): A pause held for 100 ms is ignored on that priority. -/
  | pfcWatchdog (p : Nat)
  /-- PCIE_TLP (R346): A TLP received on the host link, checked and answered. -/
  | pcieTlp (t : Tlp)
  /-- PCIE_COMPLETION_TIMEOUT (R346): A device read of host memory times out and returns poisoned. -/
  | pcieCompletionTimeout (ctx : Nat)
  /-- CKP_QP_CTRL_WRITE (R377): Enable or disable a checkpoint queue pair. -/
  | ckpQpCtrlWrite (q : Nat) (v : BitVec 64)
  /-- CIS_WIN_CTRL_WRITE (R263): Enable, disable or configure a persistence window. -/
  | cisWinCtrlWrite (w : Nat) (v : BitVec 64)
  /-- CIS_WIN_RANGE_WRITE (R263): Write a window's BASE or LIMIT, dropped while enabled. -/
  | cisWinRangeWrite (w : Nat) (limit : Bool) (v : BitVec 64)
  /-- OWNER_ENROLL (R382): Burn a new owner key hash into a free slot. -/
  | ownerEnroll
  /-- OWNER_REVOKE (R382): Burn an owner slot's revocation fuse. -/
  | ownerRevoke
  /-- PT_INSTALL (R390): Check and tag a page-table page of a confidential context. -/
  | ptInstall
  /-- PT_WRITE (R390): Check and write one page-table entry of a confidential context. -/
  | ptWrite
  /-- PT_RELEASE (R390): Zero and untag an installed page-table page. -/
  | ptRelease
  /-- MEASURE_RANGE (R391): Extend a context's measurement with the hash of a range. -/
  | measureRange
  /-- SEAL (R391): Seal a confidential context's measurement. -/
  | sealCtx
  /-- GET_VERSION (R384): SPDM request for versions. -/
  | getVersion (sess : Nat) (req : List (BitVec 8))
  /-- GET_CAPABILITIES (R384): SPDM request for capabilities. -/
  | getCapabilities (sess : Nat) (req : List (BitVec 8))
  /-- NEGOTIATE_ALGORITHMS (R384): SPDM algorithm negotiation. -/
  | negotiateAlgorithms (sess : Nat) (req : List (BitVec 8))
  /-- GET_DIGESTS (R384): SPDM request for certificate digests. -/
  | getDigests (sess : Nat) (req : List (BitVec 8))
  /-- GET_CERTIFICATE (R384): SPDM request for the slot 0 certificate chain. -/
  | getCertificate (sess : Nat) (req : List (BitVec 8))
  /-- CHALLENGE (R384): SPDM challenge answered with an AK signature. -/
  | spdmChallenge (sess : Nat) (req : List (BitVec 8))
  /-- GET_MEASUREMENTS (R385): SPDM request for measurement blocks. -/
  | getMeasurements (sess : Nat) (m : MeasReq)
  /-- KEY_EXCHANGE (R384): SPDM session key exchange. -/
  | keyExchange (sess : Nat) (req : List (BitVec 8))
  /-- FINISH (R384): SPDM session finish. -/
  | spdmFinish (sess : Nat) (req : List (BitVec 8))
  /-- END_SESSION (R384): SPDM session end. -/
  | endSession (sess : Nat) (req : List (BitVec 8))
  /-- HEARTBEAT (R384): SPDM session heartbeat. -/
  | spdmHeartbeat (sess : Nat) (req : List (BitVec 8))
  /-- KEY_UPDATE (R384): SPDM session key update. -/
  | keyUpdate (sess : Nat) (req : List (BitVec 8))
  /-- SET_SECRET (R392): Vendor-defined request giving a sealed context its data and migration key. -/
  | setSecret (sess : Nat) (ctx : Nat) (m : BitVec 384) (key : BitVec 512) (va : BitVec 64) (data : List (BitVec 8))
  /-- KEY_PROG (R395): IDE_KM programs an IDE key. -/
  | keyProg (k : IdeKey)
  /-- K_SET_GO (R395): IDE_KM starts using a key set. -/
  | kSetGo (sess : Nat)
  /-- K_SET_STOP (R395): IDE_KM stops using a key set. -/
  | kSetStop (sess : Nat)
  /-- POWER_EVALUATION (R405): Every 10 us the controller evaluates its averages and junction temperature and may step. -/
  | powerEvaluation (avg1 : Nat) (avg10 : Nat) (tj : Nat)
  /-- OP_STEP_END (R404): A rail ramp finishes; a step down ends or a step up changes the divider. -/
  | opStepEnd
  /-- FAST_PATH (R406): Input overcurrent or a regulator limit jumps the point to OP3. -/
  | fastPath
  /-- FAST_PATH_HOLD_END (R406): The 1 ms OP3 hold of the fast path ends. -/
  | fastPathHoldEnd
  /-- THERMAL_TRIP (R407): A junction reaches 115 C and every rail but always-on turns off. -/
  | thermalTrip
  /-- REF_LOSS (R402): The module reference is lost and the PLL holds over at OP3. -/
  | refLoss
  /-- REF_RESTORED (R402): The reference has been good for 100 ms and OP3 is released. -/
  | refRestored
  /-- PWR_LIMIT_WRITE (R403): Set the power limit, cap and throttle temperature, stepping down if the cap requires. -/
  | pwrLimitWrite (v : BitVec 64)
  /-- PWR_HOST_VOTE_WRITE (R413): Set the host's domain votes. -/
  | pwrHostVoteWrite (i : Nat) (v : BitVec 64)
  /-- IDLE_TIMER_EXPIRY (R412): A domain's IDLE timer reaches IDLE_NS and it enters IDLE. -/
  | idleTimerExpiry (d : Nat)
  /-- SLEEP_TIMER_EXPIRY (R412): A domain's SLEEP timer reaches SLEEP_US and it enters SLEEP. -/
  | sleepTimerExpiry (d : Nat)
  /-- LOW_STATE_ENTRY (R413): An idle domain with no votes enters its LOW state. -/
  | lowStateEntry (d : Nat)
  /-- DOMAIN_ENTRY_DONE (R417): A domain completes its entry into IDLE, SLEEP or DEEP. -/
  | domainEntryDone (d : Nat)
  /-- WAKE (R414): Host writes WAKE to a domain. -/
  | wakeDomain (d : Nat)
  /-- WAKE_EVENT (R414): A request or vote reaches a domain not at RUN and its exit begins. -/
  | wakeEvent (d : Nat)
  /-- WAKE_STAGE_READY (R415): A wake stage's ready signal arrives and the next stage starts. -/
  | wakeStageReady (d : Nat)
  /-- WAKE_STAGE_TIMEOUT (R416): A wake stage exceeds four times its typical time and the domain fails. -/
  | wakeStageTimeout (d : Nat)
  /-- OFF_ENTRY (R418): The module enters OFF when allowed and every domain is unvoted. -/
  | offEntry
  /-- WAKE_N (R419): WAKE_N held low in OFF starts the exit from OFF. -/
  | wakePin
  /-- PWR_PART_RESET (R422): Reset one partition. -/
  | pwrPartReset (v : BitVec 64)
  /-- PART_RESET_DONE (R422): A partition reset completes and BUSY clears. -/
  | partResetDone
  /-- POWER_ON (R450): The 54 V input rises through 48 V and the bring-up sequence runs. -/
  | powerOn
  /-- RESET_N (R452): RESET_N held low turns off all rails except always-on. -/
  | resetPin
  /-- RESET_N_RELEASE (R452): RESET_N rises and bring-up restarts from its 40 ms stage. -/
  | resetPinRelease
  /-- PERST (R451): PCIe fundamental reset destroys contexts and reloads the image. -/
  | perstAssert
  /-- HOT_RESET (R335): PCIe hot reset destroys every context. -/
  | hotReset
  /-- FLR (R335): Function-level reset destroys every context. -/
  | flr
  /-- INPUT_OVERVOLTAGE (R442): The input exceeds 60 V and the hot-swap controller opens. -/
  | inputOvervoltage
  /-- INPUT_POWER_LOSS (R374): The input stays below 46 V past hold-up and all volatile state is lost. -/
  | inputPowerLoss
  /-- CLEAR_ALL (R429): Set every detector counter to 0. -/
  | clearAll
  /-- DET_LOG_SEL_WRITE (R429): Select an error-log record and start its read. -/
  | detLogSelWrite (v : BitVec 64)
  /-- DET_LOG_READ_DONE (R429): The selected log record is read and BUSY clears. -/
  | detLogReadDone
  /-- INJ_CTRL_ARM (R431): Arm an injector at a detector point and unit. -/
  | injCtrlArm (j : Nat) (v : BitVec 64)
  /-- INJ_CTRL_DISARM (R431): Disarm an injector. -/
  | injCtrlDisarm (j : Nat) (v : BitVec 64)
  /-- MONITOR_RX_ERROR (R437): A framing error or over-long line is answered with an error. -/
  | monitorRxError (rx : MonRx)
  /-- ID (R438): Monitor command reporting identity. -/
  | monId
  /-- STATUS (R438): Monitor command reporting load and power status. -/
  | monStatus
  /-- BAUD (R436): Monitor command changing the serial rate. -/
  | monBaud (rate : Nat)
  /-- CNT (R438): Monitor command reading one counter. -/
  | monCnt (i : CntSel)
  /-- CNT_ALL (R438): Monitor command listing every non-zero counter. -/
  | monCntAll
  /-- CNTCLR (R438): Monitor command clearing one or all counters. -/
  | monCntclr (i : Option Nat)
  /-- LOG (R438): Monitor command listing recent error-log records. -/
  | monLog (n : Nat)
  /-- MARKS (R438): Monitor command listing channel marks. -/
  | monMarks
  /-- INJ_ARM (R438): Monitor command arming an injector. -/
  | monInjArm (j : Nat) (point : Nat) (unit : Nat) (periodic : Bool) (skip : Nat) (period : Nat) (limit : Nat)
  /-- INJ_OFF (R438): Monitor command disarming injectors. -/
  | monInjOff (i : Option Nat)
  /-- INJ_LIST (R438): Monitor command listing armed injectors. -/
  | monInjList
  /-- TILE_RD (R438): Monitor command reading TILE window words. -/
  | monTileRd (off : Nat) (n : Nat)
  /-- TILE_WR (R438): Monitor command writing a TILE window word. -/
  | monTileWr (off : Nat) (v : BitVec 64)
  /-- MARKCLR (R435): Monitor command erasing channel marks. -/
  | monMarkclr (i : Option Nat)
  /-- SHADOW_READ (R14): A 4-byte read of the low half of a 64-bit register copies the high half into the register's shadow. -/
  | shadowRead (a : BarRead)
  /-- MBRK_SPILL_EDIT_DONE (R63): An MBRK's edit of spilled mask-stack entries completes and the group may issue again. -/
  | mbrkSpillEditDone (g : GRef)
  /-- PERST_N_RELEASE (R451): PERST_N is deasserted, so the PCIe link trains and the image is loaded from flash again. -/
  | perstRelease
  /-- PCIE_LINK_UP (R451): PCIe link training with the host completes and the identity and status page starts to answer. -/
  | pcieLinkUp
  /-- MREF_PRESENT (R448): The module reference appears within tolerance while bring-up waits at the PLL stage, and the Cairn leaves reset. -/
  | mrefPresent
  /-- OVERVOLTAGE_RESTART (R442): After an overvoltage shut-off, the input falls below 59.0 V and the module starts its bring-up again. -/
  | overvoltageRestart
  /-- IDENT_HEARTBEAT (R304): Every ms while the Cairn runs, IDENT_HEARTBEAT rises by one and TJMAX is updated. -/
  | identHeartbeat (tj : Nat)
  /-- FEC_LOCK_LOST (R346): A Ridge port whose FEC lock has been lost for 10 us retrains. -/
  | fecLockLost (p : Nat)
  /-- MALFORMED_FRAME (R340): A routed frame of a reserved TYPE is received and answered NAK MALFORMED, or dropped. -/
  | malformedFrame (p : Nat) (f : Frame)
  /-- ETH_LINK (R356): An Ethernet port's link comes up or goes down, and ETH_STATUS.LINK changes. -/
  | ethLink (p : Nat) (on : Bool)
  /-- PFC_PAUSE_FRAME (R356): A priority flow control pause frame received on an Ethernet port starts or ends the pause of RoCEv2 transmission. -/
  | pfcPauseFrame (p : Nat) (on : Bool)
  /-- PFC_PAUSE_CEASED (R346): Pause has ceased for 10 ms on a watchdogged priority, so the port obeys pause again. -/
  | pfcPauseCeased (p : Nat)
  /-- ETH_RING_INTERRUPT (R358): An Ethernet ring signals its VECTOR, at most once per us, after DONE is set. -/
  | ethRingInterrupt (p : Nat) (tx : Bool)
  /-- MONITOR_UNKNOWN_COMMAND (R438): A monitor line that names no command is answered ERR SYNTAX. -/
  | monitorUnknownCommand
deriving DecidableEq, Repr

end Sys2Proof
end

