-- ==== Sys2Proof/Decode.lean ====
section
/-!
DEFINITION. The command that a word spells by the opcode table's bits. The table gives no row bits, so no word spells one; the
64-bit instruction words of the lanes are decoded in Sys2Proof.Machine.IllegalWord.
-/
namespace Sys2Proof

/-- No row of the opcode table has bits. -/
def decodeTableWord (_nbits _w : Nat) : Option Instr := none

end Sys2Proof
end

