-- ==== Sys2Proof/Config.lean ====
section
/-!
DEFINITION. What the spec leaves open, as constants without a value: free values, and the functions of standards that the
spec cites and does not give. Every claim about the model holds whatever they are.
-/
namespace Sys2Proof

/-- The n-th free value the model takes (log 9): a value the spec leaves open, such as a time or a choice of the device. -/
opaque Config.freeValue : Nat → BitVec 64

/-- The n-th free choice the model takes (log 9). -/
opaque Config.freeChoice : Nat → Bool

/-- Whether the bank of a line is ready at a slot of its channel (R268): the n-th free value, by line (log 9). -/
opaque Config.bankReady : Nat → Nat → Bool

/-- Where each capability structure of configuration space stands (R302; log 44). -/
opaque Config.cfgCap : Nat → Nat

/-- Whether the host's root complex performs AtomicOps, or answers them with Unsupported Request (R82, R331; log 18). -/
opaque Config.hostAtomics : Bool

/-- An approximate function (R57): operation code of Table 2.7, whether the format is F64, and the input's bits. It is a
function of these, since R57 makes it deterministic; the model holds it to R57's bound where the bound applies (log 15). -/
opaque Config.approx : Nat → Bool → BitVec 64 → BitVec 64

/-- CRC-32 of IEEE 802.3 over bytes (10, 16 T16.6; log 14). -/
opaque Config.crc32 : List (BitVec 8) → BitVec 32

/-- CRC-64 of the checkpoint image (13; log 14). -/
opaque Config.crc64 : List (BitVec 8) → BitVec 64

/-- SHA-384 over bytes (10, 14; log 14). -/
opaque Config.sha384 : List (BitVec 8) → BitVec 384

/-- Whether an ECDSA P-384 signature verifies: public key, digest, signature (10, 14; log 14). -/
opaque Config.ecdsaOk : List (BitVec 8) → BitVec 384 → List (BitVec 8) → Bool

/-- The row of crests in which a request from one crest to another changes its column (R33; log 48). -/
opaque Config.meshTurn : Nat → Nat → Nat

/-- The ECDSA P-384 signature of a private key over a digest (R384, R396; log 14). -/
opaque Config.ecdsaSign : BitVec 384 → BitVec 384 → List (BitVec 8)

/-- The public key of a P-384 private key (R379; log 14). -/
opaque Config.p384Pub : BitVec 384 → List (BitVec 8)

/-- The shared secret of ECDH on P-384: a private key and the other side's public key (R396; log 14). -/
opaque Config.ecdh : BitVec 384 → List (BitVec 8) → BitVec 384

/-- The link key that HKDF-SHA-384 gives of a shared secret, for the direction from a module's serial and port (R396; log 14). -/
opaque Config.linkKey : BitVec 384 → BitVec 64 → BitVec 5 → BitVec 256

/-- The device identity key that the Cairn ROM derives from UDS (R379; log 14). -/
opaque Config.deriveDik : BitVec 384 → BitVec 384

/-- The alias key that it derives from UDS and the firmware's measurement (R379; log 14). -/
opaque Config.deriveAk : BitVec 384 → BitVec 384 → BitVec 384

/-- The certificates of the Fjarber root and of the Fjarber device CA, one after the other (R384; log 14). -/
opaque Config.fjCerts : List (BitVec 8)

/-- The DIK certificate: of a module serial and a public key (R384; log 14). -/
opaque Config.dikCert : BitVec 64 → List (BitVec 8) → List (BitVec 8)

/-- The AK certificate, which DIK signs: of DIK, a public key, and the firmware's measurement (R379, R384; log 14). -/
opaque Config.akCert : BitVec 384 → List (BitVec 8) → BitVec 384 → List (BitVec 8)

/-- AES-256-XTS on one block of a data unit (R387, R393; log 14): by key, tweak and the block's number in its unit, the permutation of 128-bit
blocks that it is, as exchanges of two blocks performed in their order. -/
opaque Config.xts : BitVec 512 → Nat → Nat → List (BitVec 128 × BitVec 128)

/-- The Cairn ROM's version (14 Table 14.3, block 1; log 14). -/
opaque Config.romVersion : BitVec 64

/-- The SHA-384 digest of a Cairn firmware copy in flash (14 R380, Table 14.3, block 2; log 14). -/
opaque Config.fwDigest : Nat → BitVec 384

/-- The Fjarber slot that a Cairn firmware copy names for its signature, and the signature over its digest (14 R380; log 14). -/
opaque Config.fwSigned : Nat → Nat × List (BitVec 8)

/-- The security version of a Cairn firmware copy (14 R380; log 14). -/
opaque Config.fwSvn : Nat → BitVec 16

/-- The version, FW_MAJOR and FW_MINOR, of a Cairn firmware copy (11 Table 11.3; log 14). -/
opaque Config.fwVersion : Nat → BitVec 16

end Sys2Proof
end

