-- ==== Sys2Proof/Machine/Bits.lean ====
section
/-!
DEFINITION. Bit fields, sign extension and small list helpers over plain numbers.
-/
namespace Sys2Proof.Machine

/-- The `n` bits of `x` from bit `lo`. -/
def bitsOf (x lo n : Nat) : Nat := (x >>> lo) % 2 ^ n

/-- Bit `i` of `x`. -/
def bitOf (x i : Nat) : Bool := x.testBit i

/-- The two's-complement value of the low `n` bits of `x` (R9: sN). -/
def sVal (n x : Nat) : Int :=
  let y := x % 2 ^ n
  if 2 * y < 2 ^ n then (y : Int) else (y : Int) - (2 ^ n : Nat)

/-- The low `n` bits of an integer (R9: arithmetic wraps modulo 2^n). -/
def wrapN (n : Nat) (v : Int) : Nat := (v % ((2 ^ n : Nat) : Int)).toNat

/-- `v` held to the range `l` to `h`. -/
def clampI (l h v : Int) : Int := if v < l then l else if h < v then h else v

/-- A Boolean as 1 or 0. -/
def b2n (b : Bool) : Nat := if b then 1 else 0

/-- Replace the `n` bits of `x` from bit `lo` by the low `n` bits of `v`. -/
def setBits (x lo n v : Nat) : Nat :=
  (x % 2 ^ lo) + (v % 2 ^ n) * 2 ^ lo + (x >>> (lo + n)) * 2 ^ (lo + n)

/-- Replace the field of a 64-bit register. -/
def setField (x : BitVec 64) (lo n v : Nat) : BitVec 64 := BitVec.ofNat 64 (setBits x.toNat lo n v)

/-- A field of a 64-bit register. -/
def field (x : BitVec 64) (lo n : Nat) : Nat := bitsOf x.toNat lo n

/-- Number of 1 bits among the low `n` bits of `x`. -/
def popN : Nat → Nat → Nat
  | 0, _ => 0
  | n + 1, x => x % 2 + popN n (x / 2)

/-- Leading zeros of the low `n` bits of `x`. -/
def clzN : Nat → Nat → Nat
  | 0, _ => 0
  | n + 1, x => if x.testBit n then 0 else 1 + clzN n x

/-- The low `n` bits of `x` in reverse order. -/
def revN : Nat → Nat → Nat
  | 0, _ => 0
  | n + 1, x => (x % 2) * 2 ^ n + revN n (x / 2)

/-- The number of bits of `x` (0 for 0). -/
def bitLen (x : Nat) : Nat := if x = 0 then 0 else Nat.log2 x + 1

/-- The largest `r` with r * r at most `x`, by bits: `k` steps from the bit of weight 2^(k-1). -/
def isqrtFrom : Nat → Nat → Nat → Nat
  | 0, _, r => r
  | k + 1, x, r => if (r + 2 ^ k) * (r + 2 ^ k) ≤ x then isqrtFrom k x (r + 2 ^ k) else isqrtFrom k x r

/-- The integer square root. -/
def isqrt (x : Nat) : Nat := isqrtFrom (bitLen x / 2 + 1) x 0

/-- Replace element `i` of a list. -/
def setAt {α : Type} (l : List α) (i : Nat) (v : α) : List α := l.set i v

/-- Rotate the low 32 bits left (R9: rotl32). -/
def rotl32 (x : BitVec 32) (n : Nat) : BitVec 32 := x.rotateLeft (n % 32)

end Sys2Proof.Machine
end

