-- ==== Sys2Proof/Machine/Tbl.lean ====
section
/-!
DEFINITION. Sparse tables and memories: lists of keys and values, keys strictly rising.
-/
namespace Sys2Proof.Machine

/-- A sparse table: entries in strictly rising order of their keys. -/
abbrev Tbl (α : Type) := List (Nat × α)

/-- The entry of key `k`, if the table lists one. -/
def Tbl.find {α : Type} : Tbl α → Nat → Option α
  | [], _ => none
  | (k', v) :: t, k => if k = k' then some v else Tbl.find t k

/-- The entry of key `k`, or `d` where the table lists none. -/
def Tbl.getD {α : Type} (t : Tbl α) (k : Nat) (d : α) : α := (Tbl.find t k).getD d

/-- Set the entry of key `k`. -/
def Tbl.put {α : Type} : Tbl α → Nat → α → Tbl α
  | [], k, v => [(k, v)]
  | (k', v') :: t, k, v =>
    if k < k' then (k, v) :: (k', v') :: t
    else if k = k' then (k, v) :: t
    else (k', v') :: Tbl.put t k v

/-- Remove the entry of key `k`. -/
def Tbl.del {α : Type} : Tbl α → Nat → Tbl α
  | [], _ => []
  | (k', v') :: t, k => if k = k' then Tbl.del t k else (k', v') :: Tbl.del t k

/-- Set the entry of key `k` in a table whose unlisted keys read as `d`: the value `d` is not listed. -/
def Tbl.set {α : Type} [DecidableEq α] (d : α) (t : Tbl α) (k : Nat) (v : α) : Tbl α :=
  if v = d then Tbl.del t k else Tbl.put t k v

/-- Set every entry of `u` in `t`. -/
def Tbl.putAll {α : Type} (t u : Tbl α) : Tbl α := u.foldl (fun a e => Tbl.put a e.1 e.2) t

/-- Change the entry of key `k` where there is one. -/
def Tbl.modify {α : Type} (t : Tbl α) (k : Nat) (f : α → α) : Tbl α :=
  match Tbl.find t k with
  | some v => Tbl.put t k (f v)
  | none => t

/-- Keys strictly rise, and every key lies above `lo`. -/
def Tbl.risingFrom {α : Type} : Nat → Tbl α → Bool
  | _, [] => true
  | lo, (k, _) :: t => decide (lo ≤ k) && Tbl.risingFrom (k + 1) t

/-- Keys strictly rise. -/
def Tbl.rising {α : Type} (t : Tbl α) : Bool := Tbl.risingFrom 0 t

/-- A byte memory: listed bytes at strictly rising addresses; an unlisted address reads as 0. -/
abbrev Memory := List Host.Cell

/-- One byte. -/
def Memory.read (m : Memory) (a : Nat) : BitVec 8 := Tbl.getD m a 0

/-- Write one byte; a zero byte is not listed. -/
def Memory.write (m : Memory) (a : Nat) (b : BitVec 8) : Memory := Tbl.set 0 m a b

/-- The canonical form: addresses strictly rise and no listed byte is 0. -/
def Memory.wf (m : Memory) : Bool := Tbl.rising m && m.all (fun c => decide (c.2 ≠ 0))

/-- Write bytes at rising addresses from `a`. -/
def Memory.writes : Memory → Nat → List (BitVec 8) → Memory
  | m, _, [] => m
  | m, a, b :: bs => Memory.writes (Memory.write m a b) (a + 1) bs

/-- The `n` bytes from address `a`. -/
def Memory.reads (m : Memory) (a n : Nat) : List (BitVec 8) := (List.range n).map fun i => Memory.read m (a + i)

/-- The little-endian value of bytes (R5). -/
def leVal : List (BitVec 8) → Nat
  | [] => 0
  | b :: bs => b.toNat + 256 * leVal bs

/-- The `n` bytes of a little-endian value (R5). -/
def leBytes : Nat → Nat → List (BitVec 8)
  | 0, _ => []
  | n + 1, v => BitVec.ofNat 8 v :: leBytes n (v / 256)

end Sys2Proof.Machine
end

