-- ==== Sys2Proof/Machine/State.lean ====
section
/-!
DEFINITION. The state of the module as plain data, the reasons a step can stop, and the state after power-on reset.
Tables are sparse (Sys2Proof.Machine.Tbl): an entry that is not listed holds its reset value.
-/
namespace Sys2Proof.Machine

/-! ## Tiles: groups and blocks (02, 03) -/

/-- An entry of a group's mask stack (R61). -/
structure MEntry where
  outer : BitVec 32
  els : BitVec 32
  rpc : BitVec 64
  loop : Bool
deriving DecidableEq, Repr, Inhabited

/-- Where a wait of R97 or R100 stands: on its way to its cistern, held there, answered early by a full cistern (R99),
held by the tile's own scratch, or polled in host memory or in another module (log 21). -/
inductive WatchAt where
  | sent | held | early | scratch | host | board
deriving DecidableEq, Repr, Inhabited

/-- A WAITNE or EVWAIT in progress: the place watched (a DPA, a scratch address of the tile, or a host bus address),
the value compared with, and the register that receives the answer. -/
structure Watch where
  site : WatchAt
  addr : Nat
  wide : Bool
  event : Bool
  cmp : BitVec 64
  dst : Nat
deriving DecidableEq, Repr, Inhabited

/-- Why a resident group does not issue (R41, R63, R64, R79, R86, R89, R93, R97). -/
inductive Wait where
  | ready
  | barrier
  | fence (scope : Nat)
  | scwait
  | uwait (mask : BitVec 4) (upto : Nat)
  | spill
  | refill
  | edit
  | overflow
  | watch (w : Watch)
deriving DecidableEq, Repr, Inhabited

/-- A resident group (R40, R61): its rank and block, control state, the mask stack's hardware entries (top first) and
the number of entries spilled below them, its registers (key: lane times 128 plus register), its CG-412 key (R223), what
it waits for. -/
structure Group where
  rank : Nat
  block : Nat
  pc : BitVec 64
  m : BitVec 32
  l : BitVec 32
  stack : List MEntry
  spilled : Nat
  regs : Tbl (BitVec 32)
  key : BitVec 64
  wait : Wait
deriving DecidableEq, Repr, Inhabited

/-- A resident block (R66, R67): its command, its number in the launch, its coordinates, its scratch allocation, the slots whose groups have
arrived at the barrier (R93), whether any arrival has the ordering form (R96), the generation count, and the tile clock
count TCYC since its start. -/
structure Block where
  cmd : CmdRef
  num : Nat
  x : Nat
  y : Nat
  z : Nat
  groups : Nat
  base : Nat
  visible : Nat
  spillUnits : Nat
  claim : Bool
  arrived : List Nat
  ordering : Bool
  gen : Nat
  tcyc : BitVec 64
deriving DecidableEq, Repr, Inhabited

/-- Which group of which launch: its block's command and number, and its rank (R66). A slot names another group once its group has ended. -/
structure GroupId where
  cmd : CmdRef
  num : Nat
  rank : Nat
deriving DecidableEq, Repr, Inhabited

/-- A store waiting in a tile's store queue (R84): the slot and the group that issued it, what it reaches (0 device, 1 board, 2 host:
the TGT of its translation), the line's base address there, its bytes by offset in the line, its hint, its context,
and whether it releases at device scope or wider (R77). -/
structure QStore where
  slot : Nat
  gid : GroupId
  ctx : Nat
  tgt : Nat
  line : Nat
  bytes : Tbl (BitVec 8)
  hint : Nat
  rel : Bool
deriving DecidableEq, Repr, Inhabited

/-- An L1 line (R48): the device line it holds, its four sector-valid bits and its bytes by offset. -/
structure L1Line where
  line : Nat
  sectors : BitVec 4
  bytes : Tbl (BitVec 8)
deriving DecidableEq, Repr, Inhabited

/-- An SCOPY in flight (R59, R89): the slot and the group, the target tile and address in its scratch, and the bytes read at issue. -/
structure Scopy where
  slot : Nat
  gid : GroupId
  dstTile : Nat
  dst : Nat
  data : List (BitVec 8)
deriving DecidableEq, Repr, Inhabited

/-- A wait held by a cistern or a tile (R97): the waiting group, what it watches, the answering value once a write
has ended it, and whether that value was read from a poisoned line (R272). -/
structure HeldWait where
  tile : Nat
  slot : Nat
  w : Watch
  answer : Option (BitVec 64)
  poison : Bool
deriving DecidableEq, Repr, Inhabited

/-! ## Arrays, well and pumps (04, 06) -/

/-- An accumulator of the well (R112). -/
structure Acc where
  x : BitVec 192
  nan : Bool
  pinf : Bool
  ninf : Bool
  ovf : Bool
deriving DecidableEq, Repr, Inhabited

/-- The state of a well row (R112): base and truncation count. -/
structure WellRow where
  base : BitVec 16
  trunc : BitVec 32
deriving DecidableEq, Repr, Inhabited

/-- A buffer of an array (R102, R113): format, exponent word, elements (key: K-row times 32 plus column), and scale
bytes (key: K-half times 32 plus column) or column exponents (key: column). -/
structure ArrBuf where
  fmt : Nat
  e : BitVec 32
  elems : Tbl Nat
  scales : Tbl Nat
deriving DecidableEq, Repr, Inhabited

/-- An array or well instruction with the operands it read at issue (R105, Table 4.2): d2, b2 and c2 are the second
registers of pairs; `seq` is its place in the order in which the claim's instructions and descriptors were issued (R85, R86);
`done` counts the rows a WDRAIN has handed to a pump or a WACC has taken from one, `taken` holds what an ALOAD, ASTREAM or GPAIR has
taken from one (R135), and `bad` says that a record of it had reserved bits (R127). -/
structure ArrInsn where
  op : Nat
  fmt : Nat
  mod : Nat
  ext : Nat
  d : BitVec 32
  d2 : BitVec 32
  a : BitVec 32
  b : BitVec 32
  b2 : BitVec 32
  c : BitVec 32
  c2 : BitVec 32
  seq : Nat
  done : Nat
  bad : Bool
  taken : List (BitVec 8)
deriving DecidableEq, Repr, Inhabited

/-- One array and its half of the well (R102, R112): buffers, whether an ALOAD has completed since the last exchange,
accumulators (key: row times 32 plus column), row states, and the instruction on each port. -/
structure Arr where
  active : ArrBuf
  shadow : ArrBuf
  acc : Tbl Acc
  rows : Tbl WellRow
  load : Option ArrInsn
  stream : Option ArrInsn
  drain : Option ArrInsn
deriving DecidableEq, Repr, Inhabited

/-- A descriptor enqueued on a pump (R166, R184): its 64 bytes, its role, the scratch operands of PDESC, the group that issued it
(R87), the element it has reached in delivery order (fetched, or written), the elements it has delivered, whether all of them are
fetched or written, its place in the order of issue, the index values it has read, by position (R180), the element the far prefetch
has reached (R189), and whether additions of it to a statistics table were dropped (R161). -/
structure PumpDesc where
  raw : BitVec 512
  role : Nat
  scr : Nat
  stride : Nat
  slot : Nat
  pos : Nat
  out : Nat
  full : Bool
  seq : Nat
  idx : Tbl (BitVec 32)
  far : Nat
  dropped : Bool
deriving DecidableEq, Repr, Inhabited

/-- What the statistics of R159 count for a drained element: written as zero, saturated, non-finite, and the exponent MAXEXP
takes. -/
structure ElemStat where
  zero : Bool
  sat : Bool
  nonfin : Bool
  exp : Option Int
deriving DecidableEq, Repr, Inhabited

/-- An element in a pump's write queue (R188): its code and width in bits, the scale byte of its drained row, what the statistics
count for it, and, on the first element of a row, the row's truncation count. -/
structure QElem where
  code : Nat
  bits : Nat
  scale : Option Nat
  stat : Option ElemStat
  trunc : Nat
deriving DecidableEq, Repr, Inhabited

/-- A unit in a pump's landing buffer (R189): whether its descriptor is a FILL, its elements, and its bytes with the scratch
addresses a FILL writes them to. -/
structure Landed where
  fill : Bool
  n : Nat
  parts : List (Nat × List (BitVec 8))
deriving DecidableEq, Repr, Inhabited

/-- A FEED unit as a position (R194): its descriptor, its first element, how many elements and how many delivered bytes it has. -/
structure FeedUnit where
  raw : BitVec 512
  pos : Nat
  n : Nat
  len : Nat
deriving DecidableEq, Repr, Inhabited

/-- A pump (R185): the descriptors of its read and write sides in enqueue order, units landed and not delivered, the
FEED bytes not yet consumed, the write queue, the positions of the FEED units that hold bytes not yet consumed, and, after a swap, those to
be fetched again with the bytes of the first that are consumed (R194). -/
structure Pump where
  rd : List PumpDesc
  wr : List PumpDesc
  landing : List Landed
  feed : List (BitVec 8)
  writeQ : List QElem
  units : List FeedUnit
  again : List FeedUnit
  skip : Nat
deriving DecidableEq, Repr, Inhabited

/-- The array claim of a tile (R106): the block that holds it, the mode (BWD or FWD), the instruction queue (R104), the
AMODE in progress, the number of instructions and descriptors issued, both arrays and both pumps, and the progress timers of the
primary and the partner array in ms (R107). -/
structure Claim where
  block : Nat
  bwd : Bool
  queue : List ArrInsn
  amode : Option ArrInsn
  seq : Nat
  prim : Arr
  part : Arr
  pump0 : Pump
  pump1 : Pump
  timer0 : Nat
  timer1 : Nat
deriving DecidableEq, Repr, Inhabited

/-- One tile (Table 2.1): resident blocks (under a key of the model's own), resident groups (by slot), scratch, store queue (oldest first),
L1 lines and instruction-cache lines (context and virtual line number; most recently used first), SCOPYs in flight, waits on
scratch, the register cache of each pipeline (slot and register, most recently used first; R46), the array claim, the no-progress
timer of each slot in ms (R69), and the power domain that a request of a slot, or of pump 0 (key 32) or 1 (key 33), was last found
waiting for (R70, R107). -/
structure Tile where
  blocks : Tbl Block
  groups : Tbl Group
  scratch : Memory
  storeQ : List QStore
  l1 : List L1Line
  icache : List (Nat × Nat)
  scopys : List Scopy
  waits : List HeldWait
  rcache : Tbl (List (Nat × Nat))
  claim : Option Claim
  timers : Tbl Nat
  domWaits : Tbl Nat
deriving DecidableEq, Repr, Inhabited

/-! ## Memory (09, 11, 13, 14) -/

/-- A cistern line (R248): the device line it holds and the set it sits in, its valid bytes, and its dirty, poison, keep
and persistent bits, its window number and its tag (R387). -/
structure CLine where
  line : Nat
  set : Nat
  bytes : Tbl (BitVec 8)
  dirty : Bool
  poison : Bool
  keep : Bool
  persist : Bool
  win : Nat
  tag : BitVec 8
deriving DecidableEq, Repr, Inhabited

/-- A directory entry (R264): the line, spur mode, and the tiles or spurs it names. -/
structure DirEntry where
  line : Nat
  set : Nat
  spur : Bool
  who : List Nat
deriving DecidableEq, Repr, Inhabited

/-- Who makes a request, as its answer finds him (R350) and as he keeps his turn at a cistern (R254): a group's load or atomic, a group's
stores, a pump's read side (0, 1) or write side (2, 3) or the tile's arrays (4), a queue command, an update engine, a collective, the end of a
lost context (R332), the host's writes or its other requests, a frame of another module by its source and tag, a request named by its place and
width alone, the zeroing of a confidential line (R389), or no one any more (its context is gone, or nothing waits for the answer). -/
inductive Owner where
  | group (tile slot : Nat)
  | store (tile slot : Nat)
  | pump (tile : Nat) (p : Nat)
  | cmd (r : CmdRef)
  | spur (n : Nat)
  | coll (num : Nat)
  | ending (ctx : Nat)
  | host (write : Bool)
  | far (src tag : Nat)
  | access (dpa n : Nat)
  | wipe
  | noone
deriving DecidableEq, Repr, Inhabited

/-- A request that stalls at a cistern, in the order of its line (R254, R364): the line, who made it, and for which context. Its maker
takes the turn when he presents the request again. -/
structure HeldReq where
  line : Nat
  who : Owner
  ctx : Option Nat
deriving DecidableEq, Repr, Inhabited

/-- A request waiting at a channel controller (R267): class, pseudo-channel, bank-ready flag left out, the line, and
whether it writes. -/
structure ChanReq where
  cls : Nat
  pc : Nat
  line : Nat
  write : Bool
deriving DecidableEq, Repr, Inhabited

/-- A page-state entry (R362): its state and its staging slot. -/
structure PageEntry where
  state : Nat
  slot : Nat
deriving DecidableEq, Repr, Inhabited

/-- One cistern with its channel controller (R248, R259, R264, R267, R362): lines (most recently used first), lines
dropped dirty (most recent first), directory entries (most recently filled first), waits held, requests that stall in the order they came, requests
waiting at the controller (oldest first), slots granted since the last class 3 slot per pseudo-channel, page states by
channel page, and the heartbeat counts at which errors were corrected within the interval of R277. -/
structure Cistern where
  lines : List CLine
  dead : List Nat
  dir : List DirEntry
  waits : List HeldWait
  held : List HeldReq
  reqs : List ChanReq
  guard0 : Nat
  guard1 : Nat
  pages : Tbl PageEntry
  ceTimes : List Nat
deriving DecidableEq, Repr, Inhabited

/-- A cached translation (R317): the context's address space, the page's size as a power of two, its virtual page
number, and the leaf entry. -/
structure XlatEntry where
  asid : BitVec 16
  log2 : Nat
  page : Nat
  leaf : BitVec 64
deriving DecidableEq, Repr, Inhabited

/-- The memories: HBM bytes by device address, the 64-bit HBM words that hold the poison code (R271), the tag of each
device line (R387), host memory by host bus address, the cisterns by channel, and the translation caches. -/
structure Mem where
  hbm : Memory
  poison : Tbl Bool
  tags : Tbl (BitVec 8)
  host : Memory
  cis : Tbl Cistern
  xlat : List XlatEntry
deriving DecidableEq, Repr, Inhabited

/-! ## Contexts, queues and objects (11) -/

/-- An entry of a context's handle table (R328): its generation, its object while the handle is valid, and the nonce of
an export. -/
structure Handle where
  gen : Nat
  obj : Option Nat
  nonce : Option (BitVec 32)
deriving DecidableEq, Repr, Inhabited

/-- The life of a fetched command (R320, R322): submitted, started, or finished with a status. -/
inductive Phase where
  | submitted
  | started
  | finished (status : Nat)
deriving DecidableEq, Repr, Inhabited

/-- A fetched command (R320 to R323): its sequence number (none for a command released by a step-schedule engine), its
512 bits, the WAIT and SIG of its sync block, the objects it names, its phase, whether it has found its WAIT event satisfied
or poisoned, and, for a launch, the block numbers that have become resident. -/
structure Cmd where
  seq : Option (BitVec 32)
  raw : BitVec 512
  wait : Option (BitVec 64 × BitVec 64)
  sig : Option (BitVec 64 × BitVec 64)
  objs : List Nat
  phase : Phase
  placed : List Nat
  progress : Nat
deriving DecidableEq, Repr, Inhabited

/-- A queue (R318, R319): its creation words, the last valid doorbell value, how many commands are fetched, how many
records are written, the commands not yet recorded by their place in the queue, the next place, and whether a
QUEUE_DESTROY waits for it. -/
structure Queue where
  log2n : Nat
  vector : Nat
  irqen : Bool
  ring : BitVec 64
  cq : BitVec 64
  tail : BitVec 32
  fetched : BitVec 32
  done : BitVec 32
  cmds : Tbl Cmd
  next : Nat
  closing : Bool
deriving DecidableEq, Repr, Inhabited

/-- What a swapped-out context keeps in its save area (R312): for each tile, its blocks, groups, block scratch,
waits on scratch, claim, and the no-progress timers of its slots, which pause (R70). -/
structure SavedTile where
  tile : Nat
  blocks : Tbl Block
  groups : Tbl Group
  scratch : Memory
  waits : List HeldWait
  claim : Option Claim
  timers : Tbl Nat
deriving DecidableEq, Repr, Inhabited

/-- A context (R311, Table 11.9): the words of its creation, its slot while resident, its state (0 ACTIVE, 1 SWAPPING,
2 LOST), the code and arguments of its loss, its handle table, its queues, the saved state while swapped out, the ms (and one) at
which the scheduler found it waiting for residency, 0 while it does not wait, whether it is being destroyed, its key slot when confidential
(R386), its two time figures, what is left of its loss, the ms at which its quantum began, and whether a command of it has run since its time
figures were last brought up to date (R314). -/
structure Ctx where
  part : Nat
  conf : Bool
  asid : BitVec 16
  quantum : BitVec 32
  ptBase : Nat
  htBase : Nat
  htLog2 : Nat
  stBase : BitVec 64
  stLog2 : Nat
  stEn : Bool
  saveBase : Nat
  saveSize : Nat
  plist : BitVec 64
  plcnt : Nat
deriving DecidableEq, Repr, Inhabited

/-- What is still to be done for a lost context (R332, R334): the code and addresses of its loss, the command whose work faulted, whether
PLIST is still to be read, the events still to be poisoned, whether the loss is to be reported, and whether an injector made it. -/
structure Ending where
  code : Nat
  va : BitVec 64
  info : BitVec 64
  owner : Option CmdRef
  plist : Bool
  evs : List Nat
  report : Bool
  inj : Bool
deriving DecidableEq, Repr, Inhabited

/-- The changing part of a context: `order` is the ms in which it was first found waiting for residency, plus one, `resident` the ms of its last
swap-in or refused swap-out, `ran` whether a command of it has run since its figures were brought up to date, and `tried` whether a swap-out of it
was refused since it became resident (R312, R314). -/
structure CtxRun where
  words : Ctx
  slot : Option Nat
  lost : Bool
  code : Nat
  faultVa : BitVec 64
  faultInfo : BitVec 64
  handles : Tbl Handle
  queues : Tbl Queue
  saved : List SavedTile
  order : Nat
  destroying : Bool
  keySlot : Option Nat
  busy : BitVec 64
  elapsed : BitVec 64
  ending : Option Ending
  resident : Nat
  ran : Bool
  tried : Bool
deriving DecidableEq, Repr, Inhabited

/-- A memory object (R327): its extents (first device page of 64 KiB and page count), its region, its creator, its
generation, its references, and its key tag, 0 unless it is confidential (R389). -/
structure Obj where
  extents : List (Nat × Nat)
  region : Nat
  creator : Nat
  gen : Nat
  refs : Nat
  tag : Nat
deriving DecidableEq, Repr, Inhabited

/-- The admin command in progress that waits for work to end (R310): QUEUE_DESTROY, or CTX_DESTROY. -/
inductive AdminWait where
  | none
  | queue (id : Nat) (q : Nat)
  | ctx (id : Nat)
deriving DecidableEq, Repr, Inhabited

/-! ## Detectors, injection and the error log (16) -/

/-- Where an upset lies (Table 9.5): a cistern's data, tags, directory or page-state entries, a tile's L1, instruction cache, scratch, register
file, or well and pump queues, or a flit that a tile or cistern sends. -/
inductive Store where
  | data | tags | directory | pageState | l1 | icache | scratch | regs | well | flit
deriving DecidableEq, Repr, Inhabited

/-- An upset that no operation has met yet (R270): the store, its unit (a tile, or 0x1000 plus a cistern), and whether its code cannot correct
it. The next operation that reads the store, or sends the flit, meets it. -/
structure Upset where
  store : Store
  unit : Nat
  ue : Bool
deriving DecidableEq, Repr, Inhabited

/-- An error-log record (T16.6): type, injected flag, boot count, ms since the Cairn left reset, detector, code, unit,
context, argument, and whether its CRC passes. -/
structure LogRec where
  typ : Nat
  inj : Bool
  boot : Nat
  time : Nat
  det : Nat
  code : Nat
  unit : Nat
  ctx : Nat
  arg : Nat
  ok : Bool
deriving DecidableEq, Repr, Inhabited

/-- The error log's flash (R434): records, newest first, the channel marks, and the power-on count. -/
structure ErrLog where
  recs : List LogRec
  marks : List Nat
  boot : Nat
deriving DecidableEq, Repr, Inhabited

/-! ## The structure image in effect (10) -/

/-- A partition (Table 10.5). -/
structure PartEnt where
  sx0 : Nat
  sy0 : Nat
  sw : Nat
  sh : Nat
  slots : Nat
  swap : Bool
  swapMax : Nat
  noprog : Nat
  regions : Nat
  stage : Nat
deriving DecidableEq, Repr, Inhabited

/-- A collective group (Table 12.6). -/
structure GroupEnt where
  group : Nat
  tree : Bool
  n : Nat
  rank : Nat
  parent : Nat
  list : List Nat
deriving DecidableEq, Repr, Inhabited

/-- What the image in effect sets beyond the registers: partitions, groups, each domain's VOTE word (T10.9), DEBUG and INJECT (R293), LOCK (T10.1),
whether an owner signed it, and its owner debug token (empty without one, T14.2); the SHA-384 digest of its bytes is in IDENT_LOAD_DIGEST. -/
structure Img where
  parts : List PartEnt
  groups : List GroupEnt
  votes : Tbl (BitVec 32)
  debug : Bool
  inject : Bool
  lock : Bool
  owner : Bool
  token : List (BitVec 8)
deriving DecidableEq, Repr, Inhabited

/-- A load command that runs (R299): CLEAR, APPEND, the static stage of a LOAD or RELOAD, the writing of a COMMIT into slot A or B with whether a
load from flash follows, and the hardware stage of a load, between its apply point and its end: whether an owner signature was required, and
the sources still to be tried (1 slot A, 2 slot B, 3 host). -/
inductive LoadRun where
  | clear
  | append (len : Nat)
  | load
  | reload
  | commit (inB thenLoad : Bool)
  | hardware (req : Bool) (srcs : List Nat)
deriving DecidableEq, Repr, Inhabited

/-- The load interface (10): staged bytes, the flash slots A and B (image bytes and whether a COMMIT completed them), the
image in effect, whether RWL fields are locked (R301). The repair map (R31): the physical row of the disabled tile by column (32 for each
crest), as the fuses hold it and as the last load applied it. The load command that runs. -/
structure Load where
  staged : List (BitVec 8)
  slotA : List (BitVec 8)
  slotB : List (BitVec 8)
  img : Option Img
  locked : Bool
  fuseMap : Tbl Nat
  repair : Tbl Nat
  running : Option LoadRun
deriving DecidableEq, Repr, Inhabited

/-! ## Engines (07, 08) -/

/-- A running UPD_RUN (R204, R209): its command, the layers its engines have taken and finished, whether one was invalid, and the layers that
engines (by spur) have taken and not begun, because a read of theirs waits. -/
structure UpdRun where
  r : CmdRef
  taken : Nat
  done : Nat
  bad : Bool
  held : Tbl Nat
deriving DecidableEq, Repr, Inhabited

/-- What a spur's update engine works on (R204, R209): the command, the layer's number, its record's address, the STATUS it writes when
the layer's writes are performed, and the additions to statistics records it has still to make: identifier, counters ZEROS, SATS,
NONFIN and ELEMS, and the exponent for MAXEXP. -/
structure UpdEng where
  r : CmdRef
  layer : Nat
  va : Nat
  status : Nat
  adds : List (Nat × List Nat × Option Int)
deriving DecidableEq, Repr, Inhabited

/-- A command a step-schedule engine has released (R228): its reference, whether it is a forward one, its micro-batch, and
whether it has completed. -/
structure Released where
  r : CmdRef
  fwd : Bool
  i : Nat
  done : Bool
deriving DecidableEq, Repr, Inhabited

/-- A running SCHED_RUN (R225 to R231): its command, its descriptor as read at the start, its step, LASTSTEP of its record, the releases
made and counted of both kinds, the released commands not yet counted in release order, whether the barrier of SBAR is passed, and whether
its QUEUE has been destroyed (R227). -/
structure SchedRun where
  r : CmdRef
  desc : BitVec 512
  step : Nat
  last : Nat
  nf : Nat
  nb : Nat
  nfc : Nat
  nbc : Nat
  rel : List Released
  barred : Bool
  closed : Bool
deriving DecidableEq, Repr, Inhabited

/-- A holder's slot (R234, R240 to R242): its step, its state (0 EMPTY, 1 OPEN, 2 CLOSED), the members (by NODE) whose contribution is added,
by part, the members whose contribution was carried in, the members included at the close, the result's parts as they came down the tree,
the members that came late for it and receive it too, and how many members the partial sum of a child stands for. -/
structure CollSlot where
  step : Nat
  state : Nat
  got : Tbl (List Nat)
  carried : List Nat
  incl : Nat
  result : Tbl (List (BitVec 8))
  late : List Nat
  kids : Tbl Nat
deriving DecidableEq, Repr, Inhabited

/-- A running COLL_RUN (R235, R243, R244): its command, its step, the result parts settled by holder or sender (by NODE), the least INCL and
the greatest CARRIED of the results written, whether a part was given up, and what it adds to its statistics record: ZEROS,
SATS, NONFIN, TRUNC and ELEMS, the exponent for MAXEXP, and the result parts asked for once more (sender, part; R244, R276). -/
structure CollRun where
  r : CmdRef
  step : Nat
  parts : Tbl (List Nat)
  incl : Nat
  carried : Nat
  lost : Bool
  counts : List Nat
  maxexp : Option Int
  asked : List (Nat × Nat)
deriving DecidableEq, Repr, Inhabited

/-- An open collective (R235, R240, R276, R353): its descriptor, its context, the objects its COLL_OPEN named, the step of the last
COLL_RUN, the COLL_RUN that runs, both slots, the ms at which the open step's deadline began, the barrier step recorded by NODE, the
frames sent, by tag, and those to be sent again, the parts asked for once more and the contributions taken as not arrived
(step, member), the contributions that a ledger count has counted (step, member), and the parts a holder has dealt with of the open and
the last closed step (step, member, part). -/
structure Coll where
  desc : BitVec 512
  ctx : Nat
  objs : List Nat
  last : Nat
  run : Option CollRun
  slot0 : CollSlot
  slot1 : CollSlot
  since : Option Nat
  barrier : Tbl Nat
  sent : List Frame
  resend : List Frame
  asked : List (Nat × Nat × Nat)
  gone : List (Nat × Nat)
  late : List (Nat × Nat)
  dealt : List (Nat × Nat × Nat)
deriving DecidableEq, Repr, Inhabited

/-! ## Links (12) -/

/-- A board memory request without an answer (R350): its tag, who waits, the key by which its owner knows it, its context, its
frame, and the group on whose behalf it is made. -/
structure BoardReq where
  tag : BitVec 16
  owner : Owner
  key : Nat
  ctx : Nat
  frame : Frame
  gid : Option GroupId
deriving DecidableEq, Repr, Inhabited

/-- An answer to a board memory request that its owner has not used yet: its key and what came back. -/
structure BoardAns where
  owner : Owner
  ctx : Nat
  key : Nat
  bytes : List (BitVec 8)
  poison : Bool
deriving DecidableEq, Repr, Inhabited

/-- A frame that waits for a port or for credits (R341, R343), whether this module originated it, and the port whose receive buffer holds one that
it forwards. -/
structure HeldFrame where
  f : Frame
  own : Bool
  port : Option Nat
deriving DecidableEq, Repr, Inhabited

/-- A REMOTE_SIGNAL without an answer (R352): its command, tag and frame, the ms of its start, and whether it is the poisoning SIGNAL of a
lost context. -/
structure SigReq where
  r : CmdRef
  tag : BitVec 16
  f : Frame
  since : Nat
  poison : Bool
deriving DecidableEq, Repr, Inhabited

/-- The link keys of a port (R396), one for each direction. -/
structure LinkKeys where
  tx : BitVec 256
  rx : BitVec 256
deriving DecidableEq, Repr, Inhabited

/-- A Ridge port beyond its registers (R339 to R347, R396): the next link sequence to send and to expect, frames not acknowledged, oldest first,
those of them that a replay has still to send for want of credits, credits held per virtual channel, the ms of recent replays and credit overruns,
the serial and port number of the last peer that came UP, the link keys agreed, the private key of the HELLO that it has sent, and the control units
sent and received under the keys, which are the nonces. -/
structure Port where
  tx : BitVec 16
  rx : BitVec 16
  replay : List (BitVec 16 × Frame)
  resend : List (BitVec 16 × Frame)
  credits : List Nat
  replays : List Nat
  overruns : List Nat
  peer : Option (BitVec 64 × BitVec 5)
  keys : Option LinkKeys
  eph : BitVec 384
  txUnits : Nat
  rxUnits : Nat
deriving DecidableEq, Repr, Inhabited

/-- The Ridge side of the module: ports, frames that wait, board requests and answers, REMOTE_SIGNALs without an answer, the next
tag, the serial last seen in each window of the board (R349), and the destinations whose bundle changed with the tags that
must be answered first (R344). -/
structure Ridge where
  ports : Tbl Port
  held : List HeldFrame
  reqs : List BoardReq
  answers : List BoardAns
  sigs : List SigReq
  tag : BitVec 16
  serials : Tbl (BitVec 64)
  fences : List (Nat × List (BitVec 16))
deriving DecidableEq, Repr, Inhabited

/-- An Ethernet port beyond its registers (R346, R356, R358): whether RoCEv2 transmission is paused, whether pause is ignored, and
whether each ring owes an interrupt. -/
structure Eth where
  paused : Bool
  ignoring : Bool
  txDue : Bool
  rxDue : Bool
deriving DecidableEq, Repr, Inhabited

/-! ## The checkpoint engine (13) -/

/-- A checkpoint queue pair beyond its registers (R370): the next send and expected receive PSN, writes not acknowledged (PSN, image
offset, length), and retries made. -/
structure Qp where
  psn : BitVec 24
  epsn : BitVec 24
  unacked : List (BitVec 24 × Nat × Nat)
  retries : Nat
deriving DecidableEq, Repr, Inhabited

/-- A set entry as CKP_BEGIN read it (R361): its object, its first page and page count, and the DPA of each of its pages. -/
structure SetEnt where
  obj : Nat
  off : Nat
  pages : List Nat
deriving DecidableEq, Repr, Inhabited

/-- The checkpoint that runs (R363 to R372): its context, partition and set, the CKP_BEGIN's SEQ, STEP, CEVT and IMG, the collective
records read at the instant, how many lines the walk has passed, image data sent by offset, the poison list, whether the
manifest has been sent, the bytes of it, and the ms of the start. -/
structure Ckpt where
  ctx : Nat
  part : Nat
  set : List SetEnt
  seq : BitVec 64
  step : BitVec 32
  cevt : BitVec 64
  img : BitVec 64
  colls : List (List (BitVec 64))
  walk : Nat
  data : Memory
  poison : List (Nat × Nat)
  sent : Bool
  manifest : List (BitVec 8)
  since : Nat
deriving DecidableEq, Repr, Inhabited

/-- The engines: running UPD_RUNs in start order, what each spur's update engine does, running SCHED_RUNs, open collectives by
number, the checkpoint that runs, the queue pairs, and the commit events (context, address, SEQ) that wait for memory that sleeps. -/
structure Engines where
  upds : List UpdRun
  spurs : Tbl UpdEng
  scheds : List SchedRun
  colls : Tbl Coll
  ckpt : Option Ckpt
  qps : Tbl Qp
  evDue : List (Nat × Nat × Nat)
deriving DecidableEq, Repr, Inhabited

/-! ## Trust (14) -/

/-- What a key slot holds beyond SEC_KEYSLOT (R386, R391, R392): the context key, which every channel controller holds, the measurement M, and the
migration key once SET_SECRET gave it. No command reads a key (R379). -/
structure KeySlot where
  key : BitVec 512
  m : BitVec 384
  migration : Option (BitVec 512)
deriving DecidableEq, Repr, Inhabited

/-- A page-table page that PT_INSTALL tagged (R390): its DPA div 4096, its key slot, its level and whether it has the G64 layout. -/
structure PtPage where
  page : Nat
  slot : Nat
  level : Nat
  g64 : Bool
deriving DecidableEq, Repr, Inhabited

/-- The IDE stream (R395). -/
inductive Ide where
  | noKeys | keyed | secure | insecure
deriving DecidableEq, Repr, Inhabited

/-- How far an SPDM connection has come (R384): versions, capabilities, algorithms. -/
inductive Spdm where
  | start | version | capabilities | negotiated
deriving DecidableEq, Repr, Inhabited

/-- An SPDM session (R384): whether FINISH has come, and how often KEY_UPDATE has changed the requester's keys and the module's. -/
structure Session where
  done : Bool
  req : Nat
  rsp : Nat
deriving DecidableEq, Repr, Inhabited

/-- The trust functions: the fused seed UDS, and the device identity key and alias key as the Cairn ROM derived them at this boot, none of which any
command reads (R379); the firmware copy that runs (R380), key slots in use, installed page-table pages, the public keys in flash by slot (R381),
the SPDM connection and what has been said on it since it began, its sessions by number, and the IDE stream with the keys that IDE_KM has given
it, by number (R395). -/
structure Trust where
  uds : BitVec 384
  dik : BitVec 384
  ak : BitVec 384
  fw : Nat
  slots : Tbl KeySlot
  pages : List PtPage
  fjKeys : Tbl (List (BitVec 8))
  ownerKeys : Tbl (List (BitVec 8))
  spdm : Spdm
  talk : List Nat
  sessions : Tbl Session
  ide : Ide
  ideKeys : Tbl (BitVec 256)
deriving DecidableEq, Repr, Inhabited

/-! ## Pins, bring-up and power (15, 17) -/

/-- Where the module as a whole stands (R407, R418, R442, R450, R452): without input, shut off by overvoltage, held by RESET_N, waiting for
the module reference, in bring-up before the Cairn runs, with the Cairn held in reset for want of firmware (R380), up, entering OFF, in OFF, or
stopped by the thermal trip. -/
inductive ModPhase where
  | noInput | overvoltage | held | waitRef | bringUp | noFirmware | up | offEntry | off | tripped
deriving DecidableEq, Repr, Inhabited

/-- A step of the operating point in progress (R403, R404). -/
structure OpStep where
  up : Bool
  dest : Nat
deriving DecidableEq, Repr, Inhabited

/-- A power domain between two states (R409, R414 to R417): the state it is entering, whether a wake came during the entry, the state it
wakes from, the wake stages that are ready, and whose requests have reached it in its entry. -/
structure DomRun where
  target : Nat
  wake : Bool
  fromState : Nat
  stage : Nat
  who : List Owner
deriving DecidableEq, Repr, Inhabited

/-- Pins, bring-up and power beyond the PWR and CLK registers: RESET_N, PERST_N, PWR_GOOD and THERM_TRIP_N (true is high), the PCIe link, the module
reference, the event latched during OFF entry (1 WAKE_N, 2 RESET_N; R419), the step in progress, power evaluations since the last step ended (R405:
at most 1,001 are told apart), whether the reference loss still holds OP3 (R402), domains between two states, whether the power-on load has not yet
ended (R451), the always-on latch of a thermal trip (Table 16.7), and what the host has written to configuration space, by register (R302). -/
structure Power where
  phase : ModPhase
  resetN : Bool
  perstN : Bool
  pwrGood : Bool
  thermTripN : Bool
  linkUp : Bool
  mref : Bool
  latch : Option Nat
  step : Option OpStep
  since : Nat
  refHold : Bool
  doms : Tbl DomRun
  powerOnLoad : Bool
  tripLatch : Bool
  cfg : Tbl (BitVec 32)
deriving DecidableEq, Repr, Inhabited

/-- What leaves the module (log 10): an MSI-X vector; a routed frame on a Ridge port with its link sequence; a link frame (kind of Table 12.4,
sequence, credits); a HELLO with its identity record, certificate chain, ephemeral public key and AK's signature over the key; an Ethernet frame on
a port; the answer to a host read and whether its EP bit is set; what a cistern answers a requester and whether poison; an RDMA write (pair, PSN,
remote address, remote key, data, immediate); an RDMA read (pair, PSN, remote address, remote key, bytes); a RoCEv2 answer on a pair (0 ACK, 1 NAK
sequence error, 2 NAK invalid request) with its PSN; the answer to a request TLP (whether Unsupported Request) with whether AER logs it; a
Configuration Request Retry Status; the value of a BAR0 read; a monitor answer, its data lines by name and values and its final line; an SPDM answer
in a session, its name and what it carries. -/
inductive Output where
  | msix (vector : Nat)
  | frame (port : Nat) (seq : BitVec 16) (f : Frame)
  | link (port : Nat) (kind : Nat) (seq : BitVec 16) (credits : List Nat)
  | hello (port : Nat) (h : HelloRec) (chain pub sig : List (BitVec 8))
  | ethFrame (port : Nat) (data : List (BitVec 8))
  | hostRead (data : List (BitVec 8)) (ep : Bool)
  | served (data : List (BitVec 8)) (poison : Bool)
  | rdmaWrite (qp : Nat) (psn : BitVec 24) (addr : BitVec 64) (rkey : BitVec 32) (data : List (BitVec 8)) (imm : Option (BitVec 32))
  | rdmaRead (qp : Nat) (psn : BitVec 24) (addr : BitVec 64) (rkey : BitVec 32) (n : Nat)
  | roce (qp : Nat) (kind : Nat) (psn : BitVec 24)
  | pcie (unsupported : Bool) (aer : Bool)
  | cfgRetry
  | regRead (v : BitVec 64)
  | monitor (lines : List (String × List Nat)) (fin : String)
  | spdm (sess : Nat) (name : String) (data : List Nat)
deriving DecidableEq, Repr, Inhabited

/-! ## The whole module -/

/-- BAR0 registers (00 R10 to R17): values by offset where they differ from the reset value, the shadow of R14, and the
held low halves of R14. -/
structure Regs where
  vals : Tbl (BitVec 64)
  shadow : Tbl (BitVec 32)
  held : Tbl (BitVec 32)
deriving DecidableEq, Repr, Inhabited

/-- The host interface: contexts, objects by index, the generation of each object index (R328), the admin command that waits, and whether the
event ring owes an interrupt. -/
structure Hif where
  ctxs : Tbl CtxRun
  objs : Tbl Obj
  objGens : Tbl Nat
  admin : AdminWait
  evrDue : Bool
deriving DecidableEq, Repr, Inhabited

/-- The module. `pending` is the queue of commands that wait; `fresh` is the model's own counter for free values (log
9), no state of the spec; `out` is what has left the module, newest first (log 10); `armed` holds each armed injector's
count of qualifying operations (R431); `upsets` holds the upsets of stores and datapaths that nothing has met yet (R270, log 45), and `tagLoss` the
cisterns found to have lost their tags whose answer is still due (Table 9.5); `worked` holds the contexts with tile-cycles not yet
in CTX_BUSY (R314); `baud` is the monitor's rate (R436). -/
structure State where
  pending : List Instr
  fresh : Nat
  out : List Output
  regs : Regs
  mem : Mem
  tiles : Tbl Tile
  hif : Hif
  log : ErrLog
  armed : Tbl Nat
  upsets : List Upset
  tagLoss : List Nat
  worked : List Nat
  load : Load
  eng : Engines
  ridge : Ridge
  eth : Tbl Eth
  trust : Trust
  pwr : Power
  baud : Nat
deriving DecidableEq, Repr, Inhabited

/-- Why the module stops. No command stops it: a fault of the spec loses a context and the module goes on (R332), so no
meaning raises this one. Safe: it allows nothing. -/
inductive Fault where
  | none
deriving DecidableEq, Repr, Inhabited

/-- Why a command has no meaning. Raised only by an arm of exec whose command is not modelled yet. Safe: the model stops
where the module goes on. -/
inductive Refusal where
  | notModelled (mnemonic : String)
deriving DecidableEq, Repr, Inhabited

/-- The state right after power-on reset, before the image load (log 4): every register at its reset value, nothing
listed anywhere. -/
def State.reset : State where
  pending := []
  fresh := 0
  out := []
  regs := ⟨[], [], []⟩
  mem := ⟨[], [], [], [], [], []⟩
  tiles := []
  hif := ⟨[], [], [], .none, false⟩
  log := ⟨[], [], 0⟩
  armed := []
  upsets := []
  tagLoss := []
  worked := []
  load := ⟨[], [], [], none, false, [], [], none⟩
  eng := ⟨[], [], [], [], none, [], []⟩
  ridge := ⟨[], [], [], [], [], 0, [], []⟩
  eth := []
  trust := ⟨0, 0, 0, 0, [], [], [(0, 4 :: List.replicate 96 0)], [], .start, [], [], .noKeys, []⟩
  pwr := ⟨.bringUp, true, true, true, true, false, true, none, none, 0, false, [], true, false, []⟩
  baud := 115200

end Sys2Proof.Machine
end

