-- ==== Sys2Proof/Machine/RegMap.lean ====
section
/-!
DEFINITION. The BAR0 register map: where each register lies, its fields' access codes and its reset value (the register
tables of 09 to 16), and the detectors of Table 16.1.
-/
namespace Sys2Proof.Machine

/-! ## Offsets -/
/-- IDENT_PART_LO (11_host_objects.md R304). -/
def regIdentPartLo : Nat := 0x0
/-- IDENT_PART_HI (11_host_objects.md R304). -/
def regIdentPartHi : Nat := 0x8
/-- IDENT_STEP (11_host_objects.md R304). -/
def regIdentStep : Nat := 0x10
/-- IDENT_SERIAL (11_host_objects.md R304). -/
def regIdentSerial : Nat := 0x18
/-- IDENT_STATUS (11_host_objects.md R304). -/
def regIdentStatus : Nat := 0x20
/-- IDENT_HEARTBEAT (11_host_objects.md R304). -/
def regIdentHeartbeat : Nat := 0x28
/-- IDENT_LOAD_STATUS (10_structure_image.md R298). -/
def regIdentLoadStatus : Nat := 0x400
/-- IDENT_LOAD_CMD (10_structure_image.md R298). -/
def regIdentLoadCmd : Nat := 0x408
/-- IDENT_LOAD_STAGED (10_structure_image.md R298). -/
def regIdentLoadStaged : Nat := 0x410
/-- IDENT_LOAD_SEQ (10_structure_image.md R298). -/
def regIdentLoadSeq : Nat := 0x418
/-- IDENT_LOAD_DIGEST (10_structure_image.md R298). -/
def regIdentLoadDigest (i : Nat) : Nat := 0x420 + 0x8 * i
/-- IDENT_PRELOAD_DROP (10_structure_image.md R298). -/
def regIdentPreloadDrop : Nat := 0x450
/-- IDENT_LOAD_DATA (10_structure_image.md R298). -/
def regIdentLoadData (i : Nat) : Nat := 0x800 + 0x8 * i
/-- FEAT_OFFER_LO (11_host_objects.md R305). -/
def regFeatOfferLo : Nat := 0x1000
/-- FEAT_OFFER_HI (11_host_objects.md R305). -/
def regFeatOfferHi : Nat := 0x1008
/-- FEAT_ACCEPT_LO (11_host_objects.md R305). -/
def regFeatAcceptLo : Nat := 0x1010
/-- FEAT_ACCEPT_HI (11_host_objects.md R305). -/
def regFeatAcceptHi : Nat := 0x1018
/-- FEAT_CMD (11_host_objects.md R305). -/
def regFeatCmd : Nat := 0x1020
/-- FEAT_STATUS (11_host_objects.md R305). -/
def regFeatStatus : Nat := 0x1028
/-- MBX_CMD (14_trust_keys.md R397). -/
def regMbxCmd : Nat := 0x2000
/-- MBX_STATUS (14_trust_keys.md R397). -/
def regMbxStatus : Nat := 0x2008
/-- MBX_ARG (14_trust_keys.md R397). -/
def regMbxArg (i : Nat) : Nat := 0x2010 + 0x8 * i
/-- MBX_DATA (14_trust_keys.md R397). -/
def regMbxData (i : Nat) : Nat := 0x2800 + 0x8 * i
/-- HIF_CTRL (11_host_objects.md R307). -/
def regHifCtrl : Nat := 0x10000
/-- HIF_STATUS (11_host_objects.md R307). -/
def regHifStatus : Nat := 0x10008
/-- HIF_TBL_BASE (11_host_objects.md R307). -/
def regHifTblBase : Nat := 0x10010
/-- HIF_TBL_NEED (11_host_objects.md R307). -/
def regHifTblNeed : Nat := 0x10018
/-- HIF_EVR_BASE (11_host_objects.md R307). -/
def regHifEvrBase : Nat := 0x10020
/-- HIF_EVR_CFG (11_host_objects.md R307). -/
def regHifEvrCfg : Nat := 0x10028
/-- HIF_EVR_TAIL (11_host_objects.md R307). -/
def regHifEvrTail : Nat := 0x10030
/-- HIF_EVR_HEAD (11_host_objects.md R307). -/
def regHifEvrHead : Nat := 0x10038
/-- HIF_BAR4_BASE (11_host_objects.md R307). -/
def regHifBar4Base : Nat := 0x10040
/-- HIF_ADM_DATA (11_host_objects.md R307). -/
def regHifAdmData (i : Nat) : Nat := 0x10100 + 0x8 * i
/-- HIF_ADM_CMD (11_host_objects.md R307). -/
def regHifAdmCmd : Nat := 0x10140
/-- HIF_ADM_STATUS (11_host_objects.md R307). -/
def regHifAdmStatus : Nat := 0x10148
/-- HIF_ADM_RESULT (11_host_objects.md R307). -/
def regHifAdmResult : Nat := 0x10150
/-- CTX_OCC (11_host_objects.md R313). -/
def regCtxOcc (i : Nat) : Nat := 0x100000 + 0x4000 * i
/-- CTX_STATE (11_host_objects.md R313). -/
def regCtxState (i : Nat) : Nat := 0x100008 + 0x4000 * i
/-- CTX_BUSY (11_host_objects.md R313). -/
def regCtxBusy (i : Nat) : Nat := 0x100010 + 0x4000 * i
/-- CTX_ELAPSED (11_host_objects.md R313). -/
def regCtxElapsed (i : Nat) : Nat := 0x100018 + 0x4000 * i
/-- CTX_MEM (11_host_objects.md R313). -/
def regCtxMem (i : Nat) (j : Nat) : Nat := 0x100020 + 0x4000 * i + 0x8 * j
/-- CTX_FAULT_VA (11_host_objects.md R313). -/
def regCtxFaultVa (i : Nat) : Nat := 0x100040 + 0x4000 * i
/-- CTX_FAULT_INFO (11_host_objects.md R313). -/
def regCtxFaultInfo (i : Nat) : Nat := 0x100048 + 0x4000 * i
/-- CTX_Q (11_host_objects.md R313). -/
def regCtxQ (i : Nat) (j : Nat) : Nat := 0x100100 + 0x4000 * i + 0x10 * j
/-- XLT_INV_VA (11_host_objects.md R317). -/
def regXltInvVa : Nat := 0x200000
/-- XLT_INV_CTRL (11_host_objects.md R317). -/
def regXltInvCtrl : Nat := 0x200008
/-- XLT_INV_STATUS (11_host_objects.md R317). -/
def regXltInvStatus : Nat := 0x200010
/-- CIS_CFG (09_cisterns_stacked_memory.md R279). -/
def regCisCfg : Nat := 0x400000
/-- CIS_CREST (09_cisterns_stacked_memory.md R279). -/
def regCisCrest : Nat := 0x400008
/-- CIS_ERR_CFG (09_cisterns_stacked_memory.md R279). -/
def regCisErrCfg : Nat := 0x400010
/-- CIS_POISON_LAST (09_cisterns_stacked_memory.md R279). -/
def regCisPoisonLast : Nat := 0x400018
/-- CIS_RGN_BASE (09_cisterns_stacked_memory.md R279). -/
def regCisRgnBase (i : Nat) : Nat := 0x400100 + 0x10 * i
/-- CIS_RGN_SIZE (09_cisterns_stacked_memory.md R279). -/
def regCisRgnSize (i : Nat) : Nat := 0x400108 + 0x10 * i
/-- CIS_WIN_BASE (09_cisterns_stacked_memory.md R279). -/
def regCisWinBase (i : Nat) : Nat := 0x401000 + 0x20 * i
/-- CIS_WIN_LIMIT (09_cisterns_stacked_memory.md R279). -/
def regCisWinLimit (i : Nat) : Nat := 0x401008 + 0x20 * i
/-- CIS_WIN_CTRL (09_cisterns_stacked_memory.md R279). -/
def regCisWinCtrl (i : Nat) : Nat := 0x401010 + 0x20 * i
/-- CIS_WIN_LINES (09_cisterns_stacked_memory.md R279). -/
def regCisWinLines (i : Nat) : Nat := 0x401018 + 0x20 * i
/-- CIS_CHAN (09_cisterns_stacked_memory.md R279). -/
def regCisChan (i : Nat) : Nat := 0x402000 + 0x8 * i
/-- CIS_SPREAD_MAP (09_cisterns_stacked_memory.md R279). -/
def regCisSpreadMap (i : Nat) : Nat := 0x404000 + 0x4 * i
/-- CIS_NEAR_MAP (09_cisterns_stacked_memory.md R279). -/
def regCisNearMap (i : Nat) : Nat := 0x408000 + 0x4 * i
/-- PWR_STATUS (15_clocks_power_reset.md R424). -/
def regPwrStatus : Nat := 0x800000
/-- PWR_LIMIT (15_clocks_power_reset.md R424). -/
def regPwrLimit : Nat := 0x800008
/-- PWR_METER (15_clocks_power_reset.md R424). -/
def regPwrMeter : Nat := 0x800010
/-- PWR_STEPS (15_clocks_power_reset.md R424). -/
def regPwrSteps : Nat := 0x800018
/-- PWR_CFG (15_clocks_power_reset.md R424). -/
def regPwrCfg : Nat := 0x800020
/-- PWR_PART_RESET (15_clocks_power_reset.md R424). -/
def regPwrPartReset : Nat := 0x800028
/-- PWR_PRST_STATUS (15_clocks_power_reset.md R424). -/
def regPwrPrstStatus : Nat := 0x800030
/-- PWR_LAST_WAKE (15_clocks_power_reset.md R424). -/
def regPwrLastWake : Nat := 0x800038
/-- PWR_TIMER (15_clocks_power_reset.md R424). -/
def regPwrTimer (i : Nat) : Nat := 0x800040 + 0x8 * i
/-- PWR_HOST_VOTE (15_clocks_power_reset.md R424). -/
def regPwrHostVote (i : Nat) : Nat := 0x800080 + 0x8 * i
/-- PWR_DOM (15_clocks_power_reset.md R424). -/
def regPwrDom (i : Nat) : Nat := 0x801000 + 0x8 * i
/-- CLK_STATUS (15_clocks_power_reset.md R424). -/
def regClkStatus : Nat := 0x808000
/-- CLK_DIV (15_clocks_power_reset.md R424). -/
def regClkDiv : Nat := 0x808008
/-- CLK_REF (15_clocks_power_reset.md R424). -/
def regClkRef : Nat := 0x808010
/-- CLK_REF_LOSS (15_clocks_power_reset.md R424). -/
def regClkRefLoss : Nat := 0x808018
/-- DET_COUNTER (16_detectors_counters_monitor.md R426,R429). -/
def regDetCounter (i : Nat) : Nat := 0xc00000 + 0x8 * i
/-- DET_CTRL (16_detectors_counters_monitor.md R426,R429). -/
def regDetCtrl : Nat := 0xc01000
/-- DET_REG_LAST (16_detectors_counters_monitor.md R426,R429). -/
def regDetRegLast : Nat := 0xc01008
/-- DET_LOG_TOTAL (16_detectors_counters_monitor.md R426,R429). -/
def regDetLogTotal : Nat := 0xc01100
/-- DET_LOG_SEL (16_detectors_counters_monitor.md R426,R429). -/
def regDetLogSel : Nat := 0xc01108
/-- DET_LOG_STAT (16_detectors_counters_monitor.md R426,R429). -/
def regDetLogStat : Nat := 0xc01110
/-- DET_LOG_REC (16_detectors_counters_monitor.md R426,R429). -/
def regDetLogRec (i : Nat) : Nat := 0xc01140 + 0x8 * i
/-- INJ_CTRL (16_detectors_counters_monitor.md R430). -/
def regInjCtrl (i : Nat) : Nat := 0xe00000 + 0x40 * i
/-- INJ_SKIP (16_detectors_counters_monitor.md R430). -/
def regInjSkip (i : Nat) : Nat := 0xe00008 + 0x40 * i
/-- INJ_PERIOD (16_detectors_counters_monitor.md R430). -/
def regInjPeriod (i : Nat) : Nat := 0xe00010 + 0x40 * i
/-- INJ_FIRED (16_detectors_counters_monitor.md R430). -/
def regInjFired (i : Nat) : Nat := 0xe00018 + 0x40 * i
/-- INJ_STATUS (16_detectors_counters_monitor.md R430). -/
def regInjStatus : Nat := 0xe01000
/-- RDG_NODE (12_ridge_ethernet_board.md R359). -/
def regRdgNode : Nat := 0x1000000
/-- RDG_BOARD (12_ridge_ethernet_board.md R359). -/
def regRdgBoard : Nat := 0x1000008
/-- RDG_CFG (12_ridge_ethernet_board.md R359). -/
def regRdgCfg : Nat := 0x1000010
/-- RDG_PORT_CTRL (12_ridge_ethernet_board.md R359). -/
def regRdgPortCtrl (i : Nat) : Nat := 0x1001000 + 0x20 * i
/-- RDG_PORT_STATUS (12_ridge_ethernet_board.md R359). -/
def regRdgPortStatus (i : Nat) : Nat := 0x1001008 + 0x20 * i
/-- RDG_PORT_PEER (12_ridge_ethernet_board.md R359). -/
def regRdgPortPeer (i : Nat) : Nat := 0x1001010 + 0x20 * i
/-- RDG_PORT_ERR (12_ridge_ethernet_board.md R359). -/
def regRdgPortErr (i : Nat) : Nat := 0x1001018 + 0x20 * i
/-- RDG_LDG_STEP (08_schedules_collectives_stragglers.md R246). -/
def regRdgLdgStep (i : Nat) : Nat := 0x1020000 + 0x40 * i
/-- RDG_LDG_COUNT (08_schedules_collectives_stragglers.md R246). -/
def regRdgLdgCount (i : Nat) (j : Nat) : Nat := 0x1020008 + 0x40 * i + 0x8 * j
/-- RDG_ROUTE (12_ridge_ethernet_board.md R359). -/
def regRdgRoute (i : Nat) : Nat := 0x1030000 + 0x8 * i
/-- RDG_RSLOT_EVT (12_ridge_ethernet_board.md R359). -/
def regRdgRslotEvt (i : Nat) : Nat := 0x1100000 + 0x10 * i
/-- RDG_RSLOT_CTRL (12_ridge_ethernet_board.md R359). -/
def regRdgRslotCtrl (i : Nat) : Nat := 0x1100008 + 0x10 * i
/-- ETH_CTRL (12_ridge_ethernet_board.md R358). -/
def regEthCtrl (i : Nat) : Nat := 0x1400000 + 0x1000 * i
/-- ETH_STATUS (12_ridge_ethernet_board.md R358). -/
def regEthStatus (i : Nat) : Nat := 0x1400008 + 0x1000 * i
/-- ETH_MAC (12_ridge_ethernet_board.md R358). -/
def regEthMac (i : Nat) : Nat := 0x1400010 + 0x1000 * i
/-- ETH_RING_BASE (12_ridge_ethernet_board.md R358). -/
def regEthRingBase (i : Nat) (j : Nat) : Nat := 0x1400020 + 0x1000 * i + 0x20 * j
/-- ETH_RING_CFG (12_ridge_ethernet_board.md R358). -/
def regEthRingCfg (i : Nat) (j : Nat) : Nat := 0x1400028 + 0x1000 * i + 0x20 * j
/-- ETH_TXR_TAIL (12_ridge_ethernet_board.md R358). -/
def regEthTxrTail (i : Nat) : Nat := 0x1400030 + 0x1000 * i
/-- ETH_TXR_HEAD (12_ridge_ethernet_board.md R358). -/
def regEthTxrHead (i : Nat) : Nat := 0x1400038 + 0x1000 * i
/-- ETH_RXR_TAIL (12_ridge_ethernet_board.md R358). -/
def regEthRxrTail (i : Nat) : Nat := 0x1400050 + 0x1000 * i
/-- ETH_RXR_HEAD (12_ridge_ethernet_board.md R358). -/
def regEthRxrHead (i : Nat) : Nat := 0x1400058 + 0x1000 * i
/-- CKP_STATUS (13_checkpoint_restore.md R377). -/
def regCkpStatus : Nat := 0x1800000
/-- CKP_SEQ (13_checkpoint_restore.md R377). -/
def regCkpSeq : Nat := 0x1800008
/-- CKP_PROGRESS (13_checkpoint_restore.md R377). -/
def regCkpProgress : Nat := 0x1800010
/-- CKP_STAGED (13_checkpoint_restore.md R377). -/
def regCkpStaged : Nat := 0x1800018
/-- CKP_LAST_COMMIT_SEQ (13_checkpoint_restore.md R377). -/
def regCkpLastCommitSeq : Nat := 0x1800020
/-- CKP_LAST_COMMIT_STEP (13_checkpoint_restore.md R377). -/
def regCkpLastCommitStep : Nat := 0x1800028
/-- CKP_LAST_TIME (13_checkpoint_restore.md R377). -/
def regCkpLastTime : Nat := 0x1800030
/-- CKP_QP_CTRL (13_checkpoint_restore.md R377). -/
def regCkpQpCtrl (i : Nat) : Nat := 0x1801000 + 0x40 * i
/-- CKP_QP_DEST (13_checkpoint_restore.md R377). -/
def regCkpQpDest (i : Nat) : Nat := 0x1801008 + 0x40 * i
/-- CKP_QP_RPSN (13_checkpoint_restore.md R377). -/
def regCkpQpRpsn (i : Nat) : Nat := 0x1801010 + 0x40 * i
/-- CKP_QP_IP (13_checkpoint_restore.md R377). -/
def regCkpQpIp (i : Nat) (j : Nat) : Nat := 0x1801018 + 0x40 * i + 0x8 * j
/-- CKP_QP_MAC (13_checkpoint_restore.md R377). -/
def regCkpQpMac (i : Nat) : Nat := 0x1801028 + 0x40 * i
/-- CKP_QP_RBASE (13_checkpoint_restore.md R377). -/
def regCkpQpRbase (i : Nat) : Nat := 0x1801030 + 0x40 * i
/-- CKP_QP_KEY (13_checkpoint_restore.md R377). -/
def regCkpQpKey (i : Nat) : Nat := 0x1801038 + 0x40 * i
/-- SEC_STATUS (14_trust_keys.md R398). -/
def regSecStatus : Nat := 0x1c00000
/-- SEC_FW_SVN (14_trust_keys.md R398). -/
def regSecFwSvn : Nat := 0x1c00008
/-- SEC_CFG (14_trust_keys.md R398). -/
def regSecCfg : Nat := 0x1c00010
/-- SEC_CONF (14_trust_keys.md R398). -/
def regSecConf : Nat := 0x1c00018
/-- SEC_KEYSLOT (14_trust_keys.md R398). -/
def regSecKeyslot (i : Nat) : Nat := 0x1c00108 + 0x8 * i
/-- SEC_FJ_HASH (14_trust_keys.md R398). -/
def regSecFjHash (i : Nat) (j : Nat) : Nat := 0x1c01000 + 0x40 * i + 0x8 * j
/-- SEC_OWNER_HASH (14_trust_keys.md R398). -/
def regSecOwnerHash (i : Nat) (j : Nat) : Nat := 0x1c01200 + 0x40 * i + 0x8 * j

/-! ## Detectors (Table 16.1) -/
/-- DET_REG_VIOLATION: class C, unit kind M. -/
def detRegViolation : Nat := 0x00
/-- DET_CTX_LOST: class L, unit kind M. -/
def detCtxLost : Nat := 0x01
/-- DET_ALIGN_FAULT: class L, unit kind T. -/
def detAlignFault : Nat := 0x02
/-- DET_ALIAS_FAULT: class L, unit kind T. -/
def detAliasFault : Nat := 0x03
/-- DET_PAGE_FAULT: class L, unit kind T. -/
def detPageFault : Nat := 0x04
/-- DET_POISON_CONSUMED: class L, unit kind T. -/
def detPoisonConsumed : Nat := 0x05
/-- DET_NO_PROGRESS: class L, unit kind T. -/
def detNoProgress : Nat := 0x06
/-- DET_ILLEGAL_INSN: class C, unit kind T. -/
def detIllegalInsn : Nat := 0x07
/-- DET_SCOPY_INVALID: class C, unit kind T. -/
def detScopyInvalid : Nat := 0x08
/-- DET_ATOM_MISALIGNED: class C, unit kind T. -/
def detAtomMisaligned : Nat := 0x09
/-- DET_MSTACK_UNDERFLOW: class C, unit kind T. -/
def detMstackUnderflow : Nat := 0x0A
/-- DET_MSTACK_OVERFLOW: class C, unit kind T. -/
def detMstackOverflow : Nat := 0x0B
/-- DET_WRONG_SCOPE: class C, unit kind T. -/
def detWrongScope : Nat := 0x0C
/-- DET_ATOM_HOST: class C, unit kind T. -/
def detAtomHost : Nat := 0x0D
/-- DET_WAIT_OVERFLOW: class C, unit kind N. -/
def detWaitOverflow : Nat := 0x0E
/-- DET_EVENT_INVALID: class C, unit kind T. -/
def detEventInvalid : Nat := 0x0F
/-- DET_ARRAY_INVALID: class C, unit kind T. -/
def detArrayInvalid : Nat := 0x10
/-- DET_AMODE_MISMATCH: class C, unit kind T. -/
def detAmodeMismatch : Nat := 0x11
/-- DET_WELL_BASE_MISMATCH: class C, unit kind T. -/
def detWellBaseMismatch : Nat := 0x12
/-- DET_WELL_BOUND: class C, unit kind T. -/
def detWellBound : Nat := 0x13
/-- DET_WELL_OVERFLOW: class C, unit kind T. -/
def detWellOverflow : Nat := 0x14
/-- DET_STAT_DROPPED: class C, unit kind T. -/
def detStatDropped : Nat := 0x15
/-- DET_PUMP_DESC_INVALID: class C, unit kind T. -/
def detPumpDescInvalid : Nat := 0x16
/-- DET_PUMP_DISCARD: class C, unit kind T. -/
def detPumpDiscard : Nat := 0x17
/-- DET_PUMP_ADD_TRUNC: class C, unit kind N. -/
def detPumpAddTrunc : Nat := 0x18
/-- DET_PUMP_ADD_OVERFLOW: class C, unit kind N. -/
def detPumpAddOverflow : Nat := 0x19
/-- DET_PUMP_ADD_HOST: class C, unit kind T. -/
def detPumpAddHost : Nat := 0x1A
/-- DET_UPD_INVALID: class C, unit kind S. -/
def detUpdInvalid : Nat := 0x1B
/-- DET_UPD_REPEAT: class C, unit kind S. -/
def detUpdRepeat : Nat := 0x1C
/-- DET_UPD_STALE_STEP: class C, unit kind S. -/
def detUpdStaleStep : Nat := 0x1D
/-- DET_UPD_NONFINITE: class C, unit kind S. -/
def detUpdNonfinite : Nat := 0x1E
/-- DET_SCHED_REPEAT: class C, unit kind M. -/
def detSchedRepeat : Nat := 0x1F
/-- DET_COLL_BOUND: class C, unit kind S. -/
def detCollBound : Nat := 0x20
/-- DET_COLL_TRUNC: class C, unit kind S. -/
def detCollTrunc : Nat := 0x21
/-- DET_COLL_OVERFLOW: class C, unit kind S. -/
def detCollOverflow : Nat := 0x22
/-- DET_COLL_POISON: class E, unit kind S. -/
def detCollPoison : Nat := 0x23
/-- DET_DEAD_REREAD: class C, unit kind N. -/
def detDeadReread : Nat := 0x24
/-- DET_PIN_OVER_QUOTA: class C, unit kind N. -/
def detPinOverQuota : Nat := 0x25
/-- DET_PIN_CEILING: class C, unit kind N. -/
def detPinCeiling : Nat := 0x26
/-- DET_WIN_MISMATCH: class C, unit kind N. -/
def detWinMismatch : Nat := 0x27
/-- DET_CIS_CFG_REJECT: class C, unit kind M. -/
def detCisCfgReject : Nat := 0x28
/-- DET_HBM_CE: class E, unit kind N. -/
def detHbmCe : Nat := 0x29
/-- DET_HBM_UE: class E, unit kind N. -/
def detHbmUe : Nat := 0x2A
/-- DET_SRAM_CE: class E, unit kind A. -/
def detSramCe : Nat := 0x2B
/-- DET_SRAM_UE: class E, unit kind A. -/
def detSramUe : Nat := 0x2C
/-- DET_PARITY: class E, unit kind A. -/
def detParity : Nat := 0x2D
/-- DET_HOST_POISON_READ: class P, unit kind H. -/
def detHostPoisonRead : Nat := 0x2E
/-- DET_CHAN_SUSPECT: class C, unit kind N. -/
def detChanSuspect : Nat := 0x2F
/-- DET_FEATURE_ABSENT: class C, unit kind M. -/
def detFeatureAbsent : Nat := 0x30
/-- DET_FEAT_REJECT: class C, unit kind M. -/
def detFeatReject : Nat := 0x31
/-- DET_ADM_REFUSED: class C, unit kind H. -/
def detAdmRefused : Nat := 0x32
/-- DET_CMD_INVALID: class C, unit kind H. -/
def detCmdInvalid : Nat := 0x33
/-- DET_DOORBELL_INVALID: class C, unit kind H. -/
def detDoorbellInvalid : Nat := 0x34
/-- DET_EVENT_STALE: class C, unit kind N. -/
def detEventStale : Nat := 0x35
/-- DET_EVENT_SATURATED: class C, unit kind N. -/
def detEventSaturated : Nat := 0x36
/-- DET_EVENT_POISONED: class C, unit kind N. -/
def detEventPoisoned : Nat := 0x37
/-- DET_EVR_OVERFLOW: class C, unit kind H. -/
def detEvrOverflow : Nat := 0x38
/-- DET_BAR4_RANGE: class P, unit kind H. -/
def detBar4Range : Nat := 0x39
/-- DET_SWAP_REFUSED: class C, unit kind M. -/
def detSwapRefused : Nat := 0x3A
/-- DET_RDG_BRINGUP: class P, unit kind R. -/
def detRdgBringup : Nat := 0x3B
/-- DET_RDG_CRC: class P, unit kind R. -/
def detRdgCrc : Nat := 0x3C
/-- DET_RDG_SEQ: class P, unit kind R. -/
def detRdgSeq : Nat := 0x3D
/-- DET_RDG_CREDIT: class P, unit kind R. -/
def detRdgCredit : Nat := 0x3E
/-- DET_RDG_RETRAIN: class P, unit kind R. -/
def detRdgRetrain : Nat := 0x3F
/-- DET_RDG_MALFORMED: class P, unit kind R. -/
def detRdgMalformed : Nat := 0x40
/-- DET_RDG_NAK_SENT: class P, unit kind R. -/
def detRdgNakSent : Nat := 0x41
/-- DET_RDG_NAK_RECV: class P, unit kind R. -/
def detRdgNakRecv : Nat := 0x42
/-- DET_RDG_PEER_CHANGE: class P, unit kind R. -/
def detRdgPeerChange : Nat := 0x43
/-- DET_RDG_WIN_CONFLICT: class P, unit kind R. -/
def detRdgWinConflict : Nat := 0x44
/-- DET_RDG_TIMEOUT: class L, unit kind R. -/
def detRdgTimeout : Nat := 0x45
/-- DET_RDG_LATE: class C, unit kind R. -/
def detRdgLate : Nat := 0x46
/-- DET_ETH_RX_ERR: class P, unit kind E. -/
def detEthRxErr : Nat := 0x47
/-- DET_ETH_RX_DROP: class C, unit kind E. -/
def detEthRxDrop : Nat := 0x48
/-- DET_ETH_ROCE: class P, unit kind E. -/
def detEthRoce : Nat := 0x49
/-- DET_ETH_PFC_WD: class P, unit kind E. -/
def detEthPfcWd : Nat := 0x4A
/-- DET_PCIE_ERR: class P, unit kind H. -/
def detPcieErr : Nat := 0x4B
/-- DET_PCIE_CPL: class L, unit kind H. -/
def detPcieCpl : Nat := 0x4C
/-- DET_CKP_STAGE: class C, unit kind N. -/
def detCkpStage : Nat := 0x4D
/-- DET_CKP_STAGE_FULL: class C, unit kind N. -/
def detCkpStageFull : Nat := 0x4E
/-- DET_CKP_POISON_LINE: class C, unit kind N. -/
def detCkpPoisonLine : Nat := 0x4F
/-- DET_CKP_FAIL: class C, unit kind M. -/
def detCkpFail : Nat := 0x50
/-- DET_CKP_CRC: class C, unit kind M. -/
def detCkpCrc : Nat := 0x51
/-- DET_CKP_RESTORE_SKIP: class C, unit kind M. -/
def detCkpRestoreSkip : Nat := 0x52
/-- DET_CKP_CFG_REJECT: class C, unit kind M. -/
def detCkpCfgReject : Nat := 0x53
/-- DET_SEC_TAG_DENY: class L, unit kind N. -/
def detSecTagDeny : Nat := 0x54
/-- DET_SEC_KEY_FULL: class C, unit kind M. -/
def detSecKeyFull : Nat := 0x55
/-- DET_SEC_MBX_REFUSED: class C, unit kind M. -/
def detSecMbxRefused : Nat := 0x56
/-- DET_SEC_OWNER_IGNORED: class C, unit kind M. -/
def detSecOwnerIgnored : Nat := 0x57
/-- DET_PWR_ENVELOPE: class C, unit kind M. -/
def detPwrEnvelope : Nat := 0x58
/-- DET_PWR_THERM: class C, unit kind M. -/
def detPwrTherm : Nat := 0x59
/-- DET_PWR_FAST: class C, unit kind M. -/
def detPwrFast : Nat := 0x5A
/-- DET_PWR_WAKE_IN_ENTRY: class C, unit kind D. -/
def detPwrWakeInEntry : Nat := 0x5B
/-- DET_PWR_DISCARD: class C, unit kind D. -/
def detPwrDiscard : Nat := 0x5C
/-- DET_PWR_WAKE_FAIL: class L, unit kind D. -/
def detPwrWakeFail : Nat := 0x5D
/-- DET_CLK_REF_LOSS: class C, unit kind M. -/
def detClkRefLoss : Nat := 0x5E
/-- DET_MON_RX_ERR: class P, unit kind M. -/
def detMonRxErr : Nat := 0x5F
/-- DET_LOG_SUPPRESSED: class C, unit kind M. -/
def detLogSuppressed : Nat := 0x60

/-- The unit kind of a detector (Tables 16.1 and 16.4), as the letter's place in T S N A R E D H M. -/
def detKind (i : Nat) : Nat :=
  match i with
  | 0 => 8
  | 1 => 8
  | 2 => 0
  | 3 => 0
  | 4 => 0
  | 5 => 0
  | 6 => 0
  | 7 => 0
  | 8 => 0
  | 9 => 0
  | 10 => 0
  | 11 => 0
  | 12 => 0
  | 13 => 0
  | 14 => 2
  | 15 => 0
  | 16 => 0
  | 17 => 0
  | 18 => 0
  | 19 => 0
  | 20 => 0
  | 21 => 0
  | 22 => 0
  | 23 => 0
  | 24 => 2
  | 25 => 2
  | 26 => 0
  | 27 => 1
  | 28 => 1
  | 29 => 1
  | 30 => 1
  | 31 => 8
  | 32 => 1
  | 33 => 1
  | 34 => 1
  | 35 => 1
  | 36 => 2
  | 37 => 2
  | 38 => 2
  | 39 => 2
  | 40 => 8
  | 41 => 2
  | 42 => 2
  | 43 => 3
  | 44 => 3
  | 45 => 3
  | 46 => 7
  | 47 => 2
  | 48 => 8
  | 49 => 8
  | 50 => 7
  | 51 => 7
  | 52 => 7
  | 53 => 2
  | 54 => 2
  | 55 => 2
  | 56 => 7
  | 57 => 7
  | 58 => 8
  | 59 => 4
  | 60 => 4
  | 61 => 4
  | 62 => 4
  | 63 => 4
  | 64 => 4
  | 65 => 4
  | 66 => 4
  | 67 => 4
  | 68 => 4
  | 69 => 4
  | 70 => 4
  | 71 => 5
  | 72 => 5
  | 73 => 5
  | 74 => 5
  | 75 => 7
  | 76 => 7
  | 77 => 2
  | 78 => 2
  | 79 => 2
  | 80 => 8
  | 81 => 8
  | 82 => 8
  | 83 => 8
  | 84 => 2
  | 85 => 8
  | 86 => 8
  | 87 => 8
  | 88 => 8
  | 89 => 8
  | 90 => 8
  | 91 => 6
  | 92 => 6
  | 93 => 6
  | 94 => 8
  | 95 => 8
  | 96 => 8
  | _ => 9

/-! ## Access and reset -/

/-- A register, or an array of registers in up to two dimensions: base offset, strides and counts, width in bits, the bits
of its fields by access code (Table 0.2), and its reset value (0 where the spec gives img, fuse or flash: logs 5 and 6). -/
structure RegDesc where
  base : Nat
  s1 : Nat
  n1 : Nat
  s2 : Nat
  n2 : Nat
  width : Nat
  rw : Nat
  ro : Nat
  wo : Nat
  w1c : Nat
  rwl : Nat
  reset : Nat
deriving DecidableEq, Repr, Inhabited

def regMap0 : List RegDesc := [
  ⟨0x0, 0x0, 1, 0x0, 1, 64, 0x0, 0xffffffffffffffff, 0x0, 0x0, 0x0, 0x36393034502d4a46⟩,
  ⟨0x8, 0x0, 1, 0x0, 1, 64, 0x0, 0xffffffffffffffff, 0x0, 0x0, 0x0, 0x3836374d2d⟩,
  ⟨0x10, 0x0, 1, 0x0, 1, 64, 0x0, 0xffffff, 0x0, 0x0, 0x0, 0x0⟩,
  ⟨0x18, 0x0, 1, 0x0, 1, 64, 0x0, 0xffffffffffffffff, 0x0, 0x0, 0x0, 0x0⟩,
  ⟨0x20, 0x0, 1, 0x0, 1, 64, 0x0, 0x7ff, 0x0, 0x0, 0x0, 0x0⟩,
  ⟨0x28, 0x0, 1, 0x0, 1, 64, 0x0, 0xffffffffffffffff, 0x0, 0x0, 0x0, 0x0⟩,
  ⟨0x400, 0x0, 1, 0x0, 1, 64, 0x0, 0xff0f07, 0x0, 0x0, 0x0, 0x4⟩,
  ⟨0x408, 0x0, 1, 0x0, 1, 64, 0x0, 0x0, 0xfff0000000f, 0x0, 0x0, 0x0⟩,
  ⟨0x410, 0x0, 1, 0x0, 1, 64, 0x0, 0x3fffff, 0x0, 0x0, 0x0, 0x0⟩,
  ⟨0x418, 0x0, 1, 0x0, 1, 64, 0x0, 0xffffffffffffffff, 0x0, 0x0, 0x0, 0x0⟩,
  ⟨0x420, 0x8, 6, 0x0, 1, 64, 0x0, 0xffffffffffffffff, 0x0, 0x0, 0x0, 0x0⟩,
  ⟨0x450, 0x0, 1, 0x0, 1, 64, 0x0, 0xffffffffffffffff, 0x0, 0x0, 0x0, 0x0⟩,
  ⟨0x800, 0x8, 256, 0x0, 1, 64, 0x0, 0x0, 0xffffffffffffffff, 0x0, 0x0, 0x0⟩,
  ⟨0x1000, 0x0, 1, 0x0, 1, 64, 0x0, 0xffffffffffffffff, 0x0, 0x0, 0x0, 0x0⟩,
  ⟨0x1008, 0x0, 1, 0x0, 1, 64, 0x0, 0xffffffffffffffff, 0x0, 0x0, 0x0, 0x0⟩,
  ⟨0x1010, 0x0, 1, 0x0, 1, 64, 0xffffffffffffffff, 0x0, 0x0, 0x0, 0x0, 0x0⟩,
  ⟨0x1018, 0x0, 1, 0x0, 1, 64, 0xffffffffffffffff, 0x0, 0x0, 0x0, 0x0, 0x0⟩,
  ⟨0x1020, 0x0, 1, 0x0, 1, 64, 0x0, 0x0, 0x1, 0x0, 0x0, 0x0⟩,
  ⟨0x1028, 0x0, 1, 0x0, 1, 64, 0x0, 0x1, 0x0, 0x0, 0x0, 0x0⟩,
  ⟨0x2000, 0x0, 1, 0x0, 1, 64, 0x0, 0x0, 0xff, 0x0, 0x0, 0x0⟩,
  ⟨0x2008, 0x0, 1, 0x0, 1, 64, 0x0, 0xff0101, 0x0, 0x0, 0x0, 0x0⟩,
  ⟨0x2010, 0x8, 8, 0x0, 1, 64, 0xffffffffffffffff, 0x0, 0x0, 0x0, 0x0, 0x0⟩]

def regMap1 : List RegDesc := [
  ⟨0x2800, 0x8, 256, 0x0, 1, 64, 0xffffffffffffffff, 0x0, 0x0, 0x0, 0x0, 0x0⟩,
  ⟨0x10000, 0x0, 1, 0x0, 1, 64, 0x1, 0x0, 0x0, 0x0, 0x0, 0x0⟩,
  ⟨0x10008, 0x0, 1, 0x0, 1, 64, 0x0, 0x2, 0x0, 0x1, 0x0, 0x0⟩,
  ⟨0x10010, 0x0, 1, 0x0, 1, 64, 0xffffff0000, 0x0, 0x0, 0x0, 0x0, 0x0⟩,
  ⟨0x10018, 0x0, 1, 0x0, 1, 64, 0x0, 0xffffffffffffffff, 0x0, 0x0, 0x0, 0x2400000⟩,
  ⟨0x10020, 0x0, 1, 0x0, 1, 64, 0xfffffffffffff000, 0x0, 0x0, 0x0, 0x0, 0x0⟩,
  ⟨0x10028, 0x0, 1, 0x0, 1, 64, 0x7ff001f, 0x0, 0x0, 0x0, 0x0, 0x0⟩,
  ⟨0x10030, 0x0, 1, 0x0, 1, 64, 0x0, 0xffffffff, 0x0, 0x0, 0x0, 0x0⟩,
  ⟨0x10038, 0x0, 1, 0x0, 1, 64, 0xffffffff, 0x0, 0x0, 0x0, 0x0, 0x0⟩,
  ⟨0x10040, 0x0, 1, 0x0, 1, 64, 0xfff0000000, 0x0, 0x0, 0x0, 0x0, 0x0⟩,
  ⟨0x10100, 0x8, 8, 0x0, 1, 64, 0xffffffffffffffff, 0x0, 0x0, 0x0, 0x0, 0x0⟩,
  ⟨0x10140, 0x0, 1, 0x0, 1, 64, 0x0, 0x0, 0xff, 0x0, 0x0, 0x0⟩,
  ⟨0x10148, 0x0, 1, 0x0, 1, 64, 0x0, 0xff01, 0x0, 0x0, 0x0, 0x0⟩,
  ⟨0x10150, 0x0, 1, 0x0, 1, 64, 0x0, 0xffffffffffffffff, 0x0, 0x0, 0x0, 0x0⟩,
  ⟨0x100000, 0x4000, 64, 0x0, 1, 64, 0x0, 0xffff000ffff1, 0x0, 0x0, 0x0, 0x0⟩,
  ⟨0x100008, 0x4000, 64, 0x0, 1, 64, 0x0, 0xff03, 0x0, 0x0, 0x0, 0x0⟩,
  ⟨0x100010, 0x4000, 64, 0x0, 1, 64, 0x0, 0xffffffffffffffff, 0x0, 0x0, 0x0, 0x0⟩,
  ⟨0x100018, 0x4000, 64, 0x0, 1, 64, 0x0, 0xffffffffffffffff, 0x0, 0x0, 0x0, 0x0⟩,
  ⟨0x100020, 0x4000, 64, 0x8, 4, 64, 0x0, 0xffffffffffffffff, 0x0, 0x0, 0x0, 0x0⟩,
  ⟨0x100040, 0x4000, 64, 0x0, 1, 64, 0x0, 0xffffffffffffffff, 0x0, 0x0, 0x0, 0x0⟩,
  ⟨0x100048, 0x4000, 64, 0x0, 1, 64, 0x0, 0xffffffffffffffff, 0x0, 0x0, 0x0, 0x0⟩,
  ⟨0x100100, 0x4000, 64, 0x10, 16, 64, 0x0, 0xffffffffffffffff, 0x0, 0x0, 0x0, 0x0⟩]

def regMap2 : List RegDesc := [
  ⟨0x200000, 0x0, 1, 0x0, 1, 64, 0x1fffffffffff000, 0x0, 0x0, 0x0, 0x0, 0x0⟩,
  ⟨0x200008, 0x0, 1, 0x0, 1, 64, 0x0, 0x0, 0x80000000013fffff, 0x0, 0x0, 0x0⟩,
  ⟨0x200010, 0x0, 1, 0x0, 1, 64, 0x0, 0xffffffff00000001, 0x0, 0x0, 0x0, 0x0⟩,
  ⟨0x400000, 0x0, 1, 0x0, 1, 64, 0x0, 0x1fffffff, 0x0, 0x0, 0x0, 0x0⟩,
  ⟨0x400008, 0x0, 1, 0x0, 1, 64, 0x0, 0xffffffffffffff, 0x0, 0x0, 0x0, 0x0⟩,
  ⟨0x400010, 0x0, 1, 0x0, 1, 64, 0x0, 0x0, 0x0, 0x0, 0xffffffffffff, 0x0⟩,
  ⟨0x400018, 0x0, 1, 0x0, 1, 64, 0x0, 0x1ffffffffffff, 0x0, 0x8000000000000000, 0x0, 0x0⟩,
  ⟨0x400100, 0x10, 9, 0x0, 1, 64, 0x0, 0xffffffffff, 0x0, 0x0, 0x0, 0x0⟩,
  ⟨0x400108, 0x10, 9, 0x0, 1, 64, 0x0, 0x3ffffffffffff, 0x0, 0x0, 0x0, 0x0⟩,
  ⟨0x401000, 0x20, 64, 0x0, 1, 64, 0xffffff0000, 0x0, 0x0, 0x0, 0x0, 0x0⟩,
  ⟨0x401008, 0x20, 64, 0x0, 1, 64, 0xffffff0000, 0x0, 0x0, 0x0, 0x0, 0x0⟩,
  ⟨0x401010, 0x20, 64, 0x0, 1, 64, 0xffff007f, 0x0, 0x0, 0x0, 0x0, 0x0⟩,
  ⟨0x401018, 0x20, 64, 0x0, 1, 64, 0x0, 0x3fffff, 0x0, 0x0, 0x0, 0x0⟩,
  ⟨0x402000, 0x8, 512, 0x0, 1, 64, 0xffffffffff00, 0x3, 0x0, 0x0, 0x0, 0x0⟩,
  ⟨0x404000, 0x4, 4096, 0x0, 1, 32, 0x0, 0x80000fff, 0x0, 0x0, 0x0, 0x0⟩,
  ⟨0x408000, 0x4, 4096, 0x0, 1, 32, 0x0, 0x80000fff, 0x0, 0x0, 0x0, 0x0⟩,
  ⟨0x800000, 0x0, 1, 0x0, 1, 64, 0x0, 0x7ff, 0x0, 0x0, 0x0, 0x0⟩,
  ⟨0x800008, 0x0, 1, 0x0, 1, 64, 0xff031fff, 0x0, 0x0, 0x0, 0x0, 0x64001770⟩,
  ⟨0x800010, 0x0, 1, 0x0, 1, 64, 0x0, 0xffffffffffffff, 0x0, 0x0, 0x0, 0x0⟩,
  ⟨0x800018, 0x0, 1, 0x0, 1, 64, 0xffffffffffffffff, 0x0, 0x0, 0x0, 0x0, 0x0⟩,
  ⟨0x800020, 0x0, 1, 0x0, 1, 64, 0x1, 0x0, 0x0, 0x0, 0x0, 0x0⟩,
  ⟨0x800028, 0x0, 1, 0x0, 1, 64, 0x0, 0x0, 0x800000000000000f, 0x0, 0x0, 0x0⟩]

def regMap3 : List RegDesc := [
  ⟨0x800030, 0x0, 1, 0x0, 1, 64, 0x0, 0x1, 0x0, 0x0, 0x0, 0x0⟩,
  ⟨0x800038, 0x0, 1, 0x0, 1, 64, 0x0, 0x7, 0x0, 0x0, 0x0, 0x0⟩,
  ⟨0x800040, 0x8, 4, 0x0, 1, 64, 0x0, 0x0, 0x0, 0x0, 0xffffffffffffffff, 0x0⟩,
  ⟨0x800080, 0x8, 5, 0x0, 1, 64, 0xffffffffffffffff, 0x0, 0x0, 0x0, 0x0, 0x0⟩,
  ⟨0x801000, 0x8, 282, 0x0, 1, 64, 0x38, 0x3ffff0f07, 0x40, 0x0, 0x0, 0xf18⟩,
  ⟨0x808000, 0x0, 1, 0x0, 1, 64, 0x0, 0xff07, 0x0, 0x0, 0x0, 0x0⟩,
  ⟨0x808008, 0x0, 1, 0x0, 1, 64, 0x0, 0xffffffff, 0x0, 0x0, 0x0, 0x78030a06⟩,
  ⟨0x808010, 0x0, 1, 0x0, 1, 64, 0x0, 0x1f, 0x0, 0x0, 0x0, 0x0⟩,
  ⟨0x808018, 0x0, 1, 0x0, 1, 64, 0xffffffff, 0x0, 0x0, 0x0, 0x0, 0x0⟩,
  ⟨0xc00000, 0x8, 97, 0x0, 1, 64, 0xffffffffffffffff, 0x0, 0x0, 0x0, 0x0, 0x0⟩,
  ⟨0xc01000, 0x0, 1, 0x0, 1, 64, 0x0, 0x0, 0x1, 0x0, 0x0, 0x0⟩,
  ⟨0xc01008, 0x0, 1, 0x0, 1, 64, 0x0, 0x1fffffff, 0x0, 0x8000000000000000, 0x0, 0x0⟩,
  ⟨0xc01100, 0x0, 1, 0x0, 1, 64, 0x0, 0xffffffffffffffff, 0x0, 0x0, 0x0, 0x0⟩,
  ⟨0xc01108, 0x0, 1, 0x0, 1, 64, 0xffffffffffffffff, 0x0, 0x0, 0x0, 0x0, 0x0⟩,
  ⟨0xc01110, 0x0, 1, 0x0, 1, 64, 0x0, 0x3, 0x0, 0x0, 0x0, 0x0⟩,
  ⟨0xc01140, 0x8, 8, 0x0, 1, 64, 0x0, 0xffffffffffffffff, 0x0, 0x0, 0x0, 0x0⟩,
  ⟨0xe00000, 0x40, 16, 0x0, 1, 64, 0xffffff08, 0x4, 0x3, 0x0, 0x0, 0x0⟩,
  ⟨0xe00008, 0x40, 16, 0x0, 1, 64, 0xffffffff, 0x0, 0x0, 0x0, 0x0, 0x0⟩,
  ⟨0xe00010, 0x40, 16, 0x0, 1, 64, 0xffffffffffffffff, 0x0, 0x0, 0x0, 0x0, 0x0⟩,
  ⟨0xe00018, 0x40, 16, 0x0, 1, 64, 0x0, 0xffffffffffffffff, 0x0, 0x0, 0x0, 0x0⟩,
  ⟨0xe01000, 0x0, 1, 0x0, 1, 64, 0x0, 0x1ffff, 0x0, 0x0, 0x0, 0x0⟩,
  ⟨0x1000000, 0x0, 1, 0x0, 1, 64, 0x0, 0xfffffffffff, 0x0, 0x0, 0x0, 0x0⟩]

def regMap4 : List RegDesc := [
  ⟨0x1000008, 0x0, 1, 0x0, 1, 64, 0x0, 0xffff03ffffffffff, 0x0, 0x0, 0x0, 0x0⟩,
  ⟨0x1000010, 0x0, 1, 0x0, 1, 64, 0xffffffff, 0x0, 0x0, 0x0, 0x0, 0x64000a⟩,
  ⟨0x1001000, 0x20, 32, 0x0, 1, 64, 0x2, 0x0, 0x1, 0x0, 0x0, 0x0⟩,
  ⟨0x1001008, 0x20, 32, 0x0, 1, 64, 0x0, 0x1ffffff, 0x0, 0x0, 0x0, 0x0⟩,
  ⟨0x1001010, 0x20, 32, 0x0, 1, 64, 0x0, 0xffffffff000fffff, 0x0, 0x0, 0x0, 0x0⟩,
  ⟨0x1001018, 0x20, 32, 0x0, 1, 64, 0xffffffffffffffff, 0x0, 0x0, 0x0, 0x0, 0x0⟩,
  ⟨0x1020000, 0x40, 64, 0x0, 1, 64, 0x0, 0xffffffffffffffff, 0x0, 0x0, 0x0, 0x0⟩,
  ⟨0x1020008, 0x40, 64, 0x8, 7, 64, 0xffffffffffffffff, 0x0, 0x0, 0x0, 0x0, 0x0⟩,
  ⟨0x1030000, 0x8, 4096, 0x0, 1, 64, 0x0, 0xffffffffffffffff, 0x0, 0x0, 0x0, 0x0⟩,
  ⟨0x1100000, 0x10, 4096, 0x0, 1, 64, 0xfffffffff8, 0x0, 0x0, 0x0, 0x0, 0x0⟩,
  ⟨0x1100008, 0x10, 4096, 0x0, 1, 64, 0xffffffffff001, 0x0, 0x0, 0x0, 0x0, 0x0⟩,
  ⟨0x1400000, 0x1000, 4, 0x0, 1, 64, 0x3ffff, 0x0, 0x0, 0x0, 0x0, 0xc⟩,
  ⟨0x1400008, 0x1000, 4, 0x0, 1, 64, 0x0, 0x1, 0x0, 0x2, 0x0, 0x0⟩,
  ⟨0x1400010, 0x1000, 4, 0x0, 1, 64, 0x0, 0xffffffffffff, 0x0, 0x0, 0x0, 0x0⟩,
  ⟨0x1400020, 0x1000, 4, 0x20, 2, 64, 0xfffffffffffff000, 0x0, 0x0, 0x0, 0x0, 0x0⟩,
  ⟨0x1400028, 0x1000, 4, 0x20, 2, 64, 0x7ff001f, 0x0, 0x0, 0x0, 0x0, 0x0⟩,
  ⟨0x1400030, 0x1000, 4, 0x0, 1, 64, 0xffffffff, 0x0, 0x0, 0x0, 0x0, 0x0⟩,
  ⟨0x1400038, 0x1000, 4, 0x0, 1, 64, 0x0, 0xffffffff, 0x0, 0x0, 0x0, 0x0⟩,
  ⟨0x1400050, 0x1000, 4, 0x0, 1, 64, 0x0, 0xffffffff, 0x0, 0x0, 0x0, 0x0⟩,
  ⟨0x1400058, 0x1000, 4, 0x0, 1, 64, 0xffffffff, 0x0, 0x0, 0x0, 0x0, 0x0⟩,
  ⟨0x1800000, 0x0, 1, 0x0, 1, 64, 0x0, 0x7ffff7, 0x0, 0x0, 0x0, 0x0⟩,
  ⟨0x1800008, 0x0, 1, 0x0, 1, 64, 0x0, 0xffffffffffffffff, 0x0, 0x0, 0x0, 0x0⟩]

def regMap5 : List RegDesc := [
  ⟨0x1800010, 0x0, 1, 0x0, 1, 64, 0x0, 0xffffffffff, 0x0, 0x0, 0x0, 0x0⟩,
  ⟨0x1800018, 0x0, 1, 0x0, 1, 64, 0x0, 0x1ffff, 0x0, 0x0, 0x0, 0x0⟩,
  ⟨0x1800020, 0x0, 1, 0x0, 1, 64, 0x0, 0xffffffffffffffff, 0x0, 0x0, 0x0, 0x0⟩,
  ⟨0x1800028, 0x0, 1, 0x0, 1, 64, 0x0, 0xffffffff, 0x0, 0x0, 0x0, 0x0⟩,
  ⟨0x1800030, 0x0, 1, 0x0, 1, 64, 0x0, 0xffffffffffffffff, 0x0, 0x0, 0x0, 0x0⟩,
  ⟨0x1801000, 0x40, 16, 0x0, 1, 64, 0x1f, 0xffffff60, 0x0, 0x0, 0x0, 0x0⟩,
  ⟨0x1801008, 0x40, 16, 0x0, 1, 64, 0xffffffffffff, 0x0, 0x0, 0x0, 0x0, 0x0⟩,
  ⟨0x1801010, 0x40, 16, 0x0, 1, 64, 0xffffff, 0x0, 0x0, 0x0, 0x0, 0x0⟩,
  ⟨0x1801018, 0x40, 16, 0x8, 2, 64, 0xffffffffffffffff, 0x0, 0x0, 0x0, 0x0, 0x0⟩,
  ⟨0x1801028, 0x40, 16, 0x0, 1, 64, 0xffffffffffff, 0x0, 0x0, 0x0, 0x0, 0x0⟩,
  ⟨0x1801030, 0x40, 16, 0x0, 1, 64, 0xffffffffffffffff, 0x0, 0x0, 0x0, 0x0, 0x0⟩,
  ⟨0x1801038, 0x40, 16, 0x0, 1, 64, 0xffffffff, 0x0, 0x0, 0x0, 0x0, 0x0⟩,
  ⟨0x1c00000, 0x0, 1, 0x0, 1, 64, 0x0, 0x7fff, 0x0, 0x0, 0x0, 0x0⟩,
  ⟨0x1c00008, 0x0, 1, 0x0, 1, 64, 0x0, 0xffffffff, 0x0, 0x0, 0x0, 0x0⟩,
  ⟨0x1c00010, 0x0, 1, 0x0, 1, 64, 0x0, 0x0, 0x0, 0x0, 0x3, 0x0⟩,
  ⟨0x1c00018, 0x0, 1, 0x0, 1, 64, 0x0, 0xffff, 0x0, 0x0, 0x0, 0xc000⟩,
  ⟨0x1c00108, 0x8, 192, 0x0, 1, 64, 0x0, 0xffff, 0x0, 0x0, 0x0, 0x0⟩,
  ⟨0x1c01000, 0x8, 6, 0x0, 1, 64, 0x0, 0xffffffffffffffff, 0x0, 0x0, 0x0, 0x1⟩,
  ⟨0x1c01040, 0x40, 3, 0x8, 6, 64, 0x0, 0xffffffffffffffff, 0x0, 0x0, 0x0, 0x0⟩,
  ⟨0x1c01200, 0x40, 4, 0x8, 6, 64, 0x0, 0xffffffffffffffff, 0x0, 0x0, 0x0, 0x0⟩]

/-- Every register of BAR0. -/
def regMap : List RegDesc := regMap0 ++ regMap1 ++ regMap2 ++ regMap3 ++ regMap4 ++ regMap5

/-- Whether the register `d` has a member at offset `off`. -/
def RegDesc.hasAt (d : RegDesc) (off : Nat) : Bool :=
  if off < d.base then false
  else
    let r := off - d.base
    let i := if d.n1 ≤ 1 then 0 else r / d.s1
    let r2 := r - i * d.s1
    let j := if d.n2 ≤ 1 then 0 else r2 / d.s2
    decide (i < max d.n1 1) && decide (j < max d.n2 1) && decide (r2 = j * d.s2)

/-- The register at an offset. -/
def regAt (off : Nat) : Option RegDesc := regMap.find? fun d => d.hasAt off

/-- Registers whose reset value is not 0. -/
def regNonzero : List RegDesc := [
  ⟨0x0, 0x0, 1, 0x0, 1, 64, 0x0, 0xffffffffffffffff, 0x0, 0x0, 0x0, 0x36393034502d4a46⟩,
  ⟨0x8, 0x0, 1, 0x0, 1, 64, 0x0, 0xffffffffffffffff, 0x0, 0x0, 0x0, 0x3836374d2d⟩,
  ⟨0x400, 0x0, 1, 0x0, 1, 64, 0x0, 0xff0f07, 0x0, 0x0, 0x0, 0x4⟩,
  ⟨0x10018, 0x0, 1, 0x0, 1, 64, 0x0, 0xffffffffffffffff, 0x0, 0x0, 0x0, 0x2400000⟩,
  ⟨0x800008, 0x0, 1, 0x0, 1, 64, 0xff031fff, 0x0, 0x0, 0x0, 0x0, 0x64001770⟩,
  ⟨0x801000, 0x8, 282, 0x0, 1, 64, 0x38, 0x3ffff0f07, 0x40, 0x0, 0x0, 0xf18⟩,
  ⟨0x808008, 0x0, 1, 0x0, 1, 64, 0x0, 0xffffffff, 0x0, 0x0, 0x0, 0x78030a06⟩,
  ⟨0x1000010, 0x0, 1, 0x0, 1, 64, 0xffffffff, 0x0, 0x0, 0x0, 0x0, 0x64000a⟩,
  ⟨0x1400000, 0x1000, 4, 0x0, 1, 64, 0x3ffff, 0x0, 0x0, 0x0, 0x0, 0xc⟩,
  ⟨0x1c00018, 0x0, 1, 0x0, 1, 64, 0x0, 0xffff, 0x0, 0x0, 0x0, 0xc000⟩,
  ⟨0x1c01000, 0x8, 6, 0x0, 1, 64, 0x0, 0xffffffffffffffff, 0x0, 0x0, 0x0, 0x1⟩]

/-- The reset value of the register at an offset (R11). -/
def regReset (off : Nat) : BitVec 64 :=
  match regNonzero.find? fun d => d.hasAt off with
  | some d => BitVec.ofNat 64 d.reset
  | none => 0

end Sys2Proof.Machine
end

