-- ==== Sys2Proof/Machine/Ops.lean ====
section
/-!
DEFINITION. The named operations over the state that every unit uses: registers, counters and injection, free values, the
error log, the event ring, tiles and groups.
-/
namespace Sys2Proof.Machine

/-! ## Registers -/

/-- A register's value (R11: the reset value until it is changed). -/
def State.reg (s : State) (off : Nat) : BitVec 64 := Tbl.getD s.regs.vals off (regReset off)

/-- Set a register; a value equal to the reset value is not listed. -/
def State.setReg (s : State) (off : Nat) (v : BitVec 64) : State :=
  { s with regs := { s.regs with vals := Tbl.set (regReset off) s.regs.vals off v } }

/-- A register's field: `n` bits from bit `lo`. -/
def State.fld (s : State) (off lo n : Nat) : Nat := field (s.reg off) lo n

/-- Set a register's field. -/
def State.setFld (s : State) (off lo n v : Nat) : State := s.setReg off (setField (s.reg off) lo n v)

/-- Add to a counter field, which saturates at all ones (R17). -/
def State.bumpFld (s : State) (off lo n k : Nat) : State :=
  s.setFld off lo n (min (s.fld off lo n + k) (2 ^ n - 1))

/-- Count one event of a detector (R426). -/
def State.det (s : State) (i : Nat) : State := s.bumpFld (regDetCounter i) 0 64 1

/-- Count `k` events of a detector. -/
def State.detN (s : State) (i k : Nat) : State := if k = 0 then s else s.bumpFld (regDetCounter i) 0 64 k

/-! ## Free values -/

/-- Take a free value. -/
def State.free (s : State) : BitVec 64 × State := (Config.freeValue s.fresh, { s with fresh := s.fresh + 1 })

/-- Take a free choice. -/
def State.choose (s : State) : Bool × State := (Config.freeChoice s.fresh, { s with fresh := s.fresh + 1 })

/-- Something leaves the module. -/
def State.emit (s : State) (o : Output) : State := { s with out := o :: s.out }

/-! ## Time and injection -/

/-- The Cairn's ms count (R304: IDENT_HEARTBEAT rises by one each ms), by which the model tells intervals (log 17). -/
def State.ms (s : State) : Nat := (s.reg regIdentHeartbeat).toNat

/-- Whether injector `j`, armed with `cnt` qualifying operations counted, watches detector `i` at unit `u`. -/
def State.injWatches (s : State) (j i u : Nat) : Bool :=
  decide (s.fld (regInjCtrl j) 8 8 = i) && (decide (s.fld (regInjCtrl j) 16 16 = u) || decide (s.fld (regInjCtrl j) 16 16 = 0xFFFF))

/-- Whether injector `j` fires at the qualifying operation after `cnt` of them (R432). -/
def State.injFires (s : State) (j cnt : Nat) : Bool :=
  let skip := s.fld (regInjSkip j) 0 32
  if s.fld (regInjCtrl j) 3 1 = 0 then decide (cnt = skip)
  else decide (skip ≤ cnt) && decide ((cnt - skip) % (s.fld (regInjPeriod j) 0 32) = 0)

/-- Disarm an injector (R430). -/
def State.disarm (s : State) (j : Nat) : State :=
  ({ s with armed := Tbl.del s.armed j }.setFld (regInjCtrl j) 2 1 0).setFld regInjStatus j 1 0

/-- The lowest armed injector that fires on an operation at detector `i`, unit `u` (R433). -/
def State.firing (s : State) (i u : Nat) : Option Nat :=
  (s.armed.find? fun e => s.injWatches e.1 i u && s.injFires e.1 e.2).map (·.1)

/-- One qualifying operation passes the armed injectors that watch it: each counts it but those that would fire and do not (R433). -/
def State.injPass (s : State) (i u : Nat) (fire : Option Nat) : State :=
  s.armed.foldl (fun (t : State) e =>
    if s.injWatches e.1 i u && (!s.injFires e.1 e.2 || fire == some e.1)
    then { t with armed := Tbl.put t.armed e.1 (e.2 + 1) } else t) s

/-- An injector fires: INJ_FIRED counts, and a one-shot, or a periodic one at its LIMIT, disarms (R432). -/
def State.injFire (s : State) : Option Nat → State
  | none => s
  | some j =>
    let s1 := s.bumpFld (regInjFired j) 0 64 1
    if s.fld (regInjCtrl j) 3 1 = 0 then s1.disarm j
    else
      let lim := s.fld (regInjPeriod j) 32 32
      if lim ≠ 0 ∧ lim ≤ s1.fld (regInjFired j) 0 64 then s1.disarm j else s1

/-- One qualifying operation passes the armed injectors, and the one that fires on it fires (R432, R433). -/
def State.injCount (s : State) (i u : Nat) (fire : Option Nat) : State := (s.injPass i u fire).injFire fire

/-- An operation is judged by detector `i` at unit `u`: it is answered as breaking the rule when it does, or when an
injector fires on it (R432, R433). -/
def State.judge (s : State) (i u : Nat) (bad : Bool) : Bool × State :=
  if s.armed = [] then (bad, s)
  else
    let f := s.firing i u
    (bad || f.isSome, s.injCount i u f)

/-- As `judge`, for one operation that two detectors judge at a unit: of all the injectors that would fire on it only the lowest does (R433). -/
def State.judge2 (s : State) (i j u : Nat) (bi bj : Bool) : Bool × Bool × State :=
  if s.armed = [] then (bi, bj, s)
  else
    let f := (s.armed.find? fun e => (s.injWatches e.1 i u || s.injWatches e.1 j u) && s.injFires e.1 e.2).map (·.1)
    let at_ := fun (d : Nat) => f.any fun k => s.injWatches k d u
    (bi || at_ i, bj || at_ j, ((s.injPass i u f).injPass j u f).injFire f)

/-- Judge and, when the rule is broken, count. -/
def State.check (s : State) (i u : Nat) (bad : Bool) : Bool × State :=
  let (b, s1) := s.judge i u bad
  (b, if b then s1.det i else s1)

/-- An operation that breaks a rule: counted, and seen by the injectors that watch the rule (R433). -/
def State.note (s : State) (i u : Nat) : State := (s.check i u true).2

/-- A judgement that a request which only waits has passed is taken back, since the request is judged when it is presented again (R426, R432): the
counters of what it judged before it could be performed, and the injectors. -/
def State.unjudged (old new : State) : State :=
  let back := fun (t : State) (off : Nat) => if t.reg off = old.reg off then t else t.setReg off (old.reg off)
  let s1 := [detAtomMisaligned, detEventInvalid, detWrongScope].foldl (fun (t : State) d => back t (regDetCounter d)) new
  if s1.armed = old.armed then s1
  else
    (List.range 16).foldl (fun (t : State) j => back (back t (regInjCtrl j)) (regInjFired j))
      (back { s1 with armed := old.armed } regInjStatus)

/-! ## Upsets (R270) -/

/-- An operation on a store of a unit meets an upset of it, once. -/
def State.upset (s : State) (st : Store) (u : Nat) (ue : Bool) : Bool × State :=
  if s.upsets = [] then (false, s)
  else if ⟨st, u, ue⟩ ∈ s.upsets then (true, { s with upsets := s.upsets.erase ⟨st, u, ue⟩ })
  else (false, s)

/-- A read of an SRAM word of unit `u`, a tile or 0x1000 plus a cistern (R270, R432): a correction counts, and so does an uncorrectable
word, of which the answer tells whether an injector made it. -/
def State.sramRead (s : State) (st : Store) (u : Nat) : Option Bool × State :=
  let (c, s1) := s.upset st u false
  let (n, s2) := s1.upset st u true
  let (ce, ue, s3) := s2.judge2 detSramCe detSramUe u c n
  let s4 := if ce then s3.det detSramCe else s3
  if ue then (some (!n), s4.det detSramUe) else (none, s4)

/-- The stores in which an upset may lie. -/
def allStores : List Store := [.data, .tags, .directory, .pageState, .l1, .icache, .scratch, .regs, .well, .flit]

/-- What time does to the stores and datapaths (R270, log 45): an upset may come, in a store and unit of its own choice. One of a page-state
entry that cannot be corrected comes with CKP_FAIL (R367). -/
def State.strike (s : State) : State :=
  let (c, s1) := s.choose
  if c = false then s1
  else
    let (k, s2) := s1.free
    let (u, s3) := s2.free
    let (e, s4) := s3.choose
    let st := allStores.getD (k.toNat % 10) .data
    let unit := if k.toNat % 10 < 4 then 0x1000 + u.toNat % 512 else if st = .flit then u.toNat % 0x1200 else u.toNat % 4096
    { s4 with upsets := s4.upsets ++ [⟨st, unit, decide (st = .flit) || (e && decide (st ≠ .pageState))⟩] }

/-! ## The error log and the event ring -/

/-- How many records the ring retains once `n` have been written (R434): 16 sectors of 1,024, the oldest of which is erased when a new
sector is needed. -/
def logKept (n : Nat) : Nat := if n ≤ 16384 then n else 15361 + (n - 1) % 1024

/-- Write an error-log record (R434, R435): at most 64 of one type in a second; DET_LOG_TOTAL counts those written. -/
def State.logRec (s : State) (typ det code unit ctx arg : Nat) (inj : Bool) : State :=
  let now := s.ms
  let (over_, s) := s.judge detLogSuppressed 0
    (decide (64 ≤ ((s.log.recs.filter fun r => decide (r.typ = typ ∧ r.boot = s.log.boot ∧ now < r.time + 1000)).take 64).length))
  if over_ then s.det detLogSuppressed
  else
    let r : LogRec := ⟨typ, inj, s.log.boot, now, det, code, unit, ctx, arg, true⟩
    { s with log := { s.log with recs := (r :: s.log.recs).take (logKept ((s.reg regDetLogTotal).toNat + 1)) } }.bumpFld regDetLogTotal 0 64 1

/-- Write an error-log record of the module itself whose CODE, and ARG where there is none, the spec gives no value: free values. -/
def State.logOpen (s : State) (typ det unit : Nat) (arg : Option Nat) (inj : Bool) : State :=
  let (c, s1) := s.free
  match arg with
  | some a => s1.logRec typ det (c.toNat % 256) unit 0xFFFF a inj
  | none =>
    let (a, s2) := s1.free
    s2.logRec typ det (c.toNat % 256) unit 0xFFFF a.toNat inj

/-- Whether the PCIe IDE stream has gone Insecure, so that every TLP is refused (R395): nothing that the module writes reaches the host, and what it
reads there does not come. -/
def State.hostCut (s : State) : Bool := decide (s.trust.ide = .insecure)

/-- Write host memory. -/
def State.hostWrite (s : State) (a : Nat) (bs : List (BitVec 8)) : State :=
  if s.hostCut then s else { s with mem := { s.mem with host := Memory.writes s.mem.host a bs } }

/-- Write an event-ring record (R309, Table 11.7). -/
def State.evr (s : State) (typ code ctx : Nat) (arg0 arg1 : BitVec 64) : State :=
  let log2n := s.fld regHifEvrCfg 0 5
  let tail := s.fld regHifEvrTail 0 32
  let head := s.fld regHifEvrHead 0 32
  let (full, s) := s.judge detEvrOverflow 0 (decide (log2n = 0 ∨ 2 ^ log2n ≤ (tail + 2 ^ 32 - head) % 2 ^ 32))
  if full then
    (s.setFld regHifStatus 0 1 1).det detEvrOverflow
  else
    let (t, s1) := s.free
    let ph := if (tail / 2 ^ log2n) % 2 = 0 then 1 else 0
    let w0 := typ + code * 2 ^ 8 + ctx * 2 ^ 32
    let w3 := t.toNat % 2 ^ 63 + ph * 2 ^ 63
    let a := (s.reg regHifEvrBase).toNat + 32 * (tail % 2 ^ log2n)
    let bytes := leBytes 8 w0 ++ leBytes 8 arg0.toNat ++ leBytes 8 arg1.toNat ++ leBytes 8 w3
    let s2 := { s1.hostWrite a bytes with hif := { s1.hif with evrDue := true } }
    s2.setFld regHifEvrTail 0 32 (tail + 1)

/-! ## Tiles, blocks and groups -/

/-- An empty tile. -/
def Tile.empty : Tile := ⟨[], [], [], [], [], [], [], [], [], none, [], []⟩

/-- A tile. -/
def State.tile (s : State) (t : Nat) : Tile := Tbl.getD s.tiles t Tile.empty

/-- Set a tile. -/
def State.setTile (s : State) (t : Nat) (v : Tile) : State := { s with tiles := Tbl.set Tile.empty s.tiles t v }

/-- The group resident in a slot. -/
def State.group (s : State) (g : GRef) : Option Group := Tbl.find (s.tile g.tile).groups g.slot

/-- Set a resident group. -/
def State.putGroup (s : State) (g : GRef) (v : Group) : State :=
  let t := s.tile g.tile
  s.setTile g.tile { t with groups := Tbl.put t.groups g.slot v }

/-- The block of a group. -/
def State.blockOf (s : State) (g : GRef) (gr : Group) : Option Block := Tbl.find (s.tile g.tile).blocks gr.block

/-- The context a group works for. -/
def State.ctxOf (s : State) (g : GRef) (gr : Group) : Nat :=
  match s.blockOf g gr with
  | some b => b.cmd.ctx
  | none => 0

/-- The spur of a tile (R30). -/
def spurOfTile (t : Nat) : Nat := 16 * (t / 64 / 4) + t % 64 / 4

/-- The crest of a tile (R30). -/
def crestOfTile (t : Nat) : Nat := 2 * (t / 64 / 16) + t % 64 / 32

/-- The tile at place (tx, ty) of a spur (R30). -/
def tileOfSpur (spur k : Nat) : Nat := 64 * (4 * (spur / 16) + k / 4) + 4 * (spur % 16) + k % 4

/-- A lane's register. -/
def Group.rd (gr : Group) (lane r : Nat) : BitVec 32 := Tbl.getD gr.regs (lane * 128 + r) 0

/-- A lane's register pair (R53: the low half is in the named register). -/
def Group.rd64 (gr : Group) (lane r : Nat) : BitVec 64 := gr.rd lane (r + 1) ++ gr.rd lane r

/-- Write a lane's register. -/
def Group.wr (gr : Group) (lane r : Nat) (v : BitVec 32) : Group :=
  { gr with regs := Tbl.set 0 gr.regs (lane * 128 + r) v }

/-- Write the registers from `r` with the 32-bit pieces of `v`, lowest first. -/
def Group.wrN : Nat → Group → Nat → Nat → Nat → Group
  | 0, gr, _, _, _ => gr
  | n + 1, gr, lane, r, v => Group.wrN n (gr.wr lane r (BitVec.ofNat 32 v)) lane (r + 1) (v >>> 32)

/-- The value of `n` registers from `r`. -/
def Group.rdN : Nat → Group → Nat → Nat → Nat
  | 0, _, _, _ => 0
  | n + 1, gr, lane, r => (gr.rd lane r).toNat + Group.rdN n gr lane (r + 1) * 2 ^ 32

/-- The active lanes in ascending order. -/
def Group.lanes (gr : Group) : List Nat := (List.range 32).filter fun l => gr.m.getLsbD l

/-- The lowest-numbered active lane, 0 where none is active. -/
def Group.first (gr : Group) : Nat := gr.lanes.headD 0

/-- The context a resident group works for, 0 where the slot is free. -/
def State.ctxAt (s : State) (g : GRef) : Nat :=
  match s.group g with
  | some gr => s.ctxOf g gr
  | none => 0

/-- A context's tile-cycle that counts in CTX_BUSY: an instruction of it is issued, or a port of an array of it advances (R314). -/
def State.work (s : State) (c : Nat) : State := { s with worked := if c ∈ s.worked then s.worked else c :: s.worked }

/-- The no-progress timer of a slot restarts (R70). -/
def Tile.restart (t : Tile) (slot : Nat) : Tile := { t with timers := Tbl.del t.timers slot }

/-- A group's no-progress timer restarts (R70). -/
def State.restart (s : State) (g : GRef) : State := s.setTile g.tile ((s.tile g.tile).restart g.slot)

/-- Advance the program counter to the next word. -/
def Group.next (gr : Group) : Group := { gr with pc := gr.pc + 8 }

/-- A group that may issue (R41): resident, not waiting, with the array claim's block known. -/
def State.ready (s : State) (g : GRef) : Option Group :=
  match s.group g with
  | some gr => if gr.wait = .ready then some gr else none
  | none => none

/-- Which group of which launch a resident group is. -/
def State.gidOf (s : State) (g : GRef) (gr : Group) : Option GroupId := (s.blockOf g gr).map fun b => ⟨b.cmd, b.num, gr.rank⟩

/-- Whether the group of an identity is resident in a slot. -/
def State.isGroup (s : State) (g : GRef) (x : GroupId) : Bool := (s.group g).any fun gr => decide (s.gidOf g gr = some x)

/-- A timer restarts at a completion that reaches its group (R70): nothing of an ended group restarts the slot's next one. -/
def State.restartOf (s : State) (g : GRef) (x : GroupId) : State := if s.isGroup g x then s.restart g else s

end Sys2Proof.Machine
end

