-- ==== Sys2Proof/Machine/Domain.lean ====
section
/-!
DEFINITION. Power domains as requests meet them (15 R408 to R417; 01 R33): which domains stand on a request's way, and how a domain that is not at
RUN begins its exit.
-/
namespace Sys2Proof.Machine

/-! ## Domains between two states (R409, R414 to R417) -/

/-- PWR_DOM.STATE of a domain: 0 RUN, 1 IDLE, 2 SLEEP, 3 DEEP, 4 ENTERING, 5 WAKING, 6 FAILED. -/
def State.domState (s : State) (d : Nat) : Nat := s.fld (regPwrDom d) 0 3

/-- The domain of a tile's spur (R290). -/
def domOfTile (t : Nat) : Nat := spurOfTile t

/-- The domain of the cistern ring that holds channel n (R32, R290). -/
def domOfChan (n : Nat) : Nat := 256 + n / 64

/-- The domain of the HBM stack of channel n (R32, R290). -/
def domOfStack (n : Nat) : Nat := 264 + n / 32

/-- The domain of the I/O die of a Ridge port (R336, R290). -/
def domOfPort (p : Nat) : Nat := 280 + p / 16

/-- The domain of I/O die 0, through which the host is reached (R33, R290). -/
def domHost : Nat := 280

/-- Set STATE of a domain. -/
def State.setDom (s : State) (d v : Nat) : State := s.setFld (regPwrDom d) 0 3 v

/-- A domain between two states. -/
def State.domRun (s : State) (d : Nat) : Option DomRun := Tbl.find s.pwr.doms d

/-- Note that a domain is between two states. -/
def State.putDom (s : State) (d : Nat) (r : DomRun) : State := { s with pwr := { s.pwr with doms := Tbl.put s.pwr.doms d r } }

/-- A domain is no longer between two states. -/
def State.delDom (s : State) (d : Nat) : State := { s with pwr := { s.pwr with doms := Tbl.del s.pwr.doms d } }

/-- A domain is made FAILED (R416): what waits on it meets poison from now on. -/
def State.failDom (s : State) (d : Nat) (inj : Bool) : State :=
  (((s.delDom d).setDom d 6).setFld regIdentStatus 1 1 1).logOpen 6 detPwrWakeFail d (some d) inj

/-- A domain in IDLE, SLEEP or DEEP begins its exit: from IDLE only the logic stage runs (R415). -/
def State.beginExit (s : State) (d from_ : Nat) : State :=
  let stage := if from_ = 1 then 3 else 0
  let (bad, s1) := s.check detPwrWakeFail d false
  if bad then s1.failDom d true
  else ((s1.putDom d ⟨0, false, from_, stage, []⟩).setDom d 5).setFld (regPwrDom d) 8 4 (2 ^ stage - 1)

/-- A wake event (R414, R417): during an entry it is noted and counts, and the exit follows the entry. A request that waits and is presented again
is no new event (log 3). -/
def State.wakeFor (s : State) (o : Option Owner) (d : Nat) : State :=
  match s.domRun d with
  | some r =>
    if s.domState d = 4 ∧ o.any (fun x => decide (x ∈ r.who)) = false then
      (s.note detPwrWakeInEntry d).putDom d { r with wake := true, who := r.who ++ o.toList }
    else s
  | none =>
    if 1 ≤ s.domState d ∧ s.domState d ≤ 3 then
      (s.check detPwrWakeInEntry d false).2.beginExit d (s.domState d)
    else s

/-- A wake event that no request makes: WAKE, a vote, or a reset. -/
def State.wake (s : State) (d : Nat) : State := s.wakeFor none d

/-- A requester's request was found waiting for a power domain to reach RUN (R70, R107, R414): the domain begins its exit. -/
def State.noteDom (s : State) (o : Owner) (d : Nat) : State :=
  let s1 := match o with
    | .group t k | .store t k => s.setTile t { s.tile t with domWaits := Tbl.put (s.tile t).domWaits k d }
    | .pump t p => s.setTile t { s.tile t with domWaits := Tbl.put (s.tile t).domWaits (32 + p) d }
    | _ => s
  s1.wakeFor (some o) d

/-- A state to which work goes back, with the wake events of a wait of it (R414): the domains that it has begun to wake. -/
def State.keepWakes (old new : State) : State :=
  new.pwr.doms.foldl (fun (s : State) e =>
    match old.domRun e.1 with
    | some r => (e.2.who.drop r.who.length).foldl (fun (t : State) o => t.wakeFor (some o) e.1) s
    | none => s.wake e.1) old

/-- Whether a domain is in an entry, which ends before a reset narrower than PERST# proceeds (R421). -/
def State.entering (s : State) : Bool := (List.range 282).any fun d => decide (s.domState d = 4)

/-! ## The way of a request (R33, R408) -/

/-- Crest rows from one to another, both ends among them. -/
def rowsFrom (a b : Nat) : List Nat :=
  if a ≤ b then (List.range (b + 1 - a)).map (a + ·) else (List.range (a + 1 - b)).map (a - ·)

/-- The crests that a request crosses from crest `a` to crest `b`, one saddle for each step of column and of row; the row in which it changes columns
is open (log 48). -/
def crestPath (a b : Nat) : List Nat :=
  if a = b then [a]
  else if a % 2 = b % 2 then (rowsFrom (a / 2) (b / 2)).map fun r => 2 * r + a % 2
  else if a / 2 = b / 2 then [a, b]
  else
    let t := max (min (a / 2) (b / 2)) (min (max (a / 2) (b / 2)) (Config.meshTurn a b))
    ((rowsFrom (a / 2) t).map fun r => 2 * r + a % 2) ++ (rowsFrom t (b / 2)).map fun r => 2 * r + b % 2

/-- The crest of a spur (R30). -/
def crestOfSpur (n : Nat) : Nat := crestOfTile (tileOfSpur n 0)

/-- The domains from a requester to crest `c`: those of the crests that the request crosses, after I/O die 0 for the host's. A requester whose place
the spec does not give is taken as beside the crest (log 48). -/
def wayTo (o : Owner) (c : Nat) : List Nat :=
  match o with
  | .group t _ | .store t _ | .pump t _ => (crestPath (crestOfTile t) c).map (256 + ·)
  | .spur n => (crestPath (crestOfSpur n) c).map (256 + ·)
  | .host _ => domHost :: (crestPath (c % 2) c).map (256 + ·)
  | _ => [256 + c]

/-- The domains from a requester to I/O die `i`, at the nearer end of its column of crests. -/
def wayToDie (o : Owner) (i : Nat) : List Nat :=
  let col := fun (c : Nat) => (crestPath c (6 * i + c % 2)).map (256 + ·) ++ [280 + i]
  match o with
  | .group t _ | .store t _ | .pump t _ => col (crestOfTile t)
  | .spur n => col (crestOfSpur n)
  | _ => [280 + i]

/-- What stands between a request and a line: nothing, a domain to wake, a FAILED domain (answered poisoned, R416), or a
request that stalls before it (R254). -/
inductive Reach where
  | ok
  | asleep (d : Nat)
  | failed
  | busy
deriving DecidableEq, Repr, Inhabited

/-- What a request meets on a way of domains: the first that is not at RUN (R414, R416). -/
def State.reachDoms (s : State) : List Nat → Reach
  | [] => .ok
  | d :: ds => if s.domState d = 6 then .failed else if s.domState d = 0 then s.reachDoms ds else .asleep d

/-- A request that meets a domain not at RUN makes its exit begin (R414); anything else that stands before it does nothing here. -/
def State.stir (s : State) (o : Owner) (r : Reach) : State :=
  match r with
  | .asleep d => s.noteDom o d
  | _ => s

/-- Of what stands before the parts of a request, what stands before the whole: a FAILED domain first, then the first that makes it wait. -/
def reachOf (rs : List Reach) : Reach := if .failed ∈ rs then .failed else (rs.find? fun r => r ≠ .ok).getD .ok

end Sys2Proof.Machine
end

