-- ==== Sys2Proof/Machine/Link.lean ====
section
/-!
DEFINITION. Ridge frames as they leave the module: line units, credits and the replay buffer, routing and bundles, frames that
wait, and NAKs (12 R337 to R345).
-/
namespace Sys2Proof.Machine

/-! ## Fields of a frame -/

/-- A field of a frame's ARGS; `lo` counts from bit 128 of the header (Table 12.4). -/
def frameArg (f : Frame) (lo n : Nat) : Nat := bitsOf f.args.toNat lo n

/-- Whether a type is a board memory frame (R338). -/
def boardMem (t : BitVec 4) : Bool := decide (1 ≤ t.toNat) && decide (t.toNat ≤ 4)

/-- The virtual channel of a type (Table 12.4). -/
def vcOf (t : BitVec 4) : BitVec 2 :=
  match t.toNat with
  | 0 => 3
  | 1 | 2 | 3 | 5 => 0
  | 7 | 8 | 9 => 2
  | _ => 1

/-- The line units of a frame (R337). -/
def frameUnits (f : Frame) : Nat :=
  let p := (f.len.toNat + 255) / 256
  p + max 1 ((p + 15) / 16)

/-- The key that spreads a frame over its bundle (R344). A MEM_RSP carries no address and takes the lowest port, as every other frame does
(DEDUCED, log 46). -/
def frameKey (f : Frame) : Nat :=
  match f.typ.toNat with
  | 1 | 2 | 3 => frameArg f 7 9
  | 5 => frameArg f 0 12
  | 8 | 9 => frameArg f 96 32
  | _ => 0

/-! ## Ports and this module's identity -/

/-- A port with nothing sent or received. -/
def Port.empty : Port := ⟨0, 0, [], [], [0, 0, 0, 0], [], [], none, none, 0, 0, 0⟩

/-- A port. -/
def State.port (s : State) (p : Nat) : Port := Tbl.getD s.ridge.ports p Port.empty

/-- Set a port. -/
def State.setPort (s : State) (p : Nat) (v : Port) : State :=
  { s with ridge := { s.ridge with ports := Tbl.set Port.empty s.ridge.ports p v } }

/-- This module's NODE. -/
def State.node (s : State) : Nat := s.fld regRdgNode 0 20

/-- STATE of a port: 3 is UP. -/
def State.portState (s : State) (p : Nat) : Nat := s.fld (regRdgPortStatus p) 4 4

/-- ROLE of a port. -/
def State.portRole (s : State) (p : Nat) : Nat := s.fld (regRdgPortStatus p) 0 4

/-- The NODE of a port's peer. -/
def State.portPeer (s : State) (p : Nat) : Nat := s.fld (regRdgPortPeer p) 0 20

/-- Whether a port's I/O die is at RUN: no other sends or receives (R414, R420). -/
def State.portAwake (s : State) (p : Nat) : Bool := decide (s.domState (domOfPort p) = 0)

/-- The UP ports of a role whose peer is `dst`, ascending (R344, R348, R354). -/
def State.bundle (s : State) (role dst : Nat) : List Nat :=
  (List.range 32).filter fun q => decide (s.portState q = 3) && decide (s.portRole q = role) && decide (s.portPeer q = dst)

/-- The group entry of a number and kind. -/
def State.groupEnt (s : State) (g : Nat) (tree : Bool) : Option GroupEnt :=
  s.load.img.bind fun i => i.groups.find? fun e => e.group = g ∧ e.tree = tree

/-- The role over which a frame of a TREE collective leaves (R354): tree-up to PARENT, tree-down to a child. -/
def State.treeRole (s : State) (f : Frame) : Option Nat :=
  if f.typ ≠ 7 ∧ f.typ ≠ 8 ∧ f.typ ≠ 9 then none
  else
    match Tbl.find s.eng.colls (frameArg f 8 6) with
    | some c =>
      if bitsOf c.desc.toNat 125 1 = 1 then
        match s.groupEnt (frameArg f 0 8) true with
        | some e => some (if e.parent = f.dst.toNat then 2 else 3)
        | none => none
      else none
    | none => none

/-! ## Routing (R343) -/

/-- The first route entry that covers a destination: its number from `i`, `n` entries left. -/
def State.routeFrom (s : State) (dst : Nat) : Nat → Nat → Option (BitVec 64)
  | 0, _ => none
  | n + 1, i =>
    let e := s.reg (regRdgRoute i)
    if field e 0 20 ≤ dst ∧ dst ≤ field e 20 20 then some e else State.routeFrom s dst n (i + 1)

/-- The route of a destination. -/
def State.route (s : State) (dst : Nat) : Option (BitVec 64) := s.routeFrom dst (s.fld regRdgNode 20 16) 0

/-- The bundle that a route entry chooses: of PORT while it is UP, else of ALTPORT where that is valid and UP (R343, R344). -/
def State.routePorts (s : State) (e : BitVec 64) : List Nat :=
  let p := field e 40 5
  let a := field e 45 5
  if s.portState p = 3 then s.bundle (s.portRole p) (s.portPeer p)
  else if field e 50 1 = 1 ∧ s.portState a = 3 then s.bundle (s.portRole a) (s.portPeer a)
  else []

/-- The ports a frame may leave on, or none while none is UP (R343, R344, R348, R354). A board memory frame that this module forwards leaves on
mesh-neighbour ports only (Table 12.2). -/
def State.portsFor (s : State) (own : Bool) (f : Frame) : List Nat :=
  let routed := match s.route f.dst.toNat with | some e => s.routePorts e | none => []
  if own then
    if boardMem f.typ then s.bundle 1 f.dst.toNat
    else
      match s.treeRole f with
      | some r => s.bundle r f.dst.toNat
      | none => routed
  else if boardMem f.typ then routed.filter fun p => decide (s.portRole p = 1)
  else routed

/-- Why a frame is refused at routing: NO_ROUTE or HOP_LIMIT of Table 12.7 (R343). -/
def State.routeRefusal (s : State) (own : Bool) (f : Frame) : Option Nat :=
  if own = true ∧ (boardMem f.typ ∨ (s.treeRole f).isSome) then none
  else if (s.route f.dst.toNat).isNone then some 2
  else if own = false ∧ f.hops = 0 then some 3
  else none

/-- The frame with the hop count it leaves with (R343). -/
def State.withHops (s : State) (own : Bool) (f : Frame) : Frame :=
  if own then
    if boardMem f.typ ∨ (s.treeRole f).isSome then { f with hops := 0 }
    else { f with hops := BitVec.ofNat 6 (match s.route f.dst.toNat with | some e => field e 51 6 | none => 0) }
  else { f with hops := f.hops - 1 }

/-! ## Sending (R341, R342) -/

/-- Bytes of the replay buffer in use. -/
def Port.replayBytes (p : Port) : Nat := (p.replay.map fun e => 256 * frameUnits e.2).sum

/-- Whether a port may start a frame: nothing is left to replay, credits for every unit on its channel, and room in the 512 KiB replay
buffer. -/
def Port.canSend (p : Port) (f : Frame) : Bool :=
  decide (p.resend = []) && decide (frameUnits f ≤ p.credits.getD f.vc.toNat 0) && decide (p.replayBytes + 256 * frameUnits f ≤ 0x80000)

/-- The control units of a frame (R337): the nonce of a direction counts them (R396). -/
def controlUnits (f : Frame) : Nat := max 1 (((f.len.toNat + 255) / 256 + 15) / 16)

/-- A frame leaves a port once more under its sequence. -/
def State.frameOut (s : State) (p : Nat) (seq : BitVec 16) (f : Frame) : State :=
  let q := s.port p
  (s.setPort p { q with txUnits := q.txUnits + controlUnits f }).emit (.frame p seq f)

/-- Start a frame on a port. -/
def State.xmit (s : State) (p : Nat) (f : Frame) : State :=
  let q := s.port p
  let c := q.credits.getD f.vc.toNat 0
  (s.setPort p { q with tx := q.tx + 1, replay := q.replay ++ [(q.tx, f)], txUnits := q.txUnits + controlUnits f,
                        credits := setAt q.credits f.vc.toNat (c - frameUnits f) }).emit (.frame p q.tx f)

/-- Send again, in order, what a replay has still to send, as far as the credits reach (R341, R346). -/
def State.resendPort (s : State) (p : Nat) : State :=
  if s.portAwake p = false then s
  else
    let q := s.port p
    q.resend.foldl (fun (t : State) e =>
      let q := t.port p
      let c := q.credits.getD e.2.vc.toNat 0
      if q.resend.head? = some e ∧ frameUnits e.2 ≤ c then
        (t.setPort p { q with resend := q.resend.drop 1, txUnits := q.txUnits + controlUnits e.2,
                              credits := setAt q.credits e.2.vc.toNat (c - frameUnits e.2) }).emit (.frame p e.1 e.2)
      else t) s

/-- A link frame leaves a port: its kind of Table 12.4, its sequence and its credits. It is one control unit. -/
def State.linkOut (s : State) (p kind : Nat) (seq : BitVec 16) (credits : List Nat) : State :=
  let q := s.port p
  (s.setPort p { q with txUnits := q.txUnits + 1 }).emit (.link p kind seq credits)

/-! ## Receive buffers (R341) -/

/-- The line units of each virtual channel's receive buffer: 128, 128, 256 and 4 KiB. -/
def vcUnits : List Nat := [512, 512, 1024, 16]

/-- The units of a port's receive buffer that frames hold which wait to be forwarded. -/
def State.vcUsed (s : State) (p v : Nat) : Nat :=
  ((s.ridge.held.filter fun h => decide (h.port = some p) && decide (h.f.vc.toNat = v)).map fun h => frameUnits h.f).sum

/-- The free units of a port's receive buffer, by virtual channel. -/
def State.vcFree (s : State) (p : Nat) : List Nat := (List.range 4).map fun v => vcUnits.getD v 0 - s.vcUsed p v

/-- A frame leaves the receive buffer of a port: its units go back to the partner as credits, or with the port's next advertisement. -/
def State.freeIn (s : State) (port : Option Nat) (f : Frame) : State :=
  match port with
  | none => s
  | some p => if s.portState p = 3 then s.linkOut p 3 0 ((List.range 4).map fun v => if v = f.vc.toNat then frameUnits f else 0) else s

/-! ## Frames that wait (R341, R343, R344) -/

/-- The port of a bundle that a frame takes (R344). -/
def pickOf (b : List Nat) (f : Frame) : Option Nat := b[frameKey f % (max b.length 1)]?

/-- The port that a frame takes as the ports stand. -/
def State.exitOf (s : State) (own : Bool) (f : Frame) : Option Nat := pickOf (s.portsFor own f) f

/-- Whether a change of bundle holds a frame back (R344); a frame that the change itself waits for is not held by it. -/
def State.fenced (s : State) (own : Bool) (f : Frame) : Bool :=
  own && decide (f.vc = 0) && s.ridge.fences.any fun e => decide (e.1 = f.dst.toNat) && !decide (f.tag ∈ e.2)

/-- What a frame that waits blocks: frames on its port, or on none, for its destination and channel. -/
abbrev WaitKey := Option Nat × BitVec 20 × BitVec 2

/-- The key of a frame that waits; one that a change of bundle holds back blocks nothing. -/
def State.waitKey (s : State) (own : Bool) (f : Frame) : List WaitKey := if s.fenced own f then [] else [(s.exitOf own f, f.dst, f.vc)]

/-- Whether a frame may leave now, and where: no earlier frame blocks it, no change of bundle holds it, and its port can send it. -/
def State.sendNow (s : State) (own : Bool) (blocked : List WaitKey) (f : Frame) : Option Nat :=
  if s.fenced own f then none
  else
    match s.exitOf own f with
    | some p => if decide ((some p, f.dst, f.vc) ∉ blocked) && s.portAwake p && (s.port p).canSend f then some p else none
    | none => none

/-- The I/O dies that a waiting frame needs: its port's, or those of the ports that its route names while none is UP (R414). -/
def State.exitDies (s : State) (own : Bool) (f : Frame) : List Nat :=
  match s.exitOf own f with
  | some p => [domOfPort p]
  | none =>
    if own ∧ (boardMem f.typ ∨ (s.treeRole f).isSome) then
      let role := if boardMem f.typ then 1 else (s.treeRole f).getD 0
      (((List.range 32).filter fun q => decide (s.portRole q = role) && decide (s.portPeer q = f.dst.toNat)).map domOfPort).eraseDups
    else
      match s.route f.dst.toNat with
      | some e => (domOfPort (field e 40 5) :: if field e 50 1 = 1 then [domOfPort (field e 45 5)] else []).eraseDups
      | none => []

/-- Every frame that waits is a request to the I/O dies it needs (R414). -/
def State.wakeExits (s : State) : State :=
  s.ridge.held.foldl (fun (t : State) h =>
    if t.fenced h.own h.f then t
    else (t.exitDies h.own h.f).foldl (fun (u : State) d => u.wakeFor (some (.far h.f.src.toNat h.f.tag.toNat)) d) t) s

/-- Send a frame, hold it (R341, R343), or refuse it with a code of Table 12.7. `port` is the port in whose receive buffer a forwarded frame
is. -/
def State.sendFrom (s : State) (port : Option Nat) (own : Bool) (f : Frame) : Option Nat × State :=
  match s.routeRefusal own f with
  | some c => (some c, s)
  | none =>
    let g := s.withHops own f
    match s.sendNow own (s.ridge.held.flatMap fun h => s.waitKey h.own h.f) g with
    | some p => (none, (s.xmit p g).freeIn port g)
    | none => (none, State.wakeExits { s with ridge := { s.ridge with held := s.ridge.held ++ [⟨g, own, port⟩] } })

/-- Send a frame of this module, or one that it forwards and holds in no receive buffer. -/
def State.send (s : State) (own : Bool) (f : Frame) : Option Nat × State := s.sendFrom none own f

/-- Let every frame go that can, in order (R341, R343). -/
def State.drainHeld (s : State) : State :=
  (s.ridge.held.foldl (fun (r : State × List WaitKey) h =>
    match r.1.sendNow h.own r.2 h.f with
    | some p => ((r.1.xmit p h.f).freeIn h.port h.f, r.2)
    | none => ({ r.1 with ridge := { r.1.ridge with held := r.1.ridge.held ++ [h] } }, r.1.waitKey h.own h.f ++ r.2))
    ({ s with ridge := { s.ridge with held := [] } }, [])).1.wakeExits

/-! ## Frames held while a bundle changes (R344) -/

/-- The VC0 frames this module originated that have left and are not answered yet, with their tags. -/
def State.ownUnanswered (s : State) : List (BitVec 16 × Frame) :=
  (s.ridge.reqs.map (fun r => (r.tag, r.frame)) ++ s.ridge.sigs.map fun q => (q.tag, q.f)).filter fun e =>
    !(s.ridge.held.any fun h => h.own && decide (h.f.tag = e.1) && decide (h.f.vc = 0))

/-- After a change of port state from `b`: for every destination whose bundle changed, the frames still to be answered hold back new ones. -/
def State.fenceChange (s b : State) : State :=
  let open_ := s.ownUnanswered
  let hit := ((open_.filter fun (e : BitVec 16 × Frame) => s.portsFor true e.2 ≠ b.portsFor true e.2).map fun e => e.2.dst.toNat).eraseDups
  let add := hit.map fun d => (d, (open_.filter fun (e : BitVec 16 × Frame) => e.2.dst.toNat = d).map (·.1))
  { s with ridge := { s.ridge with fences := (s.ridge.fences.filter fun e => !decide (e.1 ∈ hit)) ++ add } }

/-- A frame of a tag is answered or given up: it holds nothing back any more. -/
def State.unfence (s : State) (tag : BitVec 16) : State :=
  let fs := (s.ridge.fences.map fun e => (e.1, e.2.filter fun t => t ≠ tag)).filter fun e => e.2 ≠ []
  { s with ridge := { s.ridge with fences := fs } }.drainHeld

/-- A frame this module originates. -/
def State.mkFrame (s : State) (typ : BitVec 4) (dst : Nat) (tag : BitVec 16) (args : Nat) (payload : List (BitVec 8)) : Frame :=
  ⟨typ, vcOf typ, 0, BitVec.ofNat 20 dst, BitVec.ofNat 20 s.node, BitVec.ofNat 14 payload.length, tag,
   BitVec.ofNat 32 (s.fld regRdgBoard 0 32), BitVec.ofNat 128 args, payload, false, false, .good⟩

/-- The next request tag. -/
def State.newTag (s : State) : BitVec 16 × State := (s.ridge.tag, { s with ridge := { s.ridge with tag := s.ridge.tag + 1 } })

/-! ## Board memory requests (R348, R350) -/

/-- The module of a window: NODE with bits [2:0] replaced. -/
def State.windowNode (s : State) (a : Nat) : Nat := s.node / 8 * 8 + bitsOf a 40 3

/-- What stands between a board memory request and its link (R414, R416): the I/O dies of the ports to the module of the window. -/
def State.boardReach (s : State) (o : Owner) (addr : Nat) : Reach :=
  let ps := (List.range 32).filter fun q => decide (s.portRole q = 1) && decide (s.portPeer q = s.windowNode addr)
  let ds := (ps.map fun q => q / 16).eraseDups
  if ps.any fun q => decide (s.portState q = 3) && s.portAwake q then .ok
  else
    match ds.find? fun i => decide (s.domState (280 + i) ≠ 6) with
    | none => if ds = [] then .ok else .failed
    | some i => s.reachDoms (wayToDie o i)

/-- The group on whose behalf a load or atomic is made. -/
def State.gidAt (s : State) (o : Owner) : Option GroupId :=
  match o with
  | .group t k => (s.group ⟨t, k⟩).bind fun gr => s.gidOf ⟨t, k⟩ gr
  | _ => none

/-- Send a board memory request for a context; its answer comes back to the owner. A read or atomic through an I/O die that has FAILED is answered
poisoned (R416). -/
def State.boardAsk (s : State) (o : Owner) (gid : Option GroupId) (key ctx : Nat) (typ : BitVec 4) (addr args : Nat)
    (payload : List (BitVec 8)) : State :=
  if typ ≠ 2 ∧ o ≠ .noone ∧ s.boardReach o addr = .failed then
    { s with ridge := { s.ridge with answers := s.ridge.answers ++ [BoardAns.mk o ctx key [] true] } }
  else
  let (t, s1) := s.newTag
  let f : Frame := s1.mkFrame typ (s1.windowNode addr) t args payload
  let s2 := { s1 with ridge := { s1.ridge with reqs := s1.ridge.reqs ++ [BoardReq.mk t o key ctx f gid] } }
  (s2.send true f).2

/-- Ask for `n` bytes of one line of another module. -/
def State.boardRead (s : State) (o : Owner) (ctx addr n : Nat) : State :=
  s.boardAsk o (s.gidAt o) addr ctx 1 addr (addr % 2 ^ 43 + (n - 1) * 2 ^ 43) []

/-- Write bytes, by offset in the line, to a line of another module. -/
def State.boardWrite (s : State) (o : Owner) (gid : Option GroupId) (ctx line : Nat) (bytes : Tbl (BitVec 8)) : State :=
  let mask := bytes.foldl (fun m b => m ||| 2 ^ b.1) 0
  s.boardAsk o gid (128 * line) ctx 2 (128 * line) (128 * line % 2 ^ 43)
    (leBytes 16 mask ++ (List.range 128).map fun o => Tbl.getD bytes o 0)

/-- Ask for an atomic at an address of another module. -/
def State.boardAtom (s : State) (o : Owner) (key ctx addr op fmt : Nat) (b c : BitVec 64) : State :=
  s.boardAsk o (s.gidAt o) key ctx 3 addr (addr % 2 ^ 43 + op * 2 ^ 43 + fmt * 2 ^ 46) (leBytes 8 b.toNat ++ leBytes 8 c.toNat)

/-- An answer that an owner holds for a request of a key. -/
def State.boardAns (s : State) (o : Owner) (key : Nat) : Option BoardAns :=
  s.ridge.answers.find? fun a => a.owner = o ∧ a.key = key

/-- Whether an owner still waits for an answer. -/
def State.boardBusy (s : State) (o : Owner) : Bool := s.ridge.reqs.any fun r => r.owner = o

/-- Whether a store of a tile still waits for another module's answer. -/
def State.tileBoardBusy (s : State) (tile : Nat) : Bool := s.ridge.reqs.any fun r => match r.owner with | .store t _ => t = tile | _ => false

/-- Whether an owner has a request of a key without an answer. -/
def State.boardAsked (s : State) (o : Owner) (key : Nat) : Bool := s.ridge.reqs.any fun r => r.owner = o ∧ r.key = key

/-- Forget the answers an owner holds. -/
def State.boardDone (s : State) (o : Owner) : State :=
  { s with ridge := { s.ridge with answers := s.ridge.answers.filter fun a => a.owner ≠ o } }

end Sys2Proof.Machine
end

