-- ==== Sys2Proof/Machine/Cistern.lean ====
section
/-!
DEFINITION. Cisterns, directory, HBM lines and poison (09), page protection as a write meets it (13 R362 to R364), and
line tags (14 R387, R388). A device line is named by its number, DPA div 128.
-/
namespace Sys2Proof.Machine

/-! ## Where a line lives (R249 to R251) -/

/-- The region that holds a DPA: the first of the nine whose range contains it (R250). -/
def State.regionFrom (s : State) (dpa : Nat) : Nat → Nat → Option Nat
  | 0, _ => none
  | n + 1, g =>
    let b := s.fld (regCisRgnBase g) 0 40
    if b ≤ dpa ∧ dpa < b + s.fld (regCisRgnSize g) 0 40 then some g else State.regionFrom s dpa n (g + 1)

/-- The region that holds a DPA (R249). -/
def State.region (s : State) (dpa : Nat) : Option Nat := s.regionFrom dpa 9 0

/-- An entry of a region's map table (R250): region 0 reads the SPREAD map, region 1 + c segment c of the NEAR map. -/
def State.mapEntry (s : State) (g i : Nat) : BitVec 64 :=
  if g = 0 then s.reg (regCisSpreadMap i) else s.reg (regCisNearMap (512 * (g - 1) + i))

/-- The channel and the local line of a DPA (R250). -/
def State.home (s : State) (dpa : Nat) : Option (Nat × Nat) :=
  match s.region dpa with
  | none => none
  | some g =>
    let a := (dpa - s.fld (regCisRgnBase g) 0 40) / 128
    let n := 8 * s.fld (regCisRgnSize g) 40 10
    if n = 0 then none
    else
      let q := a / n
      let p := a % n
      let r := (bitsOf q 0 12 ^^^ bitsOf q 12 12 ^^^ bitsOf q 24 12) % n
      let e := s.mapEntry g ((p + r) % n)
      let l := (if g = 0 then s.fld regCisCfg 10 15 * 512 else 0) + 8 * q + field e 9 3
      some (field e 0 9, l)

/-- An empty cistern. -/
def Cistern.empty : Cistern := ⟨[], [], [], [], [], [], 0, 0, [], []⟩

/-- A cistern. -/
def State.cistern (s : State) (n : Nat) : Cistern := Tbl.getD s.mem.cis n Cistern.empty

/-- Set a cistern. -/
def State.setCistern (s : State) (n : Nat) (c : Cistern) : State :=
  { s with mem := { s.mem with cis := Tbl.set Cistern.empty s.mem.cis n c } }

/-- The channel of a line and the set and page of the channel it falls in (R248). -/
def State.lineHome (s : State) (line : Nat) : Option (Nat × Nat × Nat) :=
  (s.home (line * 128)).map fun h => (h.1, h.2 % 512, h.2 / 512)

/-- A cistern's line, if it holds it. -/
def Cistern.lineOf (c : Cistern) (line : Nat) : Option CLine := c.lines.find? fun l => l.line = line

/-- A line's tag: the cistern's copy carries it, or the HBM line (R387). -/
def State.lineTag (s : State) (line : Nat) : BitVec 8 :=
  match s.lineHome line with
  | some (n, _, _) =>
    match (s.cistern n).lineOf line with
    | some l => l.tag
    | none => Tbl.getD s.mem.tags line 0
  | none => 0

/-! ## Encryption in HBM (R387) -/

/-- Two blocks exchanged. -/
def exchange (p : BitVec 128 × BitVec 128) (x : BitVec 128) : BitVec 128 := if x = p.1 then p.2 else if x = p.2 then p.1 else x

/-- AES-256-XTS on a block of a data unit: by key, tweak and number of the block. -/
def xtsEnc (key : BitVec 512) (tweak j : Nat) (x : BitVec 128) : BitVec 128 := (Config.xts key tweak j).foldl (fun y p => exchange p y) x

/-- Its inverse. -/
def xtsDec (key : BitVec 512) (tweak j : Nat) (x : BitVec 128) : BitVec 128 := (Config.xts key tweak j).foldr (fun p y => exchange p y) x

/-- `n` blocks of a data unit from number `j`, through one of the two. -/
def xtsBytes (f : BitVec 512 → Nat → Nat → BitVec 128 → BitVec 128) (key : BitVec 512) (tweak : Nat) : Nat → Nat → List (BitVec 8) → List (BitVec 8)
  | 0, _, _ => []
  | n + 1, j, bs => leBytes 16 (f key tweak j (BitVec.ofNat 128 (leVal (bs.take 16)))).toNat ++ xtsBytes f key tweak n (j + 1) (bs.drop 16)

/-- The context key of a tag, which every channel controller holds (R386). -/
def State.tagKey (s : State) (k : BitVec 8) : BitVec 512 :=
  match Tbl.find s.trust.slots k.toNat with
  | some x => x.key
  | none => 0

/-- A line's 128 bytes in HBM as its controller reads them: a line with a tag is decrypted, with its number as the tweak (R387). -/
def State.hbmLine (s : State) (line : Nat) : List (BitVec 8) :=
  let raw := Memory.reads s.mem.hbm (128 * line) 128
  let k := Tbl.getD s.mem.tags line 0
  if k = 0 then raw else xtsBytes xtsDec (s.tagKey k) line 8 0 raw

/-- A byte of HBM as its controller reads it. -/
def State.hbmByte (s : State) (dpa : Nat) : BitVec 8 :=
  if Tbl.getD s.mem.tags (dpa / 128) 0 = 0 then Memory.read s.mem.hbm dpa else (s.hbmLine (dpa / 128)).getD (dpa % 128) 0

/-- HBM once bytes of a line are written with a tag: in clear with tag 0; otherwise the line is encrypted anew, its other bytes as they were. -/
def State.hbmWrite (s : State) (line : Nat) (bytes : Tbl (BitVec 8)) (tag : BitVec 8) : Memory :=
  if tag = 0 then bytes.foldl (fun m b => Memory.write m (128 * line + b.1) b.2) s.mem.hbm
  else
    let clear := (List.range 128).map fun o => (Tbl.find bytes o).getD (s.hbmByte (128 * line + o))
    Memory.writes s.mem.hbm (128 * line) (xtsBytes xtsEnc (s.tagKey tag) line 8 0 clear)

/-- The value of one device byte: the cistern's where it is valid, otherwise the HBM's (R253). -/
def State.devByte (s : State) (dpa : Nat) : BitVec 8 :=
  match s.lineHome (dpa / 128) with
  | some (n, _, _) =>
    match (s.cistern n).lineOf (dpa / 128) with
    | some l => (Tbl.find l.bytes (dpa % 128)).getD (s.hbmByte dpa)
    | none => s.hbmByte dpa
  | none => 0

/-- Device bytes. -/
def State.devBytes (s : State) (dpa n : Nat) : List (BitVec 8) := (List.range n).map fun i => s.devByte (dpa + i)

/-- The little-endian value of device bytes. -/
def State.devVal (s : State) (dpa n : Nat) : Nat := leVal (s.devBytes dpa n)

/-! ## HBM lines, write-back and poison -/

/-- Whether any 64-bit word of an HBM line holds the poison code (R271). -/
def State.hbmPoison (s : State) (line : Nat) : Bool :=
  s.mem.poison.any fun e => decide (e.1 / 16 = line) && e.2

/-- Mark HBM words, `k` of them from word `w`, with or without the poison code. -/
def setPoison : Nat → Tbl Bool → Nat → Bool → Tbl Bool
  | 0, t, _, _ => t
  | k + 1, t, w, v => setPoison k (Tbl.set false t w v) (w + 1) v

/-- The words of a line all of whose bytes a write-back carries: they get new check bits, so a poison code there ends. -/
def fullWords (bytes : Tbl (BitVec 8)) : List Nat :=
  (List.range 16).filter fun w => (List.range 8).all fun i => (Tbl.find bytes (8 * w + i)).isSome

/-- Report that a line became poisoned (R271): CIS_POISON_LAST, a POISON record in the event ring, and one in the error log.
`cause` is the CODE of Table 11.7. -/
def State.reportPoison (s : State) (line chan cause det : Nat) (inj : Bool) : State :=
  let v : BitVec 64 := BitVec.ofNat 64 (line * 128 + chan * 2 ^ 40 + 2 ^ 63)
  ((s.setReg regCisPoisonLast v).evr 2 cause 0 (BitVec.ofNat 64 (line * 128)) (BitVec.ofNat 64 chan)).logRec
    2 det cause chan 0xFFFF (line * 128) inj

/-! ## HBM errors (R270, R277) -/

/-- A request takes its place at its channel's controller (R267): class, line, and whether it writes. -/
def State.queueChan (s : State) (n cls line : Nat) (write : Bool) : State :=
  let c := s.cistern n
  let l := ((s.home (line * 128)).map (·.2)).getD 0
  s.setCistern n { c with reqs := c.reqs ++ [ChanReq.mk cls (l % 2) line write] }

/-- A channel becomes suspect (R277): its state, the counter, a SUSPECT record (CODE 1 corrected-error rate, 2 uncorrectable
count), a log record and, unless injected, a mark. -/
def State.suspect (s : State) (n code : Nat) (inj : Bool) : State :=
  let s1 := ((s.setFld (regCisChan n) 0 2 1).det detChanSuspect).evr 3 code 0 0 (BitVec.ofNat 64 n)
  let s2 := s1.logRec 3 detChanSuspect code n 0xFFFF n inj
  if inj || decide (n ∈ s2.log.marks) then s2 else { s2 with log := { s2.log with marks := n :: s2.log.marks } }

/-- Judge whether an ENABLED channel becomes suspect (R277). -/
def State.judgeChan (s : State) (n code : Nat) (bad inj : Bool) : State :=
  if s.fld (regCisChan n) 0 2 ≠ 0 then s
  else
    let (b, s1) := s.judge detChanSuspect n bad
    if b then s1.suspect n code (inj || !bad) else s1

/-- A corrected HBM error: both counters, the corrected word's write-back in class 3, and the rate within any CE_WIN ms. -/
def State.hbmCorrected (s : State) (n line : Nat) (inj : Bool) : State :=
  let c := s.cistern n
  let ts := s.ms :: c.ceTimes.filter fun t => s.ms < t + s.fld regCisErrCfg 16 16
  let s1 := ((s.setCistern n { c with ceTimes := ts }).queueChan n 3 line true).bumpFld (regCisChan n) 8 24 1
  (s1.det detHbmCe).judgeChan n 1 (decide (s.fld regCisErrCfg 0 16 < ts.length)) inj

/-- An uncorrectable HBM error: both counters, the report of the poisoned line, and the count since load. -/
def State.hbmUncorrectable (s : State) (n line : Nat) (inj : Bool) : State :=
  let s1 := ((s.bumpFld (regCisChan n) 32 16 1).det detHbmUe).reportPoison line n 1 detHbmUe inj
  s1.judgeChan n 2 (decide (s.fld regCisErrCfg 32 8 ≤ s1.fld (regCisChan n) 32 16)) inj

/-- Whether a 64-bit word of an HBM line holds the poison code (R271). -/
def State.wordPoison (s : State) (line w : Nat) : Bool := Tbl.getD s.mem.poison (16 * line + w) false

/-- An HBM read of a line, with what its ECC finds or an injector puts on the read path (R270, R432, R433): whether it is
uncorrectable. A word that reads as poison counts nothing more (R271). -/
def State.hbmJudge (s : State) (n line : Nat) (ecc : Ecc) : Bool × State :=
  let ce := match ecc with | .corrected w => !s.wordPoison line w | _ => false
  let ue := match ecc with | .uncorrectable w => !s.wordPoison line w | _ => false
  let (b1, b2, s1) := s.judge2 detHbmCe detHbmUe n ce ue
  if b2 then (true, s1.hbmUncorrectable n line (!ue))
  else (false, if b1 then s1.hbmCorrected n line (!ce) else s1)

/-- The words of a line of which a write-back carries some bytes and not all: they are merged (R255). -/
def partWords (bytes : Tbl (BitVec 8)) : List Nat :=
  (List.range 16).filter fun w =>
    ((List.range 8).any fun i => (Tbl.find bytes (8 * w + i)).isSome) && !((List.range 8).all fun i => (Tbl.find bytes (8 * w + i)).isSome)

/-- The word an error lies in: the one named, where it is one of those read, otherwise the first of them. -/
def wordIn (e : Ecc) (ws : List Nat) : Nat :=
  match e with
  | .uncorrectable w | .corrected w => if w ∈ ws then w else ws.headD 0
  | .ok => ws.headD 0

/-- An error of a read of some words of a line. -/
def amongWords (e : Ecc) (ws : List Nat) : Ecc :=
  match e with
  | .ok => .ok
  | .corrected _ => .corrected (wordIn e ws)
  | .uncorrectable _ => .uncorrectable (wordIn e ws)

/-- A write-back takes its place at the controller in class 3, after the merge read that partly written words need (R255, R267). -/
def State.queueBack (s : State) (l : CLine) : State :=
  match s.lineHome l.line with
  | none => s
  | some (n, _, _) =>
    let s1 := if l.poison ∨ partWords l.bytes = [] then s else s.queueChan n 3 l.line false
    s1.queueChan n 3 l.line true

/-- What the cistern's data SRAM does to the line that a write-back reads from it (R270): an uncorrectable word poisons the line. -/
def State.backRead (s : State) (l : CLine) : CLine × State :=
  match s.lineHome l.line with
  | none => (l, s)
  | some (n, _, _) =>
    let (ue, s1) := s.sramRead .data (0x1000 + n)
    match ue with
    | some inj => ({ l with poison := true }, s1.reportPoison l.line n 2 detSramUe inj)
    | none => (l, s1)

/-- Write a line's valid bytes to HBM by ECC word (R255): full words get new check bits, partly written ones are merged, and one
whose read is uncorrectable is written with the poison code. A poisoned line writes every word with the poison code (R271). A line with a tag
is encrypted (R387). -/
def State.writeBackEcc (s : State) (l : CLine) (ecc : Ecc) : State :=
  let (l, s) := s.backRead l
  let hbm := s.hbmWrite l.line l.bytes l.tag
  let ws := partWords l.bytes
  let ecc := amongWords ecc ws
  let s := s.queueBack l
  let (bad, s1) :=
    if l.poison ∨ ws = [] then (false, s)
    else
      match s.lineHome l.line with
      | some (n, _, _) => s.hbmJudge n l.line ecc
      | none => (false, s)
  let poison :=
    if l.poison then setPoison 16 s.mem.poison (16 * l.line) true
    else
      let p := (fullWords l.bytes).foldl (fun t w => Tbl.set false t (16 * l.line + w) false) s.mem.poison
      if bad then Tbl.set false p (16 * l.line + wordIn ecc ws) true else p
  { s1 with mem := { s1.mem with hbm := hbm, poison := poison, tags := Tbl.set 0 s1.mem.tags l.line l.tag } }

/-- A write-back that finds no error of its own. -/
def State.writeBack (s : State) (l : CLine) : State := s.writeBackEcc l .ok

/-! ## Replacement (R256) -/

/-- Remove a line from a list of lines. -/
def dropLine (ls : List CLine) (line : Nat) : List CLine := ls.filter fun l => l.line ≠ line

/-- The eviction-first normal line of a set: the last in recency order that is not persistent. -/
def victimOf (ls : List CLine) (set : Nat) : Option CLine :=
  (ls.reverse.find? fun l => l.set = set ∧ l.persist = false)

/-- Choose a victim of a set, giving lines with the keep bit a second chance at most `k` times (R256), and remove it. -/
def pickVictim : Nat → List CLine → Nat → List CLine × Option CLine
  | 0, ls, set =>
    match victimOf ls set with
    | some v => (dropLine ls v.line, some v)
    | none => (ls, none)
  | k + 1, ls, set =>
    match victimOf ls set with
    | none => (ls, none)
    | some v =>
      if v.keep then pickVictim k ({ v with keep := false } :: dropLine ls v.line) set
      else (dropLine ls v.line, some v)

/-- Whether every word of an HBM line holds the poison code. -/
def State.allPoison (s : State) (line : Nat) : Bool := (List.range 16).all fun w => s.wordPoison line w

/-- Write a victim back when it is dirty, or poisoned where HBM does not show it yet: poison is kept (R256, R258, R271; that a clean poisoned line
is written back is DEDUCED, log 43). -/
def State.retire (s : State) : Option CLine → State
  | some v => if v.dirty ∨ (v.poison ∧ s.allPoison v.line = false) then s.writeBack v else s
  | none => s

/-- Free a way of a set of cistern `n` when all sixteen are taken; a dirty victim is written back first (R256). -/
def State.freeWay (s : State) (n set : Nat) : State :=
  let c := s.cistern n
  if (c.lines.filter fun l => l.set = set).length < 16 then s
  else
    let (ls, v) := pickVictim 16 c.lines set
    let s1 := s.retire v
    s1.setCistern n { s1.cistern n with lines := ls }

/-! ## Persistence windows (R260 to R262) -/

/-- Whether a request may use the window it names for a line (R260). -/
def State.winOk (s : State) (w line : Nat) (asid : Option Nat) : Bool :=
  decide (s.fld (regCisWinCtrl w) 0 1 = 1) &&
  decide (s.fld (regCisWinBase w) 16 24 * 65536 ≤ line * 128) && decide (line * 128 < s.fld (regCisWinLimit w) 16 24 * 65536) &&
  decide (asid = some (s.fld (regCisWinCtrl w) 16 16))

/-- The LEVEL of a window. -/
def State.winLevel (s : State) (w : Nat) : Nat := s.fld (regCisWinCtrl w) 1 2

/-- The least recently used persistent line of a set whose window has the lowest level, if that is below `lvl` (R262). -/
def State.lowestLevel (s : State) (ls : List CLine) (set lvl : Nat) : Option CLine :=
  let ps := ls.filter fun l => decide (l.set = set) && l.persist
  let lo := ps.foldl (fun m l => min m (s.winLevel l.win)) lvl
  if lo < lvl then ps.reverse.find? fun l => s.winLevel l.win = lo else none

/-- The address-space identifier of a context. -/
def State.asidOf (s : State) (ctx : Option Nat) : Option Nat :=
  match ctx with
  | none => none
  | some c => (Tbl.find s.hif.ctxs c).map fun r => r.words.asid.toNat

/-- Make room for a new persistent line of window `w` in a set of cistern `n`, by the quota test and then the ceiling test,
and say whether the line may be persistent (R261, R262). -/
def State.winRoom (s : State) (n set w : Nat) : Bool × State :=
  let c := s.cistern n
  let mine := c.lines.filter fun l => decide (l.set = set) && l.persist && decide (l.win = w)
  let quota := s.fld (regCisWinCtrl w) 3 4
  let (more, s) := s.judge detPinOverQuota n (decide (quota ≤ mine.length))
  let s1 :=
    if more = false then s
    else
      match mine.getLast? with
      | some v =>
        let s0 := s.retire (some v)
        (s0.setCistern n { s0.cistern n with lines := dropLine c.lines v.line }).det detPinOverQuota
      | none => s.det detPinOverQuota
  let c1 := s1.cistern n
  let held := (c1.lines.filter fun l => decide (l.set = set) && l.persist).length
  let (ceil, s1) := s1.judge detPinCeiling n (decide (s1.fld regCisCfg 25 4 ≤ held) && (s1.lowestLevel c1.lines set (s1.winLevel w)).isNone)
  if ceil then (false, s1.det detPinCeiling)
  else if held < s1.fld regCisCfg 25 4 then (true, s1)
  else
    match s1.lowestLevel c1.lines set (s1.winLevel w) with
    | some v =>
      (true, s1.setCistern n { c1 with lines := { v with persist := false, win := 0 } :: dropLine c1.lines v.line })
    | none => (false, s1)

/-- Test the window a request names (R260): a request that may not use it goes on without one, and is counted, whether it hits or
misses. -/
def State.winTest (s : State) (q : MemReq) (n line : Nat) : MemReq × State :=
  match q.win with
  | none => (q, s)
  | some w =>
    let (bad, s1) := s.check detWinMismatch n (!s.winOk w line (s.asidOf q.ctx))
    (if bad then { q with win := none } else q, s1)

/-- Decide whether a line that a request allocates becomes persistent, its window tested before (R260 to R262). -/
def State.winDecide (s : State) (q : MemReq) (n set : Nat) : Bool × State :=
  match q.win with
  | none => (false, s)
  | some w => s.winRoom n set w

/-- Put a new line into a set: at the eviction-first end for hints 01 and 11, most recently used otherwise, with the keep
bit for hint 10 (Table 9.3). A persistent line takes nothing from the hint (R260). -/
def insertLine (ls : List CLine) (hint : Nat) (l : CLine) : List CLine :=
  if l.persist then l :: ls
  else if hint = 1 ∨ hint = 3 then ls ++ [l]
  else { l with keep := l.keep || decide (hint = 2) } :: ls

/-- Allocate a line for a request: a window's own evictions come first (R261), then the set's victim (R256). -/
def State.allocate (s : State) (q : MemReq) (n set line : Nat) (bytes : Tbl (BitVec 8)) (dirty poison : Bool) (tag : BitVec 8) : State :=
  let (p, s1) := s.winDecide q n set
  let s2 := s1.freeWay n set
  let c := s2.cistern n
  let l : CLine := ⟨line, set, bytes, dirty, poison, false, p, if p then q.win.getD 0 else 0, tag⟩
  s2.setCistern n { c with lines := insertLine c.lines q.hint l }

/-! ## The directory (R264 to R266) -/

/-- Remove a line from the L1 of the tiles named. -/
def State.l1Drop (s : State) (tiles : List Nat) (line : Nat) : State :=
  tiles.foldl (fun (t : State) k =>
    let tl := t.tile k
    t.setTile k { tl with l1 := tl.l1.filter fun l => l.line ≠ line }) s

/-- The tiles a directory entry reaches: its tiles, or all sixteen of each of its spurs (R264). -/
def DirEntry.reach (d : DirEntry) : List Nat :=
  if d.spur then d.who.flatMap fun p => (List.range 16).map (tileOfSpur p) else d.who

/-- A flit that unit `u` sends fails parity (R270, R432): counted and logged; the answer tells whether an injector made it fail. -/
def State.parity (s : State) (u : Nat) : Option Bool × State :=
  let (n, s1) := s.upset .flit u true
  let (bad, s2) := s1.check detParity u n
  if bad then (some (!n), s2.logRec 2 detParity 3 u 0xFFFF 0 (!n)) else (none, s2)

/-- A directory entry is uncorrectable (Table 9.5): the set's entry of the line is dropped, and every tile invalidates its L1 lines of
that cistern and directory set. -/
def State.dirLost (s : State) (n set line : Nat) : State :=
  let c := s.cistern n
  let s1 := s.setCistern n { c with dir := c.dir.filter fun e => e.line ≠ line }
  let here := fun (l : L1Line) => (s.lineHome l.line).any fun h => decide (h.1 = n) && decide (h.2.1 = set)
  { s1 with tiles := (s1.tiles.map fun (t : Nat × Tile) => (t.1, { t.2 with l1 := t.2.l1.filter fun l => !here l })).filter fun t =>
    t.2 ≠ Tile.empty }

/-- The directory's SRAM is read for a line (R270). -/
def State.dirRead (s : State) (n line : Nat) : State :=
  let (ue, s1) := s.sramRead .directory (0x1000 + n)
  if ue.isNone then s1
  else
    match s1.lineHome line with
    | some (_, set, _) => s1.dirLost n set line
    | none => s1

/-- Invalidate the L1 copies of a line on a write or a drop (R265): every tracked tile except, in tile mode, the writing
one, which alone the entry then names; the entry is freed where the writing tile did not hold the line. Each invalidation is a flit of the
cistern. -/
def State.invalidate (s : State) (n line : Nat) (writer : Option Nat) : State :=
  let s := s.dirRead n line
  let c := s.cistern n
  match c.dir.find? fun d => d.line = line with
  | none => s
  | some d =>
    let keep := match writer with
      | some t => if d.spur = false ∧ t ∈ d.who then some t else none
      | none => none
    let to_ := d.reach.filter fun t => keep ≠ some t
    let s1 := (to_.foldl (fun (t : State) _ => (t.parity (0x1000 + n)).2) s).l1Drop to_ line
    let rest := c.dir.filter fun e => e.line ≠ line
    let dir := match keep with
      | some t => c.dir.map fun e => if e.line = line then { e with who := [t] } else e
      | none => rest
    let c1 := s1.cistern n
    s1.setCistern n { c1 with dir := dir }

/-- The distinct spurs of tiles. -/
def spursOf (ts : List Nat) : List Nat := (ts.map spurOfTile).eraseDups

/-- Record a sharer in an entry, or restart it with the new tile alone after its copies are invalidated (R264); the Boolean
says that the old copies go. -/
def DirEntry.add (d : DirEntry) (t : Nat) : DirEntry × Bool :=
  if d.spur then
    if spurOfTile t ∈ d.who then (d, false)
    else if d.who.length < 4 then ({ d with who := d.who ++ [spurOfTile t] }, false)
    else ({ d with spur := false, who := [t] }, true)
  else if t ∈ d.who then (d, false)
  else if d.who.length < 4 then ({ d with who := d.who ++ [t] }, false)
  else
    let sp := spursOf (d.who ++ [t])
    if sp.length ≤ 4 then ({ d with spur := true, who := sp }, false) else ({ d with spur := false, who := [t] }, true)

/-- An L1 fill records its tile (R264), taking the entry least recently filled where the set is full (R266). -/
def State.dirFill (s : State) (n set line t : Nat) : State :=
  let s := s.dirRead n line
  let c := s.cistern n
  match c.dir.find? fun d => d.line = line with
  | some d =>
    let (d1, gone) := d.add t
    let s1 := if gone then s.l1Drop d.reach line else s
    let c1 := s1.cistern n
    s1.setCistern n { c1 with dir := d1 :: c1.dir.filter fun e => e.line ≠ line }
  | none =>
    let mine := c.dir.filter fun d => d.set = set
    let s1 := if mine.length < 16 then s else
      match mine.getLast? with
      | some v =>
        let s0 := s.l1Drop v.reach v.line
        let c0 := s0.cistern n
        s0.setCistern n { c0 with dir := c0.dir.filter fun e => e.line ≠ v.line }
      | none => s
    let c1 := s1.cistern n
    s1.setCistern n { c1 with dir := ⟨line, set, false, [t]⟩ :: c1.dir }

/-! ## Page protection as a write meets it (R362 to R366) -/

/-- The page-state entry of a line: its STATE (0 NONE, 1 PROTECTED, 2 STAGED, 3 COPIED). -/
def State.pageState (s : State) (line : Nat) : Nat :=
  match s.lineHome line with
  | some (n, _, p) => (Tbl.getD (s.cistern n).pages p ⟨0, 0⟩).state
  | none => 0

/-- Whether a turn in a line's order is a requester's. -/
def HeldReq.isTurn (h : HeldReq) (line : Nat) (o : Owner) (ctx : Option Nat) : Bool :=
  decide (h.line = line) && decide (h.who = o) && decide (h.ctx = ctx)

/-- Whether a request that stalls stands before a requester's at a line (R254). -/
def State.heldBefore (s : State) (o : Owner) (ctx : Option Nat) (line : Nat) : Bool :=
  match s.lineHome line with
  | some (n, _, _) => ((s.cistern n).held.takeWhile fun h => !h.isTurn line o ctx).any fun h => h.line = line
  | none => false

/-- Whether a write to a line waits at the cistern: its page is PROTECTED (R364). -/
def State.writeWaits (s : State) (line : Nat) : Bool := decide (s.pageState line = 1)

/-- A request with no marks: class 1, hint 00, no window. -/
def plainReq (ctx : Option Nat) : MemReq := ⟨ctx, none, 0, none, false, 1⟩

/-- A read of an engine: class 2 (Table 9.4). -/
def engReq (ctx : Nat) : MemReq := ⟨some ctx, none, 0, none, false, 2⟩

/-! ## Waits held at a cistern (R97, R100) -/

/-- Whether a word ends a wait: an event at or above its target or poisoned (R100), or a word that differs from B (R97). -/
def Watch.fires (w : Watch) (v : BitVec 64) : Bool :=
  if w.event then decide (w.cmp.toNat % 2 ^ 63 ≤ v.toNat % 2 ^ 63) || v.getLsbD 63 else v ≠ w.cmp

/-- The width in bytes of the watched word. -/
def Watch.size (w : Watch) : Nat := if w.wide then 8 else 4

/-- Judge the held waits of a line against the words as they now stand: the first change that ends a wait answers it. A wait whose
word lies in a poisoned line consumes the poison (R272). -/
def State.judgeWaits (s : State) (n line : Nat) : State :=
  let c := s.cistern n
  let bad := match c.lineOf line with | some l => l.poison | none => false
  s.setCistern n { c with waits := c.waits.map fun h =>
    if h.answer = none ∧ h.w.addr / 128 = line then
      let v : BitVec 64 := BitVec.ofNat 64 (s.devVal h.w.addr h.w.size)
      if bad then { h with answer := some v, poison := true }
      else if (Watch.fires h.w v) = true then { h with answer := some v } else h
    else h }

/-! ## Requests -/

/-- The tag of a request: the key slot of its context, 0 for every other (R387). -/
def State.reqTag (s : State) (ctx : Option Nat) : BitVec 8 :=
  match ctx with
  | none => 0
  | some c =>
    match Tbl.find s.hif.ctxs c with
    | some r => BitVec.ofNat 8 (r.keySlot.getD 0)
    | none => 0

/-- Whether a request of tag `k` is refused at a line of tag `t` (R388). -/
def tagDenied (k t : BitVec 8) : Bool := k ≠ t && !(t = 0 && k ≠ 0)

/-- Whether the crests on the way to a line's cistern, and its HBM stack where the request needs HBM, are at RUN (R408, R414), and no request that
stalls is before the requester's (R254). -/
def State.reachLine (s : State) (o : Owner) (ctx : Option Nat) (line : Nat) (needHbm : Bool) : Reach :=
  match s.lineHome line with
  | none => .ok
  | some (n, _, _) =>
    match s.reachDoms (wayTo o (n / 64) ++ if needHbm then [domOfStack n] else []) with
    | .ok => if s.heldBefore o ctx line then .busy else .ok
    | r => r

/-- Whether the cistern serves these bytes of a line without HBM (R253). -/
def State.hits (s : State) (line : Nat) (offs : List Nat) : Bool :=
  match s.lineHome line with
  | none => true
  | some (n, _, _) =>
    match (s.cistern n).lineOf line with
    | some l => offs.all fun o => (Tbl.find l.bytes o).isSome
    | none => false

/-- The HBM bytes of a line under those a cistern holds. -/
def State.fillBytes (s : State) (line : Nat) (have_ : Tbl (BitVec 8)) : Tbl (BitVec 8) :=
  (List.range 128).map fun o => (o, (Tbl.find have_ o).getD (s.hbmByte (128 * line + o)))

/-- Move a hit line as its hint says (Table 9.3); a persistent line is used whatever the hint, and takes nothing else from it (R260). -/
def touchLine (ls : List CLine) (hint : Nat) (l : CLine) : List CLine :=
  if l.persist then l :: dropLine ls l.line
  else
    match hint with
    | 0 => l :: dropLine ls l.line
    | 2 => { l with keep := true } :: dropLine ls l.line
    | _ => ls.map fun x => if x.line = l.line then l else x

/-- Drop a line after a read with hint 11 (R257): a dirty line enters the record of R259; L1 copies go; a line of a protected
page that is not yet copied stays, at the eviction-first position. -/
def State.dropAfter (s : State) (n line : Nat) : State :=
  let c := s.cistern n
  match c.lineOf line with
  | none => s
  | some l =>
    if s.pageState line = 1 then s.setCistern n { c with lines := dropLine c.lines line ++ [l] }
    else
      let dead := if l.dirty then (line :: c.dead.filter (· ≠ line)).take 1024 else c.dead
      (s.setCistern n { c with lines := dropLine c.lines line, dead := dead }).invalidate n line none

/-- What a request finds: whether it consumed poison. The state is after the request. -/
structure Served where
  st : State
  poison : Bool

/-- Fetch a line from HBM into its cistern (R253): bytes it holds keep their values and the rest are filled. The line is poisoned
where it holds the poison code or the read is uncorrectable. -/
def State.fetchLine (s : State) (q : MemReq) (n set line : Nat) (ecc : Ecc) : State :=
  let (ue, s1) := s.hbmJudge n line ecc
  let c := s1.cistern n
  match c.lineOf line with
  | some l =>
    let l1 := { l with bytes := s1.fillBytes line l.bytes, poison := l.poison || s1.hbmPoison line || ue }
    s1.setCistern n { c with lines := touchLine c.lines q.hint l1 }
  | none =>
    let s2 := if line ∈ c.dead ∧ q.quiet = false then
      (s1.setCistern n { c with dead := c.dead.filter (· ≠ line) }).det detDeadReread else s1
    s2.allocate q n set line (s2.fillBytes line []) false (s2.hbmPoison line || ue) (Tbl.getD s2.mem.tags line 0)

/-- A held line becomes poisoned, and that is reported (R271). -/
def State.poisonHeld (s : State) (n line cause det : Nat) (inj : Bool) : State :=
  let c := s.cistern n
  (s.setCistern n { c with lines := c.lines.map fun (x : CLine) => if x.line = line then { x with poison := true } else x }).reportPoison
    line n cause det inj

/-- What the cistern's data SRAM does to a read of a held line (R270): an uncorrectable word poisons the line. -/
def State.sramJudge (s : State) (n line : Nat) : State :=
  let (ue, s1) := s.sramRead .data (0x1000 + n)
  match ue with
  | some inj => s1.poisonHeld n line 2 detSramUe inj
  | none => s1

/-- The tags of cistern `n` are read for a request (R270, Table 9.5): where both copies are uncorrectable the request is answered poisoned, and the
loss of every context is due. An injected uncorrectable word lies in the tags or in the data that the request reads after them, a free choice
(log 45). -/
def State.tagJudge (s : State) (n : Nat) : Bool × State :=
  let u := 0x1000 + n
  let hit := decide (⟨.tags, u, true⟩ ∈ s.upsets) || decide (⟨.tags, u, false⟩ ∈ s.upsets)
  if hit = false ∧ (s.firing detSramUe u).isNone then (false, s)
  else
    let (tags, s1) := if hit then (true, s) else s.choose
    if tags = false then (false, s1)
    else
      let (ue, s2) := s1.sramRead .tags u
      match ue with
      | some inj => (true, { s2 with tagLoss := n :: s2.tagLoss }.logRec 12 detSramUe 2 u 0xFFFF 0 inj)
      | none => (false, s2)

/-- The page-state entry of a line is read for a write (R270, R362): an error of it that can be corrected counts; of one that cannot, CKP_FAIL tells
(R367). -/
def State.pageRead (s : State) (n : Nat) : State := if s.upsets = [] then s else (s.sramRead .pageState (0x1000 + n)).2

/-- The cistern of a line sends its answer: whether the flit arrives poisoned (R270, R272). -/
def State.reply (s : State) (line : Nat) : Bool × State :=
  match s.lineHome line with
  | some (n, _, _) =>
    let (bad, s1) := s.parity (0x1000 + n)
    (bad.isSome, s1)
  | none => (false, s)

/-- A write flit that arrives poisoned poisons its target line (R270, R272), and that is reported. -/
def State.poisonFlit (s : State) (line code det : Nat) (inj : Bool) : State :=
  match s.lineHome line with
  | none => s
  | some (n, set, _) =>
    let s1 := match (s.cistern n).lineOf line with
      | some _ => s
      | none => s.allocate (plainReq none) n set line [] true true (Tbl.getD s.mem.tags line 0)
    s1.poisonHeld n line code det inj

/-- Whether the cistern of a line denies an access with tag `k`: its tags are lost (R270), or the line carries another tag (R388). -/
def State.denies (s : State) (k : BitVec 8) (n line : Nat) : Bool × State :=
  let (lost, s) := s.tagJudge n
  if lost then (true, s) else s.check detSecTagDeny n (tagDenied k (s.lineTag line))

/-- A cistern serves a read of bytes `offs` of a line (R253 to R260, R272, R388). The data are the device bytes as they stood
before it. A far prefetch of hint 11 leaves the line for the near fetch that reads it (R190). -/
def State.cisRead (s : State) (q : MemReq) (line : Nat) (offs : List Nat) : Served :=
  match s.lineHome line with
  | none => ⟨s, false⟩
  | some (n, set, _) =>
    let (denied, s) := s.denies (s.reqTag q.ctx) n line
    if denied then ⟨s, true⟩
    else
      let (q, s) := s.winTest q n line
      let s1 :=
        if s.hits line offs then
          let s0 := s.sramJudge n line
          let c := s0.cistern n
          match c.lineOf line with
          | some l => s0.setCistern n { c with lines := touchLine c.lines q.hint l }
          | none => s0
        else (s.queueChan n q.cls line false).fetchLine q n set line .ok
      let bad := match (s1.cistern n).lineOf line with
        | some l => l.poison
        | none => false
      ⟨if q.hint = 3 ∧ q.quiet = false then s1.dropAfter n line else s1, bad && !q.quiet⟩

/-- A cistern performs a write of bytes to a line (R253, R258, R260, R265, R271, R387, R388). The caller has checked that the page
does not make it wait. A partial write leaves a poisoned line poisoned, also where only HBM holds the poison. -/
def State.cisWrite (s : State) (q : MemReq) (line : Nat) (bytes : Tbl (BitVec 8)) : Served :=
  match s.lineHome line with
  | none => ⟨s, false⟩
  | some (n, set, _) =>
    let k := s.reqTag q.ctx
    let (denied, s) := s.denies k n line
    if denied then ⟨s, true⟩
    else
      let (q, s) := (s.pageRead n).winTest q n line
      let s := if ((s.cistern n).lineOf line).isSome && !(partWords bytes).isEmpty then s.sramJudge n line else s
      let c := s.cistern n
      let full := decide (bytes.length = 128)
      let s1 := match c.lineOf line with
        | some l =>
          let l1 := { l with bytes := Tbl.putAll l.bytes bytes, dirty := true,
                             poison := l.poison && !full, tag := if k = 0 then l.tag else k }
          s.setCistern n { c with lines := touchLine c.lines q.hint l1, dead := c.dead.filter (· ≠ line) }
        | none =>
          (s.setCistern n { c with dead := c.dead.filter (· ≠ line) }).allocate q n set line bytes true (s.hbmPoison line && !full)
            (if k = 0 then Tbl.getD s.mem.tags line 0 else k)
      let s2 := if q.hint = 3 then
        match (s1.cistern n).lineOf line with
        | some l =>
          let s0 := s1.writeBack l
          let c0 := s0.cistern n
          s0.setCistern n { c0 with lines := c0.lines.map fun (x : CLine) => if x.line = line then { x with dirty := false } else x }
        | none => s1
        else s1
      ⟨(s2.invalidate n line q.tile).judgeWaits n line, false⟩

/-! ## The order of a line's requests (R254) -/

/-- A request that stalls takes its turn at each line it touches, where it has none yet (R254). -/
def State.takeTurn (s : State) (o : Owner) (ctx : Option Nat) (lines : List Nat) : State :=
  if o = .noone then s
  else
    lines.foldl (fun (t : State) l =>
      match t.lineHome l with
      | none => t
      | some (n, _, _) =>
        let c := t.cistern n
        if c.held.any (·.isTurn l o ctx) then t else t.setCistern n { c with held := c.held ++ [⟨l, o, ctx⟩] }) s

/-- A request that is performed gives up its turns (R254). -/
def State.leaveTurn (s : State) (o : Owner) (ctx : Option Nat) (lines : List Nat) : State :=
  lines.foldl (fun (t : State) l =>
    match t.lineHome l with
    | none => t
    | some (n, _, _) =>
      let c := t.cistern n
      if c.held.any (·.isTurn l o ctx) then t.setCistern n { c with held := c.held.filter fun h => !h.isTurn l o ctx } else t) s

/-- A state to which work goes back, with the turns that a wait has taken since (R254) and the domains it has begun to wake (R414). -/
def State.keepTurns (old new : State) : State :=
  new.mem.cis.foldl (fun (s : State) e =>
    if (s.cistern e.1).held = e.2.held then s else s.setCistern e.1 { s.cistern e.1 with held := e.2.held }) (old.keepWakes new)

/-- A cistern without the turns of a context's requests (R254, R332, R312). -/
def Cistern.dropTurns (c : Cistern) (ctx : Nat) : Cistern := { c with held := c.held.filter fun h => h.ctx ≠ some ctx }

/-- Bytes as a table from offset `o`. -/
def bytesAt : Nat → List (BitVec 8) → Tbl (BitVec 8)
  | _, [] => []
  | o, b :: bs => (o, b) :: bytesAt (o + 1) bs

/-- The offsets of `n` bytes from DPA `dpa` in its line. -/
def offsOf (dpa n : Nat) : List Nat := (List.range n).map (dpa % 128 + ·)

/-- Write device bytes line by line, `k` lines at most. -/
def State.devWrite : Nat → State → MemReq → Nat → List (BitVec 8) → Served
  | 0, s, _, _, _ => ⟨s, false⟩
  | k + 1, s, q, dpa, bs =>
    match bs with
    | [] => ⟨s, false⟩
    | _ =>
      let room := 128 - dpa % 128
      let r := s.cisWrite q (dpa / 128) (bytesAt (dpa % 128) (bs.take room))
      let r2 := State.devWrite k r.st q (dpa + room) (bs.drop room)
      ⟨r2.st, r.poison || r2.poison⟩

/-- The lines that `n` bytes from `dpa` touch. -/
def linesOf (dpa n : Nat) : List Nat :=
  if n = 0 then [] else (List.range ((dpa + n - 1) / 128 - dpa / 128 + 1)).map (dpa / 128 + ·)

/-- The offsets in line `line` of the `n` bytes from `dpa`. -/
def offsIn (line dpa n : Nat) : List Nat :=
  ((List.range 128).filter fun o => decide (dpa ≤ line * 128 + o) && decide (line * 128 + o < dpa + n))

/-- Read device bytes as a request: its effect on every line it touches (the data are `devBytes` of the state before). -/
def State.devRead (s : State) (q : MemReq) (dpa n : Nat) : Served :=
  (linesOf dpa n).foldl (fun (r : Served) l =>
    let r1 := r.st.cisRead q l (offsIn l dpa n)
    ⟨r1.st, r.poison || r1.poison⟩) ⟨s, false⟩

/-- Whether any of some lines makes a write wait. -/
def State.anyWaits (s : State) (lines : List Nat) : Bool := lines.any fun l => s.writeWaits l

/-- The device writes a whole line with a tag: its poison ends and its L1 copies go. -/
def State.ownLine (s : State) (tag : Nat) (line : Nat) (bs : Nat → BitVec 8) : State :=
  let hbm := s.hbmWrite line ((List.range 128).map fun o => (o, bs o)) (BitVec.ofNat 8 tag)
  let s1 := { s with mem := { s.mem with
    hbm := hbm, poison := setPoison 16 s.mem.poison (16 * line) false, tags := Tbl.set 0 s.mem.tags line (BitVec.ofNat 8 tag) } }
  match s1.lineHome line with
  | none => s1
  | some (n, _, _) =>
    let c := s1.cistern n
    ((s1.setCistern n { c with lines := dropLine c.lines line, dead := c.dead.filter (· ≠ line) }).invalidate n line none).judgeWaits n line

/-- The device writes a line zero with a tag (R389). -/
def State.zeroLine (s : State) (tag : Nat) (line : Nat) : State := s.ownLine tag line fun _ => 0

/-- The lines of extents (first 64 KiB page, page count). -/
def extentLines (es : List (Nat × Nat)) : List Nat :=
  es.flatMap fun e => (List.range (512 * e.2)).map (512 * e.1 + ·)

end Sys2Proof.Machine
end

