-- ==== Sys2Proof/Machine/Xlate.lean ====
section
/-!
DEFINITION. Address spaces: the radix walk of R315, the checks of R316, and the translation caches of R317.
-/
namespace Sys2Proof.Machine

/-- A partition of the image in effect. -/
def State.part (s : State) (p : Nat) : Option PartEnt := s.load.img.bind fun i => i.parts[p]?

/-- Bytes of the staging areas of partitions 0 to `n - 1` together (R285: 64 MiB units). -/
def stageBytes (ps : List PartEnt) : Nat := (ps.map fun p => p.stage * 0x4000000).sum

/-- The end of region 0. -/
def State.region0End (s : State) : Nat := s.fld (regCisRgnBase 0) 0 40 + s.fld (regCisRgnSize 0) 0 40

/-- Whether a range of DPAs touches a staging area: they lie at the top of region 0 (R285). -/
def State.inStaging (s : State) (dpa n : Nat) : Bool :=
  match s.load.img with
  | none => false
  | some i => decide (s.region0End - stageBytes i.parts < dpa + n) && decide (dpa < s.region0End) && decide (0 < stageBytes i.parts)

/-- The base of partition `p`'s staging area (R285). -/
def State.stageBase (s : State) (p : Nat) : Nat :=
  match s.load.img with
  | none => 0
  | some i => s.region0End - stageBytes (i.parts.take (p + 1))

/-- Whether a range of DPAs touches the table area: 36 MiB from HIF_TBL_BASE (R308). -/
def State.inTable (s : State) (dpa n : Nat) : Bool :=
  let b := s.fld regHifTblBase 16 24 * 65536
  decide (s.fld regHifStatus 1 1 = 1) && decide (b < dpa + n) && decide (dpa < b + 0x2400000)

/-- Whether a byte is the device's own, with contents that are undefined to software (R308): of the table area, a handle table or a save area. -/
def State.deviceOwn (s : State) (dpa : Nat) : Bool :=
  s.inTable dpa 1 || s.hif.ctxs.any fun (e : Nat × CtxRun) =>
    let w := e.2.words
    (decide (w.htBase ≤ dpa) && decide (dpa < w.htBase + 8 * 2 ^ w.htLog2)) || (decide (w.saveBase ≤ dpa) && decide (dpa < w.saveBase + w.saveSize))

/-- Bytes from a DPA as software reads them: those that are the device's own are free values (R308). -/
def State.shownBytes : List (BitVec 8) → Nat → State → List (BitVec 8) × State
  | [], _, s => ([], s)
  | b :: bs, dpa, s =>
    let (v, s1) := if s.deviceOwn dpa then (let (x, t) := s.free; (x.setWidth 8, t)) else (b, s)
    let (vs, s2) := State.shownBytes bs (dpa + 1) s1
    (v :: vs, s2)

/-- Device bytes as software sees them (R308). -/
def State.shown (s : State) (dpa n : Nat) : List (BitVec 8) × State :=
  if (List.range n).any fun i => s.deviceOwn (dpa + i) then State.shownBytes (s.devBytes dpa n) dpa s else (s.devBytes dpa n, s)

/-- A device word as software sees it (R308). -/
def State.shownVal (s : State) (dpa n : Nat) : Nat × State :=
  let (bs, t) := s.shown dpa n
  (leVal bs, t)

/-- Whether a partition may use a region (R252: REGIONS bit 0 is SPREAD, bit 1 + c is NEAR c). -/
def State.regionAllowed (s : State) (p g : Nat) : Bool :=
  match s.part p with
  | some e => e.regions.testBit g
  | none => false

/-- Whether `n` bytes from a DPA hold memory a partition may use: in one allowed region, outside the staging areas and the
table area (R249, R252, R285, R308, R316). -/
def State.dpaOk (s : State) (p dpa n : Nat) : Bool :=
  match s.region dpa with
  | none => false
  | some g =>
    s.regionAllowed p g && decide (dpa + n ≤ s.fld (regCisRgnBase g) 0 40 + s.fld (regCisRgnSize g) 0 40) &&
    !s.inStaging dpa n && !s.inTable dpa n

/-- What an access asks of its leaf. -/
inductive Access where
  | read
  | write
  | fetch
deriving DecidableEq, Repr, Inhabited

/-- The outcome of a walk: a leaf with the size of its page as a power of two, a fault (with whether the feature BOARD was
missing), or a poisoned table line. -/
inductive Walk where
  | leaf (e : BitVec 64) (log2 : Nat)
  | fault (board : Bool)
  | poison
deriving DecidableEq, Repr, Inhabited

/-- Whether a feature is accepted (R305). -/
def State.accepted (s : State) (bit : Nat) : Bool := (s.reg regFeatAcceptLo).getLsbD bit

/-- Whether a board address names a window of the board (R348, R349). -/
def State.windowOk (s : State) (a : Nat) : Bool :=
  let w := bitsOf a 40 3
  decide (a / 2 ^ 43 = 0) && decide (s.fld regRdgBoard (48 + w) 1 = 1) && decide (s.fld regRdgBoard (56 + w) 1 = 0)

/-- Whether a board address lies in the module's own window (R348). -/
def State.ownWindow (s : State) (a : Nat) : Bool := decide (bitsOf a 40 3 = s.fld regRdgBoard 32 3)

/-- Checks of R316 on a leaf for a page of 2^`log2` bytes, apart from W and X. -/
def State.leafOk (s : State) (p : Nat) (e : BitVec 64) (log2 : Nat) : Walk :=
  let tgt := field e 4 2
  let addr := field e 12 40 * 4096
  if field e 6 6 ≠ 0 ∨ field e 52 12 ≠ 0 then .fault false
  else if addr % 2 ^ log2 ≠ 0 then .fault false
  else if tgt = 3 then .fault false
  else if tgt = 1 ∧ s.accepted 1 = false then .fault true
  else if tgt = 0 ∧ s.dpaOk p addr (2 ^ log2) = false then .fault false
  else if tgt = 1 ∧ s.windowOk addr = false then .fault false
  else if tgt = 1 ∧ s.ownWindow addr ∧ s.dpaOk p (addr % 2 ^ 40) (2 ^ log2) = false then .fault false
  else .leaf e log2

/-- Whether a non-leaf entry's bits are as Table 11.11 allows at level `k`: only V, ADDR and, at L3, G64. -/
def tableEntryOk (e : BitVec 64) (k : Nat) : Bool :=
  decide (field e 2 4 = 0) && decide (field e 7 5 = 0) && decide (field e 52 12 = 0) && (decide (field e 6 1 = 0) || decide (k = 3))

/-- The walk from level `k` (R315, R316): `n` levels remain, `g64` says that this table maps 64 KiB pages. The list gives the
DPAs of the entries read. -/
def State.walkFrom (s : State) (p : Nat) (tag : BitVec 8) (va : Nat) : Nat → Nat → Nat → Bool → Walk × List Nat
  | 0, _, _, _ => (.fault false, [])
  | n + 1, k, base, g64 =>
    let shift := if g64 then 16 else 48 - 9 * k
    let idx := if g64 then bitsOf va 16 5 else bitsOf va shift 9
    let size := if g64 then 256 else 4096
    let a := base + 8 * idx
    if base % size ≠ 0 ∨ s.dpaOk p base size = false then (.fault false, [])
    else if tag ≠ 0 ∧ s.lineTag (a / 128) ≠ tag then (.fault false, [a])
    else
      let e := BitVec.ofNat 64 (s.devVal a 8)
      let bad := match s.lineHome (a / 128) with
        | some (c, _, _) =>
          match (s.cistern c).lineOf (a / 128) with
          | some l => l.poison || (!(s.hits (a / 128) (offsOf a 8)) && s.hbmPoison (a / 128))
          | none => s.hbmPoison (a / 128)
        | none => false
      if bad || tagDenied tag (s.lineTag (a / 128)) then (.poison, [a])
      else if field e 0 1 = 0 then (.fault false, [a])
      else if field e 1 1 = 1 then
        (if k < 2 then .fault false else s.leafOk p e shift, [a])
      else if k = 4 ∨ tableEntryOk e k = false then (.fault false, [a])
      else
        let r := State.walkFrom s p tag va n (k + 1) (field e 12 40 * 4096) (decide (k = 3 ∧ field e 6 1 = 1))
        (r.1, a :: r.2)

/-- Whether a confidential context's root page is installed at level 0 (R390); the tables of any other context need no installing. -/
def State.rootOk (s : State) (tag : BitVec 8) (base : Nat) : Bool :=
  decide (tag = 0) || s.trust.pages.any fun p => decide (p.page = base / 4096) && decide (p.slot = tag.toNat) && decide (p.level = 0)

/-- The walk of a context's address (R315). A confidential context reads its tables with its tag, from a root that is installed (R390). -/
def State.walk (s : State) (ctx : Nat) (va : Nat) : Walk × List Nat :=
  match Tbl.find s.hif.ctxs ctx with
  | none => (.fault false, [])
  | some c =>
    if va / 2 ^ 57 ≠ 0 ∨ s.rootOk (s.reqTag (some ctx)) c.words.ptBase = false then (.fault false, [])
    else s.walkFrom c.words.part (s.reqTag (some ctx)) va 5 0 c.words.ptBase false

/-- The outcome of a translation: the TGT and the physical address, a fault (with whether the feature BOARD was missing), or
poison consumed by the walk. -/
inductive Xl where
  | ok (tgt : Nat) (addr : Nat)
  | fault (board : Bool)
  | poison
deriving DecidableEq, Repr, Inhabited

/-- Apply a leaf to an access (R316: W, X and TGT of a fetch). -/
def leafFor (e : BitVec 64) (log2 va : Nat) (acc : Access) : Xl :=
  let tgt := field e 4 2
  if acc = .write ∧ field e 2 1 = 0 then .fault false
  else if acc = .fetch ∧ (field e 3 1 = 0 ∨ tgt ≠ 0) then .fault false
  else .ok tgt (field e 12 40 * 4096 + va % 2 ^ log2)

/-- The cached translation that covers an address. -/
def State.cached (s : State) (asid : BitVec 16) (va : Nat) : Option XlatEntry :=
  s.mem.xlat.find? fun e => decide (e.asid = asid) && decide (va / 2 ^ e.log2 = e.page)

/-- The walk's own reads pass through their cisterns in class 1 (R315), up to one found uncorrectable, which consumes poison (R272). A table line of
another tag is refused and counted there, and is a fault of the walk (R390). -/
def State.walkReads (s : State) (ctx : Nat) (as : List Nat) : Bool × State :=
  as.foldl (fun (b : Bool × State) a =>
    if b.1 then b
    else
      let k := b.2.reqTag (some ctx)
      let other := decide (k ≠ 0) && tagDenied k (b.2.lineTag (a / 128))
      let r := b.2.cisRead (plainReq (some ctx)) (a / 128) (offsOf a 8)
      (r.poison && !other, r.st)) (false, s)

/-- Translate an address of a context (R315 to R317): a cached entry serves it; where the tables now hold another entry,
the access uses the old one or the new one, a free choice (R317, log 13). -/
def State.xlate (s : State) (ctx va : Nat) (acc : Access) : Xl × State :=
  let w := s.walk ctx va
  let asid := BitVec.ofNat 16 ((s.asidOf (some ctx)).getD 0)
  let walked : State → Xl × State := fun s =>
    let (ue, s1) := s.walkReads ctx w.2
    if ue then (.poison, s1)
    else
    match w.1 with
    | .leaf e l =>
      let keep := s1.mem.xlat.filter fun x => !(decide (x.asid = asid) && decide (va / 2 ^ x.log2 = x.page))
      (leafFor e l va acc, { s1 with mem := { s1.mem with xlat := ⟨asid, l, va / 2 ^ l, e⟩ :: keep } })
    | .fault b => (.fault b, s1)
    | .poison => (.poison, s1)
  match s.cached asid va with
  | none => walked s
  | some x =>
    if w.1 = .leaf x.leaf x.log2 then (leafFor x.leaf x.log2 va acc, s)
    else
      let (c, s1) := s.choose
      if c then (leafFor x.leaf x.log2 va acc, s1)
      else walked s1

end Sys2Proof.Machine
end

