-- ==== Sys2Proof/Machine/Access.lean ====
section
/-!
DEFINITION. How a unit reaches memory through its context's addresses: translation line by line, device memory at its cistern,
host memory, and the other modules of the board (02 R50, 09 R272, 11 R315, 12 R348, R350).
-/
namespace Sys2Proof.Machine

/-! ## Status codes (Table 11.17) -/

/-- CONTEXT_LOST. -/
def stContextLost : Nat := 1
/-- FENCE_POISONED. -/
def stFencePoisoned : Nat := 2
/-- ALIGN_FAULT. -/
def stAlignFault : Nat := 3
/-- ALIAS_FAULT. -/
def stAliasFault : Nat := 4
/-- FEATURE_ABSENT. -/
def stFeatureAbsent : Nat := 5
/-- PAGE_FAULT. -/
def stPageFault : Nat := 6
/-- POISON_CONSUMED. -/
def stPoisonConsumed : Nat := 7
/-- NO_PROGRESS. -/
def stNoProgress : Nat := 8
/-- DESCRIPTOR_INVALID. -/
def stDescInvalid : Nat := 9
/-- OBJECT_FREED. -/
def stObjectFreed : Nat := 10
/-- SLOT_EXHAUSTED. -/
def stSlotExhausted : Nat := 11

/-- A cause of a loss that its detector has judged already, and whether an injector made it: the marks by which the loss counts each event once and
logs what is injected (R426, R434). -/
def judgedCause (st : Nat) (inj : Bool) : Nat := st + (if inj then 256 else 0) + 512

/-- A cause that no detector has judged yet, and whether an injector made it. -/
def causeOf (st : Nat) (inj : Bool) : Nat := st + if inj then 256 else 0

/-- The status code of a cause. -/
def causeStatus (c : Nat) : Nat := c % 256

/-- Whether an injector made a cause. -/
def causeInjected (c : Nat) : Bool := c.testBit 8

/-- Whether a cause has been judged. -/
def causeJudged (c : Nat) : Bool := c.testBit 9

/-- The outcome of an access: its result; a wait for something else first (the access is presented again, log 3); or a fault
that loses the context, with its code and the address to report. -/
inductive Go (α : Type) where
  | ok (a : α) (s : State)
  | stall (s : State)
  | lose (code va : Nat) (s : State)

/-- Continue after a result. -/
def Go.bind {α β : Type} : Go α → (α → State → Go β) → Go β
  | .ok a s, f => f a s
  | .stall s, _ => .stall s
  | .lose c v s, _ => .lose c v s

/-- The bytes of one line that an access reaches: TGT (0 device, 1 another module, 2 host), the address there, and whether it is reached
through the module's own window, at system scope (R348). -/
structure Span where
  va : Nat
  n : Nat
  tgt : Nat
  addr : Nat
  own : Bool
deriving DecidableEq, Repr, Inhabited

/-! ## Translation -/

/-- The pieces of `n` bytes from `va`, none across a line. -/
def chunks (va n : Nat) : List (Nat × Nat) :=
  (linesOf va n).map fun l => (max va (128 * l), min (va + n) (128 * l + 128) - max va (128 * l))

/-- Where a translated address is served: the module's own window is its device memory (R348). -/
def State.served (s : State) (tgt addr : Nat) : Nat × Nat :=
  if tgt = 1 ∧ s.ownWindow addr then (0, addr % 2 ^ 40) else (tgt, addr)

/-- Translate one piece of an access (R316: DET_FEATURE_ABSENT counts a TGT of 1 without BOARD). -/
def State.span (s : State) (ctx va n : Nat) (acc : Access) : Go Span :=
  match s.xlate ctx va acc with
  | (.ok tgt a, s1) =>
    let p := s1.served tgt a
    .ok ⟨va, n, p.1, p.2, decide (tgt ≠ p.1)⟩ s1
  | (.fault b, s1) => .lose stPageFault va (if b then s1.note detFeatureAbsent 0 else s1)
  | (.poison, s1) => .lose stPoisonConsumed va s1

/-- Translate pieces in order. -/
def State.spansOf (ctx : Nat) (acc : Access) : List (Nat × Nat) → State → Go (List Span)
  | [], s => .ok [] s
  | c :: cs, s => (s.span ctx c.1 c.2 acc).bind fun x s1 => (State.spansOf ctx acc cs s1).bind fun xs s2 => .ok (x :: xs) s2

/-- Translate `n` bytes from `va`. -/
def State.spans (s : State) (ctx va n : Nat) (acc : Access) : Go (List Span) := State.spansOf ctx acc (chunks va n) s

/-- Where an address of a context lies, as a read finds it without asking anything: TGT and the address there. -/
def State.place (s : State) (ctx va : Nat) : Option (Nat × Nat) :=
  match (s.walk ctx va).1 with
  | .leaf e l =>
    match leafFor e l va .read with
    | .ok tgt a => some (s.served tgt a)
    | _ => none
  | _ => none

/-! ## What stands before an access -/

/-- What stands between a request and host memory: the crests on its way and I/O die 0 (R33, R408, R414). -/
def State.hostReach (s : State) (o : Owner) : Reach := s.reachDoms (wayToDie o 0)

/-- What stands between a request and `n` device bytes: for a write, also a page under protection (R364). -/
def State.devReach (s : State) (o : Owner) (ctx : Option Nat) (dpa n : Nat) (needData write : Bool) : Reach :=
  let line := dpa / 128
  match s.reachLine o ctx line (needData && !s.hits line (offsOf dpa n)) with
  | .ok => if write && s.writeWaits line then .busy else .ok
  | r => r

/-- What stands between a request and its spans: a FAILED domain first, then anything to wait for. -/
def State.reachAll (s : State) (o : Owner) (ctx : Option Nat) (sp : List Span) (needData write : Bool) : Reach :=
  let rs := sp.map fun x =>
    match x.tgt with
    | 0 => s.devReach o ctx x.addr x.n needData write
    | 1 => .ok
    | _ => s.hostReach o
  reachOf rs

/-- What stands before the requests to other modules that spans still need: for a read, those not asked for yet. -/
def State.reachFar (s : State) (o : Owner) (sp : List Span) (write : Bool) : Reach :=
  let rs := (sp.filter fun x => decide (x.tgt = 1) && (write || !((s.boardAns o x.addr).isSome || s.boardAsked o x.addr))).map fun x =>
    s.boardReach o x.addr
  reachOf rs

/-- What stands before a context's write to spans, those of other modules among them. -/
def State.reachOut (s : State) (o : Owner) (ctx : Nat) (sp : List Span) (needData : Bool) : Reach :=
  match s.reachAll o (some ctx) sp needData true with
  | .ok => s.reachFar o sp true
  | r => r

/-- The device lines of spans. -/
def devLines (sp : List Span) : List Nat := ((sp.filter fun x => x.tgt = 0).map fun x => x.addr / 128).eraseDups

/-- Ask other modules for the spans that lie there and are not answered yet; whether every answer is here (R350). -/
def State.boardGather (s : State) (o : Owner) (ctx : Nat) (sp : List Span) : Bool × State :=
  let far := sp.filter fun x => x.tgt = 1
  let s1 := far.foldl (fun (t : State) x =>
    if (t.boardAns o x.addr).isSome || t.boardAsked o x.addr then t else t.boardRead o ctx x.addr x.n) s
  (far.all fun x => (s1.boardAns o x.addr).isSome, s1)

/-! ## Reads and writes -/

/-- The bytes of a span as they stand. -/
def State.spanBytes (s : State) (o : Owner) (x : Span) : List (BitVec 8) :=
  match x.tgt with
  | 0 => s.devBytes x.addr x.n
  | 1 => match s.boardAns o x.addr with
    | some a => (a.bytes ++ List.replicate x.n 0).take x.n
    | none => List.replicate x.n 0
  | _ => Memory.reads s.mem.host x.addr x.n

/-- The bytes of spans as software sees them: the device's own memory is undefined to it (R308). -/
def State.spansShown (o : Owner) : List Span → State → List (BitVec 8) × State
  | [], s => ([], s)
  | x :: xs, s =>
    let (bs, s1) := if x.tgt = 0 then s.shown x.addr x.n else (s.spanBytes o x, s)
    let (r, s2) := State.spansShown o xs s1
    (bs ++ r, s2)

/-- Whether an answer from another module carries poison. -/
def State.farPoison (s : State) (o : Owner) (sp : List Span) : Bool :=
  sp.any fun x => decide (x.tgt = 1) && (match s.boardAns o x.addr with | some a => a.poison | none => false)

/-- The tile at which an owner's accesses are judged (Table 16.1, kind T). -/
def Owner.tile : Owner → Option Nat
  | .group t _ => some t
  | .store t _ => some t
  | .pump t _ => some t
  | _ => none

/-- A translated access passes the page-fault injectors of its tile (R432). -/
def State.faultJudge (s : State) (o : Owner) : Bool × State :=
  match o.tile with
  | none => (false, s)
  | some t => s.judge detPageFault t false

/-- A read of a tile is judged by whether it consumed poison; an injector returns its data poisoned (R272, R432). The answer is the cause of a loss.
-/
def State.consumed (s : State) (o : Owner) (bad natural : Bool) : Option Nat × State :=
  match o.tile with
  | none => (if bad then some stPoisonConsumed else none, s)
  | some t =>
    let (b, s1) := s.judge detPoisonConsumed t bad
    (if b then some (judgedCause stPoisonConsumed (!natural)) else none, s1)

/-- As `consumed`, for a read whose request is a flit of the tile: where its header fails parity a poisoned completion answers it (R271). -/
def State.poisonJudge (s : State) (o : Owner) (bad : Bool) : Option Nat × State :=
  match o.tile with
  | none => (if bad then some stPoisonConsumed else none, s)
  | some t =>
    let (flit, s1) := s.parity t
    s1.consumed o (bad || flit.isSome) (bad || flit == some false)

/-- The write, atomic or event flits of an owner's access may fail parity at its tile (R270, R272): they arrive poisoned and poison their lines,
and the writer is lost with the cause that this answers. -/
def State.flitJudge (s : State) (o : Owner) (lines : List Nat) : Option Nat × State :=
  match o.tile with
  | none => (none, s)
  | some t =>
    let (bad, s1) := s.parity t
    match bad with
    | some inj =>
      let s2 := lines.foldl (fun (u : State) l => u.poisonFlit l 3 detParity inj) s1
      (some (judgedCause stPoisonConsumed inj), (s2.check detPoisonConsumed t true).2)
    | none => (none, s1)

/-- Read spans, keeping the answers of other modules with their owner: nothing is delivered where a part consumes poison (R272,
R275). A read of host memory that no completion answers is poisoned (Table 12.8, R395). -/
def State.readKeep (s : State) (o : Owner) (ctx : Nat) (q : MemReq) (sp : List Span) : Go (List (BitVec 8)) :=
  if s.hostCut && sp.any (fun x => decide (x.tgt = 2)) then .lose stPoisonConsumed (match sp with | x :: _ => x.va | [] => 0) (s.note detPcieCpl 0) else
  match s.reachFar o sp false with
  | .failed => .lose stPoisonConsumed 0 s
  | .asleep d => .stall (s.noteDom o d)
  | .ok | .busy =>
  let (here, s1) := s.boardGather o ctx sp
  if here = false then .stall s1
  else
    match s1.reachAll o (some ctx) sp true false with
    | .failed => .lose stPoisonConsumed 0 s1
    | .asleep d => .stall (s1.noteDom o d)
    | .busy => .stall (s1.takeTurn o (some ctx) (devLines sp))
    | .ok =>
      let (data, s1) := State.spansShown o sp s1
      let va := match sp with | x :: _ => x.va | [] => 0
      let (inj, s1) := s1.faultJudge o
      if inj then .lose (judgedCause stPageFault true) va (s1.leaveTurn o (some ctx) (devLines sp)) else
      let far := s1.farPoison o sp
      let dev := sp.filter fun x => x.tgt = 0
      let r := (devLines sp).foldl (fun (r : Served) l =>
        let r1 := r.st.cisRead q l ((dev.filter fun x => x.addr / 128 = l).flatMap fun x => offsOf x.addr x.n)
        let r2 := r1.st.reply l
        ⟨r2.2, r.poison || r1.poison || r2.1⟩) ⟨s1, false⟩
      let t := r.st.leaveTurn o (some ctx) (devLines sp)
      let (cause, t) := t.poisonJudge o (r.poison || far)
      match cause with
      | some c => .lose c va t
      | none => .ok data t

/-- Read spans; the owner then holds no answer any more. -/
def State.readSpans (s : State) (o : Owner) (ctx : Nat) (q : MemReq) (sp : List Span) : Go (List (BitVec 8)) :=
  match s.readKeep o ctx q sp with
  | .ok bs s1 => .ok bs (s1.boardDone o)
  | .lose c va s1 => .lose c va (s1.boardDone o)
  | .stall s1 => .stall s1

/-- Read `n` bytes from a context's address, keeping the answers of other modules with their owner. -/
def State.vKeep (s : State) (o : Owner) (ctx : Nat) (q : MemReq) (va n : Nat) : Go (List (BitVec 8)) :=
  (s.spans ctx va n .read).bind fun sp s1 => s1.readKeep o ctx q sp

/-- Write spans with their bytes: a device line at its cistern, a host line in host memory, another module's line by MEM_WR. -/
def State.writeSpans (s : State) (o : Owner) (ctx : Nat) (q : MemReq) (sp : List (Span × List (BitVec 8))) : Go Unit :=
  let lines := devLines (sp.map (·.1))
  match s.reachOut o ctx (sp.map (·.1)) false with
  | .failed => .lose stPoisonConsumed 0 s
  | .asleep d => .stall (s.noteDom o d)
  | .busy => .stall (s.takeTurn o (some ctx) lines)
  | .ok =>
    let (fault, s) := s.faultJudge o
    let (flit, s) := if fault then (none, s) else s.flitJudge o lines
    match if fault then some (judgedCause stPageFault true) else flit with
    | some c => .lose c (match sp with | x :: _ => x.1.va | [] => 0) (s.leaveTurn o (some ctx) lines)
    | none =>
    let r := sp.foldl (fun (r : Served) x =>
      match x.1.tgt with
      | 0 =>
        let r1 := r.st.cisWrite q (x.1.addr / 128) (bytesAt (x.1.addr % 128) x.2)
        ⟨r1.st, r.poison || r1.poison⟩
      | 1 => ⟨r.st.boardWrite o (r.st.gidAt o) ctx (x.1.addr / 128) (bytesAt (x.1.addr % 128) x.2), r.poison⟩
      | _ => ⟨r.st.hostWrite x.1.addr x.2, r.poison⟩) ⟨s, false⟩
    let t := r.st.leaveTurn o (some ctx) lines
    if r.poison then .lose stPoisonConsumed (match sp with | x :: _ => x.1.va | [] => 0) t else .ok () t

/-- Read `n` bytes from a context's address. -/
def State.vRead (s : State) (o : Owner) (ctx : Nat) (q : MemReq) (va n : Nat) : Go (List (BitVec 8)) :=
  (s.spans ctx va n .read).bind fun sp s1 => s1.readSpans o ctx q sp

/-- Give each span its bytes. -/
def zipSpans : List Span → List (BitVec 8) → List (Span × List (BitVec 8))
  | [], _ => []
  | x :: xs, bs => (x, bs.take x.n) :: zipSpans xs (bs.drop x.n)

/-- Write bytes to a context's address. -/
def State.vWrite (s : State) (o : Owner) (ctx : Nat) (q : MemReq) (va : Nat) (bs : List (BitVec 8)) : Go Unit :=
  (s.spans ctx va bs.length .write).bind fun sp s1 => s1.writeSpans o ctx q (zipSpans sp bs)

/-- The bytes of a span list by address: a byte no span covers reads as 0. -/
def byteOf (sp : List (Span × List (BitVec 8))) (va : Nat) : BitVec 8 :=
  match sp.find? fun (e : Span × List (BitVec 8)) => decide (e.1.va ≤ va) && decide (va < e.1.va + e.1.n) with
  | some e => e.2.getD (va - e.1.va) 0
  | none => 0

/-- One piece for each line that ranges touch: from the first touched byte of the line to the last. -/
def lineChunks (rs : List (Nat × Nat)) : List (Nat × Nat) :=
  let cs := rs.flatMap fun r => chunks r.1 r.2
  ((cs.map fun c => c.1 / 128).eraseDups).map fun l =>
    let mine := cs.filter fun c => c.1 / 128 = l
    let lo := mine.foldl (fun m c => min m c.1) (128 * l + 127)
    let hi := mine.foldl (fun m c => max m (c.1 + c.2)) (128 * l)
    (lo, hi - lo)

/-- Read scattered ranges as one request, keeping the answers of other modules; the result gives each byte by its address. -/
def State.vGather (s : State) (o : Owner) (ctx : Nat) (q : MemReq) (rs : List (Nat × Nat)) : Go (Nat → BitVec 8) :=
  (State.spansOf ctx .read (lineChunks rs) s).bind fun sp s1 =>
    (s1.readKeep o ctx q sp).bind fun bs s2 => .ok (byteOf (zipSpans sp bs)) s2

/-- Read and change bytes in one step, where nothing has to be waited for: `f` gives the new bytes of the old ones. -/
def State.vModify (s : State) (o : Owner) (ctx va n : Nat) (f : List (BitVec 8) → List (BitVec 8)) : Go (List (BitVec 8)) :=
  let q := plainReq (some ctx)
  (s.spans ctx va n .write).bind fun sp s1 =>
    match s1.reachOut o ctx sp true with
    | .failed => .lose stPoisonConsumed va s1
    | .asleep d => .stall (s1.noteDom o d)
    | .busy => .stall (s1.takeTurn o (some ctx) (devLines sp))
    | .ok => (s1.readSpans o ctx q sp).bind fun bs s2 =>
      (s2.writeSpans o ctx q (zipSpans sp (f bs))).bind fun _ s3 => .ok bs s3

/-! ## Atomics at a cistern (R81) -/

/-- What an atomic at a cistern answers: the old value, a loss with its cause, or a wait. -/
inductive AtomRes where
  | done (old : Nat) (s : State)
  | poison (cause : Nat) (s : State)
  | wait (s : State)

/-- An atomic on `n` device bytes that nothing stands before: `f` gives the new value of the old one, or none to leave it, and what its judgements
leave behind; it judges only once the line is read. Its own read never drops a line that the write of hint 11 merges into (R258). -/
def State.devPerform (s : State) (o : Owner) (q : MemReq) (dpa n old : Nat) (f : Nat → State → Option Nat × State) : AtomRes :=
  let (fault, s) := s.faultJudge o
  let (lost, s) := if fault then (some (judgedCause stPageFault true), s) else s.flitJudge o [dpa / 128]
  match lost with
  | some c => .poison c s
  | none =>
    let r := s.cisRead { q with hint := if q.hint = 3 then 1 else q.hint } (dpa / 128) (offsOf dpa n)
    let (bad, u) := r.st.consumed o r.poison r.poison
    match bad with
    | some c => .poison c u
    | none =>
      let (poison, t) := match f old u with
        | (none, t) => (false, t)
        | (some v, t) =>
          let r1 := t.cisWrite q (dpa / 128) (bytesAt (dpa % 128) (leBytes n v))
          (r1.poison, r1.st)
      let (flit, t) := t.reply (dpa / 128)
      if poison || flit then .poison stPoisonConsumed t else .done old t

/-- An answered atomic gives up its turn (R254). -/
def AtomRes.leave (r : AtomRes) (o : Owner) (ctx : Option Nat) (lines : List Nat) : AtomRes :=
  match r with
  | .done old t => .done old (t.leaveTurn o ctx lines)
  | .poison c t => .poison c (t.leaveTurn o ctx lines)
  | .wait t => .wait t

/-- Perform an atomic on `n` device bytes once nothing stands before it. It waits under page protection only where it changes a byte (R364). -/
def State.devUpdate (s : State) (o : Owner) (q : MemReq) (dpa n : Nat) (f : Nat → State → Option Nat × State) : AtomRes :=
  let (old, s) := s.shownVal dpa n
  let changes := match (f old s).1 with
    | some v => decide (v % 2 ^ (8 * n) ≠ old)
    | none => false
  match s.devReach o q.ctx dpa n true changes with
  | .failed => .poison stPoisonConsumed s
  | .asleep d => .wait (s.noteDom o d)
  | .busy => .wait (s.takeTurn o q.ctx [dpa / 128])
  | .ok => (s.devPerform o q dpa n old f).leave o q.ctx [dpa / 128]

/-- As `devUpdate`, for a change that judges nothing. -/
def State.devAtomic (s : State) (o : Owner) (q : MemReq) (dpa n : Nat) (f : Nat → Option Nat) : AtomRes :=
  s.devUpdate o q dpa n fun old t => (f old, t)

end Sys2Proof.Machine
end

