-- ==== Sys2Proof/Machine/Event.lean ====
section
/-!
DEFINITION. Event words (11 R330, R331): the operations of Table 11.19 at a cistern, in host memory and in another module.
-/
namespace Sys2Proof.Machine

/-- An operation on an event (Table 11.19). -/
inductive EvOp where
  | set (v : Nat)
  | inc (n : Nat)
  | poison
deriving DecidableEq, Repr, Inhabited

/-- The largest VALUE. -/
def evMax : Nat := 2 ^ 63 - 1

/-- What an operation does to an event word (Table 11.19): its new word, and the detector that counts a signal ignored. -/
def evApply (w : Nat) : EvOp → Option Nat × Option Nat
  | .poison => if 2 ^ 63 ≤ w then (none, none) else (some (w + 2 ^ 63), none)
  | .set v =>
    if 2 ^ 63 ≤ w then (none, some detEventPoisoned)
    else if v ≤ w then (none, some detEventStale)
    else (some v, none)
  | .inc n =>
    if 2 ^ 63 ≤ w then (none, some detEventPoisoned)
    else if n = 0 then (none, some detEventStale)
    else if w = evMax then (none, some detEventSaturated)
    else (some (min (w + n) evMax), none)

/-- Whether a signal is judged as breaking the rule of `det`, at unit `u`: naturally, or by an injector (R432). -/
def State.evJudge1 (s : State) (u det : Nat) (natural : Option Nat) : Bool × State := s.judge det u (natural == some det)

/-- Judge a signal on word `w` at unit `u`: the new word if it takes effect, and the count if it is ignored. -/
def State.evJudge (s : State) (u w : Nat) (op : EvOp) : Option Nat × State :=
  let r := evApply w op
  if op = .poison then (r.1, s)
  else
    let (b1, s1) := s.evJudge1 u detEventPoisoned r.2
    if b1 then (none, s1.det detEventPoisoned)
    else
      let (b2, s2) := s1.evJudge1 u detEventSaturated r.2
      if b2 then (none, s2.det detEventSaturated)
      else
        let (b3, s3) := s2.evJudge1 u detEventStale r.2
        if b3 then (none, s3.det detEventStale) else (r.1, s3)

/-- The channel of a DPA, as a unit. -/
def State.chanOf (s : State) (dpa : Nat) : Nat := match s.home dpa with | some h => h.1 | none => 0

/-- An operation on an event in device memory, one step at its cistern; it is judged once the line is found readable. -/
def State.evDev (s : State) (o : Owner) (q : MemReq) (dpa : Nat) (op : EvOp) : AtomRes :=
  s.devUpdate o q dpa 8 fun w t => t.evJudge (t.chanOf dpa) w op

/-- An operation on an event in host memory, by an AtomicOp CAS loop; a host that does not perform it leaves it undone (R331). -/
def State.evHost (s : State) (a : Nat) (op : EvOp) : State :=
  if s.hostCut then s.note detPcieCpl 0
  else if Config.hostAtomics then
    let w := leVal (Memory.reads s.mem.host a 8)
    let (v, s1) := s.evJudge 0x10000 w op
    match v with
    | some x => s1.hostWrite a (leBytes 8 x)
    | none => s1
  else s.note detAtomHost 0x10000

/-- The place under which an owner keeps the word it expects a CAS to find, beside the answers (R331). -/
def casMark (a : Nat) : Nat := a + 2 ^ 60

/-- A signal to an event of another module (R331), step by step: SET and poisoning are one MEM_ATOM (the larger of the word and the
value, which a poisoned word always is; the OR of the poison bit); INC reads the word and then swaps it, until a swap finds
the word it expects. The answer's old word is judged here. -/
def State.evFar (s : State) (o : Owner) (ctx a : Nat) (op : EvOp) : Go Unit :=
  match s.boardAns o a with
  | none => if s.boardAsked o a then .stall s else
    match op with
    | .set v => .stall (s.boardAtom o a ctx a 2 2 (BitVec.ofNat 64 v) 0)
    | .poison => .stall (s.boardAtom o a ctx a 4 2 (BitVec.ofNat 64 (2 ^ 63)) 0)
    | .inc _ => .stall (s.boardRead o ctx a 8)
  | some ans =>
    let mark := (s.boardAns o (casMark a)).map (·.bytes)
    let s1 := s.boardDone o
    let old := leVal ans.bytes
    if ans.poison then .lose stPoisonConsumed a s1
    else
      match op with
      | .set _ => .ok () (s1.evJudge 0x10000 old op).2
      | .poison => .ok () s1
      | .inc _ =>
        if mark = some ans.bytes then .ok () s1
        else
          match s1.evJudge 0x10000 old op with
          | (none, s2) => .ok () s2
          | (some v, s2) =>
            let s3 := { s2 with ridge := { s2.ridge with answers := s2.ridge.answers ++ [BoardAns.mk o ctx (casMark a) ans.bytes false] } }
            .stall (s3.boardAtom o a ctx a 7 2 (BitVec.ofNat 64 old) (BitVec.ofNat 64 v))

/-- A signal made for a live context (R330, R331, R272): at the event's place, with poison consumed as any read-modify-write. An
event in host memory without HOSTEVT is counted and not performed (R306). -/
def State.signal (s : State) (o : Owner) (ctx va : Nat) (op : EvOp) : Go Unit :=
  (s.span ctx va 8 .write).bind fun x s1 =>
    match x.tgt with
    | 0 =>
      match s1.evDev o (plainReq (some ctx)) x.addr op with
      | .done _ s2 => .ok () s2
      | .poison c s2 => .lose c va s2
      | .wait s2 => .stall s2
    | 1 => s1.evFar o ctx x.addr op
    | _ =>
      if s1.accepted 2 = false then .ok () (s1.note detFeatureAbsent 0)
      else
        match s1.hostReach o with
        | .failed => .lose stPoisonConsumed va s1
        | .asleep d => .stall (s1.noteDom o d)
        | .ok | .busy => if s1.hostCut then .lose stPoisonConsumed va (s1.evHost x.addr op) else .ok () (s1.evHost x.addr op)

/-- An event poisoning by the device (R272, R332, R333), at system scope: where the event's line is poisoned or refuses the request, it is
left as it is, and counts as performed. It waits as any request does (R254, R364). -/
def State.poisonGo (s : State) (o : Owner) (ctx va : Nat) : Go Unit :=
  (s.span ctx va 8 .write).bind fun x s1 =>
    match x.tgt with
    | 0 =>
      match s1.evDev o (plainReq (some ctx)) x.addr .poison with
      | .done _ s2 => .ok () s2
      | .poison _ s2 => .ok () s2
      | .wait s2 => .stall s2
    | 1 =>
      match s1.evFar o ctx x.addr .poison with
      | .lose _ _ s2 => .ok () s2
      | r => r
    | _ => .ok () (if s1.accepted 2 then s1.evHost x.addr .poison else s1)

/-- Poison events in order, as far as none must wait; the ones left. An event that does not translate is left as it is. -/
def State.poisonAll (o : Owner) (ctx : Nat) : List Nat → State → List Nat × State
  | [], s => ([], s)
  | a :: as, s =>
    match s.poisonGo o ctx a with
    | .ok _ t => State.poisonAll o ctx as t
    | .lose _ _ t => State.poisonAll o ctx as t
    | .stall t => (a :: as, t)

/-- An event poisoning under a reset or at the end of a checkpoint (R335, R372), when no page is protected: a sleeping domain counts as
woken, a FAILED one leaves the event as it is, and nobody waits for another module's answer (log 47). -/
def State.poisonEvent (s : State) (ctx va : Nat) : State :=
  match s.span ctx va 8 .write with
  | .ok x s1 =>
    match x.tgt with
    | 0 =>
      let q := plainReq (some ctx)
      let line := x.addr / 128
      if s1.reachLine .noone none line true = .failed then s1
      else
        let r := s1.cisRead q line (offsOf x.addr 8)
        if r.poison then r.st
        else (r.st.cisWrite q line (bytesAt (x.addr % 128) (leBytes 8 (s1.devVal x.addr 8 ||| 2 ^ 63)))).st
    | 1 => s1.boardAtom .noone 0 4096 x.addr 4 2 (BitVec.ofNat 64 (2 ^ 63)) 0
    | _ => if s1.accepted 2 then s1.evHost x.addr .poison else s1
  | .stall s1 => s1
  | .lose _ _ s1 => s1

/-! ## Inbound signal slots (R351) -/

/-- Whether a slot refuses a signal of a source: it is not enabled, the source is not allowed, or its event has no memory. -/
def State.slotRefuses (s : State) (i src : Nat) : Bool :=
  decide (s.fld (regRdgRslotCtrl i) 0 1 = 0) || decide (src < s.fld (regRdgRslotCtrl i) 12 20) ||
  decide (s.fld (regRdgRslotCtrl i) 32 20 < src) || (s.region (s.fld (regRdgRslotEvt i) 3 37 * 8)).isNone

/-- A SIGNAL frame at its slot (R351): performed, refused because its line is poisoned, or waiting. -/
def State.slotSignal (s : State) (o : Owner) (f : Frame) : AtomRes :=
  let op := if frameArg f 12 1 = 1 then EvOp.poison else EvOp.set (frameArg f 64 63)
  s.evDev o (plainReq none) (s.fld (regRdgRslotEvt (frameArg f 0 12)) 3 37 * 8) op

/-- Poison a slot's event where nothing may wait (log 47). -/
def State.poisonSlot (s : State) (i : Nat) : State :=
  let a := s.fld (regRdgRslotEvt i) 3 37 * 8
  let r := s.cisRead (plainReq none) (a / 128) (offsOf a 8)
  if r.poison then r.st
  else (r.st.cisWrite (plainReq none) (a / 128) (bytesAt (a % 128) (leBytes 8 (s.devVal a 8 ||| 2 ^ 63)))).st

/-- The word of an event as a wait finds it (R322, R331): its value, or none while another module's answer is missing. -/
def State.evRead (s : State) (o : Owner) (ctx va : Nat) : Go (BitVec 64) :=
  (s.vRead o ctx (plainReq (some ctx)) va 8).bind fun bs s1 => .ok (BitVec.ofNat 64 (leVal bs)) s1

/-- An event's value as the module can see it without asking another one. -/
def State.evPeek (s : State) (ctx va : Nat) : Option (BitVec 64) :=
  (s.place ctx va).bind fun p =>
    if p.1 = 0 then some (BitVec.ofNat 64 (s.devVal p.2 8))
    else if p.1 = 2 ∧ s.hostCut = false then some (BitVec.ofNat 64 (leVal (Memory.reads s.mem.host p.2 8)))
    else none

end Sys2Proof.Machine
end

