-- ==== Sys2Proof/Machine/Lose.lean ====
section
/-!
DEFINITION. Object references and completion records (11 R323, R329), and the loss of a context, one shared operation (R332).
-/
namespace Sys2Proof.Machine

/-! ## Contexts, queues and commands -/

/-- A context. -/
def State.ctx (s : State) (c : Nat) : Option CtxRun := Tbl.find s.hif.ctxs c

/-- Set a context. -/
def State.putCtx (s : State) (c : Nat) (v : CtxRun) : State := { s with hif := { s.hif with ctxs := Tbl.put s.hif.ctxs c v } }

/-- The no-progress period of a context's partition in ms (R69). -/
def State.periodOf (s : State) (c : Nat) : Nat :=
  match (Tbl.find s.hif.ctxs c).bind fun r => s.part r.words.part with
  | some p => p.noprog
  | none => 2000

/-- A queue of a context. -/
def State.queue (s : State) (c q : Nat) : Option Queue := (s.ctx c).bind fun r => Tbl.find r.queues q

/-- Set a queue. -/
def State.putQueue (s : State) (c q : Nat) (v : Queue) : State :=
  match s.ctx c with
  | some r => s.putCtx c { r with queues := Tbl.put r.queues q v }
  | none => s

/-- A fetched command. -/
def State.cmd (s : State) (r : CmdRef) : Option Cmd := (s.queue r.ctx r.queue).bind fun q => Tbl.find q.cmds r.id

/-- Set a fetched command. -/
def State.putCmd (s : State) (r : CmdRef) (v : Cmd) : State :=
  match s.queue r.ctx r.queue with
  | some q => s.putQueue r.ctx r.queue { q with cmds := Tbl.put q.cmds r.id v }
  | none => s

/-- A command's field. -/
def cmdFld (c : Cmd) (lo n : Nat) : Nat := bitsOf c.raw.toNat lo n

/-- A command finishes with a status; its completion follows in its order (R322). -/
def State.finish (s : State) (r : CmdRef) (status : Nat) : State :=
  match s.cmd r with
  | some c => s.putCmd r { c with phase := .finished status, progress := 0 }
  | none => s

/-! ## Object references (R329) -/

/-- The lines whose zeroing waits for a page under protection (R364, R389). -/
def State.wipesDue (s : State) : List Nat := s.mem.cis.flatMap fun c => (c.2.held.filter fun h => h.who = .wipe).map (·.line)

/-- Whether an object of tag `k` remains, or a line that is still to be zeroed (R389). -/
def State.tagHeld (s : State) (k : Nat) : Bool :=
  s.hif.objs.any (fun (o : Nat × Obj) => decide (o.2.tag = k)) || s.wipesDue.any fun l => decide ((s.lineTag l).toNat = k)

/-- Show every key slot as it stands (R386, R389, Table 14.7): SCRUB while objects of its tag remain; a slot with neither VALID nor SCRUB is
free. -/
def State.keySlots (s : State) : State :=
  let s1 := s.trust.slots.foldl (fun (t : State) (e : Nat × KeySlot) => t.setFld (regSecKeyslot (e.1 - 1)) 3 1 (b2n (t.tagHeld e.1))) s
  let live := s1.trust.slots.filter fun (e : Nat × KeySlot) =>
    decide (s1.fld (regSecKeyslot (e.1 - 1)) 0 1 = 1) || decide (s1.fld (regSecKeyslot (e.1 - 1)) 3 1 = 1)
  { s1 with trust := { s1.trust with slots := live } }.setFld regSecConf 0 8 live.length

/-- A confidential line is written zero with tag 0 (R389), at once or when its page leaves PROTECTED (R364). -/
def State.wipeLine (s : State) (line : Nat) : State := if s.writeWaits line then s.takeTurn .wipe none [line] else s.zeroLine 0 line

/-- An object is released: its index takes the next generation, with an OBJ_RELEASED record where one is written. -/
def State.released (s : State) (record : Bool) (i : Nat) (o : Obj) : State :=
  let g := (Tbl.getD s.hif.objGens i 0 + 1) % 4096
  let s1 := { s with hif := { s.hif with objs := Tbl.del s.hif.objs i, objGens := Tbl.set 0 s.hif.objGens i g } }
  let s2 := if o.tag = 0 then s1 else s1.keySlots
  if record then s2.evr 4 0 o.creator (BitVec.ofNat 64 i) 0 else s2

/-- A reference to an object ends; the last one releases the object. A confidential object's lines are first written zero with tag 0, and where a
page under protection makes one wait, the object is released, with its record, after the last of them (R389). -/
def State.unrefObj (s : State) (record : Bool) (i : Nat) : State :=
  match Tbl.find s.hif.objs i with
  | none => s
  | some o =>
    if 1 < o.refs then { s with hif := { s.hif with objs := Tbl.put s.hif.objs i { o with refs := o.refs - 1 } } }
    else if o.tag = 0 then s.released record i o
    else
      let ls := extentLines o.extents
      let s1 := ls.foldl (fun (t : State) l => t.wipeLine l) s
      if s.anyWaits ls then { s1 with hif := { s1.hif with objs := Tbl.put s1.hif.objs i { o with refs := 0 } } } else s1.released record i o

/-- What waited for a page to leave PROTECTED is zeroed, and objects none of whose lines waits any more are released (R364, R389). -/
def State.wipe (s : State) : State :=
  let due := s.wipesDue.filter fun l => !s.writeWaits l
  if due = [] then s
  else
    let s1 := due.foldl (fun (t : State) l => (t.leaveTurn .wipe none [l]).zeroLine 0 l) s
    let left := s1.wipesDue
    ((s1.hif.objs.filter fun (e : Nat × Obj) => decide (e.2.refs = 0) && !left.any fun l => e.2.extents.any fun x =>
      decide (512 * x.1 ≤ l) && decide (l < 512 * (x.1 + x.2))).foldl (fun (t : State) e => t.released true e.1 e.2) s1).keySlots

/-- References to several objects end. -/
def State.unrefs (s : State) (is : List Nat) : State := is.foldl (fun (t : State) i => t.unrefObj true i) s

/-- An object takes a reference. -/
def State.addRef (s : State) (i : Nat) : State :=
  { s with hif := { s.hif with objs := Tbl.modify s.hif.objs i fun o => { o with refs := o.refs + 1 } } }

/-! ## Completion records (R323) -/

/-- The bytes of a completion entry (Table 11.16). -/
def cqBytes (q : Queue) (qn : Nat) (seq : BitVec 32) (status : Nat) (tag : Nat) : List (BitVec 8) :=
  let ph := if (seq.toNat / 2 ^ q.log2n) % 2 = 0 then 1 else 0
  leBytes 16 (seq.toNat + status * 2 ^ 32 + qn * 2 ^ 40 + ph * 2 ^ 63 + tag * 2 ^ 64)

/-- Where a completion entry lies. -/
def Queue.cqAddr (q : Queue) (seq : BitVec 32) : Nat := q.cq.toNat + 16 * (seq.toNat % 2 ^ q.log2n)

/-- A command leaves its queue: its record counts as written, its references end, and its vector is signalled where asked. -/
def State.retireCmd (s : State) (r : CmdRef) (c : Cmd) : State :=
  match s.queue r.ctx r.queue with
  | none => s
  | some q =>
    let q1 := { q with cmds := Tbl.del q.cmds r.id, done := if c.seq.isSome then q.done + 1 else q.done }
    let s1 := (s.putQueue r.ctx r.queue q1).unrefs c.objs
    if c.seq.isSome && decide (cmdFld c 9 1 = 1) && q.irqen then s1.emit (.msix q.vector) else s1

/-- Write a command's completion record and retire it, for a lost context: a record whose address does not translate is not written. -/
def State.recordLost (s : State) (r : CmdRef) (c : Cmd) (status : Nat) : Go Unit :=
  match s.queue r.ctx r.queue with
  | none => .ok () s
  | some q =>
    match c.seq with
    | none => .ok () (s.retireCmd r c)
    | some n =>
      match s.vWrite (.ending r.ctx) r.ctx (plainReq (some r.ctx)) (q.cqAddr n) (cqBytes q r.queue n status (cmdFld c 32 32)) with
      | .ok _ t => .ok () (t.retireCmd r c)
      | .stall t => .stall t
      | .lose _ _ t => .ok () (t.retireCmd r c)

/-- Write the records of commands in their order, as far as none must wait; whether all are written. -/
def State.recordAll (e : Ending) : List (CmdRef × Cmd) → State → Bool × State
  | [], s => (true, s)
  | k :: ks, s =>
    match s.recordLost k.1 k.2 (if e.owner = some k.1 then e.code else stContextLost) with
    | .ok _ t => State.recordAll e ks t
    | .lose _ _ t => State.recordAll e ks t
    | .stall t => (false, t)

/-! ## The loss of a context (R332) -/

/-- Every submitted command of a context whose record is not written, in queue and sequence order. -/
def State.openCmds (s : State) (c : Nat) : List (CmdRef × Cmd) :=
  match s.ctx c with
  | none => []
  | some r => r.queues.flatMap fun q => q.2.cmds.map fun k => (⟨c, q.1, k.1⟩, k.2)

/-- Take the blocks of a context off a tile, with their groups, claim, copies and waits; descriptors go without counting (R195). -/
def Tile.dropCtx (t : Tile) (c : Nat) : Tile :=
  let gone := (t.blocks.filter fun b => b.2.cmd.ctx = c).map (·.1)
  let slots := (t.groups.filter fun g => g.2.block ∈ gone).map (·.1)
  { t with
    blocks := t.blocks.filter fun b => !decide (b.1 ∈ gone)
    groups := t.groups.filter fun g => !decide (g.1 ∈ slots)
    scopys := t.scopys.filter fun x => !decide (x.slot ∈ slots)
    waits := t.waits.filter fun h => !decide (h.slot ∈ slots)
    timers := t.timers.filter fun e => !decide (e.1 ∈ slots)
    rcache := (t.rcache.map fun e => (e.1, e.2.filter fun (x : Nat × Nat) => !decide (x.1 ∈ slots))).filter fun e => e.2 ≠ []
    claim := match t.claim with
      | some k => if k.block ∈ gone then none else some k
      | none => none }

/-- The groups of a context, by tile and slot. -/
def State.ctxGroups (s : State) (c : Nat) : List (Nat × Nat) :=
  s.tiles.flatMap fun t =>
    (t.2.groups.filter fun g => (Tbl.find t.2.blocks g.2.block).any fun b => b.cmd.ctx = c).map fun g => (t.1, g.1)

/-- Step 1 of R332: every unit stops working for the context, its stores that have not left their tiles go, and its held waits are
withdrawn. -/
def State.stopCtx (s : State) (c : Nat) : State :=
  let gs := s.ctxGroups c
  let sigs := s.ridge.sigs.filter fun q => q.r.ctx = c
  let s1 := { s with
    tiles := (s.tiles.map fun t => (t.1, { t.2.dropCtx c with storeQ := t.2.storeQ.filter fun e => e.ctx ≠ c })).filter fun t => t.2 ≠ Tile.empty
    mem := { s.mem with cis := s.mem.cis.map fun n => (n.1, { n.2.dropTurns c with
      waits := n.2.waits.filter fun h => !decide ((h.tile, h.slot) ∈ gs) }) }
    eng := { s.eng with
      upds := s.eng.upds.filter fun u => u.r.ctx ≠ c
      spurs := s.eng.spurs.filter fun u => u.2.r.ctx ≠ c
      scheds := s.eng.scheds.filter fun u => u.r.ctx ≠ c
      colls := s.eng.colls.map fun k => (k.1, if k.2.ctx = c then { k.2 with run := none } else k.2) }
    ridge := { s.ridge with
      reqs := s.ridge.reqs.map fun q => if q.ctx = c then { q with owner := .noone } else q
      answers := s.ridge.answers.filter fun a => a.ctx ≠ c
      sigs := s.ridge.sigs.filter fun q => q.r.ctx ≠ c } }
  sigs.foldl (fun (t : State) q => t.unfence q.tag) s1

/-- The event addresses that the bytes of a PLIST hold. -/
def plistOf (bs : List (BitVec 8)) : List Nat := (List.range (bs.length / 8)).map fun i => leVal ((bs.drop (8 * i)).take 8)

/-- A poisoning SIGNAL of a lost context to a slot of this module (R343, R351, R352): it waits as a write does, and is presented again with the rest
of the loss. -/
def State.poisonOwn (s : State) (q : SigReq) : State :=
  let drop := fun (t : State) => { t with ridge := { t.ridge with sigs := t.ridge.sigs.filter fun x => x.tag ≠ q.tag } }
  match s.slotSignal (.ending q.r.ctx) q.f with
  | .done _ u => drop u
  | .poison _ u => drop (u.note detRdgNakSent 0xFFFF)
  | .wait u => u

/-- The poisoning SIGNALs of a context to this module that have still to be performed. -/
def State.poisonOwns (s : State) (c : Nat) : State :=
  (s.ridge.sigs.filter fun q => decide (q.r.ctx = c) && q.poison && decide (q.f.dst.toNat = s.node)).foldl (fun (t : State) q => t.poisonOwn q) s

/-- The poisoning SIGNAL to the target of a REMOTE_SIGNAL that has not completed (R352); it is not sent again. A target of this module is its own
slot (R343). -/
def State.poisonRemote (s : State) (r : CmdRef) (c : Cmd) : State :=
  let (t, s1) := s.newTag
  let f := s1.mkFrame 5 (cmdFld c 128 20) t (cmdFld c 148 12 + 2 ^ 12 + cmdFld c 192 63 * 2 ^ 64) []
  if f.dst.toNat = s.node then
    if s1.slotRefuses (frameArg f 0 12) s.node then s1.note detRdgNakSent 0xFFFF
    else
      let q := SigReq.mk r t f s.ms true
      { s1 with ridge := { s1.ridge with sigs := s1.ridge.sigs ++ [q] } }.poisonOwn q
  else
    match s1.send true f with
    | (some _, u) => u.note detRdgNakSent 0xFFFF
    | (none, u) => { u with ridge := { u.ridge with sigs := u.ridge.sigs ++ [SigReq.mk r t f s.ms true] } }

/-- The commands among some whose REMOTE_SIGNAL has not completed. -/
def remotesOf (cmds : List (CmdRef × Cmd)) : List (CmdRef × Cmd) := cmds.filter fun k =>
  match k.2.phase with
  | .finished _ => false
  | _ => decide (cmdFld k.2 0 8 = 0x28)

/-! ## Collectives and key slots -/

/-- The collectives of a context close without a COLL_CLOSE, and the references of their COLL_OPENs end (R329). -/
def State.dropColls (s : State) (c : Nat) : State :=
  let mine := s.eng.colls.filter fun (e : Nat × Coll) => e.2.ctx = c
  ({ s with eng := { s.eng with colls := s.eng.colls.filter fun (e : Nat × Coll) => e.2.ctx ≠ c } }).unrefs
    (mine.flatMap fun (e : Nat × Coll) => e.2.objs)

/-- A context gives up its key slot: its page-table pages are written zero with tag 0 (log 31), and the slot is free once no object of its tag remains
(R389). -/
def State.dropKey (s : State) (k : Option Nat) : State :=
  match k with
  | none => s
  | some k =>
    let pages := s.trust.pages.filter fun (p : PtPage) => p.slot = k
    let s1 := pages.foldl (fun (t : State) (p : PtPage) => (List.range 32).foldl (fun (u : State) i => u.wipeLine (32 * p.page + i)) t) s
    let s2 := { s1 with trust := { s1.trust with pages := s1.trust.pages.filter fun (p : PtPage) => p.slot ≠ k } }
    (s2.setReg (regSecKeyslot (k - 1)) 0).keySlots

/-- Release what a stopped context holds: its handles, collectives, queues, slot and key slot (R329, R334). -/
def State.releaseCtx (s : State) (c : Nat) : State :=
  match s.ctx c with
  | none => s
  | some r =>
    let s1 := ((s.dropColls c).unrefs (r.handles.filterMap fun (h : Nat × Handle) => h.2.obj))
    { s1 with
      worked := s1.worked.filter fun x => x ≠ c
      hif := { s1.hif with ctxs := Tbl.del s1.hif.ctxs c }
      eng := { s1.eng with evDue := s1.eng.evDue.filter fun (e : Nat × Nat × Nat) => e.1 ≠ c } }.dropKey r.keySlot

/-- Whether every unit has stopped for a lost context and every record of it is written (R334): nothing of its loss is left, no command of it
is in a queue, and no request of it to another module is without an answer. -/
def State.ctxQuiet (s : State) (c : Nat) (r : CtxRun) : Bool :=
  r.lost && r.ending.isNone && (r.queues.all fun q => q.2.cmds.isEmpty) && !(s.ridge.reqs.any fun q => decide (q.ctx = c))

/-- Release every context that is being destroyed and is quiet (R334, R422). -/
def State.releaseQuiet (s : State) : State :=
  s.hif.ctxs.foldl (fun (t : State) e => if e.2.destroying && t.ctxQuiet e.1 e.2 then t.releaseCtx e.1 else t) s

/-! ## What a loss settles -/

/-- The detector of a cause. -/
def lossDet (code : Nat) : Option Nat :=
  if code = stAlignFault then some detAlignFault
  else if code = stAliasFault then some detAliasFault
  else if code = stPageFault then some detPageFault
  else if code = stPoisonConsumed then some detPoisonConsumed
  else if code = stNoProgress then some detNoProgress
  else none

/-- An admin command ends: BUSY clears, and STATUS and RESULT hold its outcome (R310). -/
def State.adminDone (s : State) (status : Nat) (result : BitVec 64) : State :=
  let s1 := if status = 0 then s else s.note detAdmRefused 0
  ({ s1 with hif := { s1.hif with admin := .none } }.setReg regHifAdmStatus (BitVec.ofNat 64 (status * 256))).setReg regHifAdmResult result

/-- What waited for work to end: a context that is destroyed goes once it is quiet, and its CTX_DESTROY ends (R334); a QUEUE_DESTROY ends when
no fetched command of its queue is left (R318). -/
def State.adminSettle (s : State) : State :=
  let s := s.releaseQuiet
  match s.hif.admin with
  | .queue c qn =>
    match s.ctx c, s.queue c qn with
    | some run, some q =>
      if q.cmds = [] then (s.putCtx c { run with queues := Tbl.del run.queues qn }).adminDone 0 0 else s
    | _, _ => s.adminDone 0 0
  | .ctx c => if (s.ctx c).isNone then s.adminDone 0 0 else s
  | .none => s

/-- Set what is left of a context's loss. -/
def State.putEnding (s : State) (c : Nat) (e : Option Ending) : State :=
  match s.ctx c with
  | some r => s.putCtx c { r with ending := e }
  | none => s

/-- Step 2 of R332, as far as nothing makes it wait: PLIST is read, and its entries and the SIG events are poisoned. -/
def State.poisonStep (s : State) (c : Nat) (w : Ctx) (e : Ending) : Ending × State :=
  let o := Owner.ending c
  let (e1, s1) :=
    if e.plist then
      match s.vRead o c (plainReq (some c)) w.plist.toNat (8 * w.plcnt) with
      | .ok bs t => ({ e with plist := false, evs := e.evs ++ plistOf bs }, t)
      | .stall t => (e, t)
      | .lose _ _ t => ({ e with plist := false }, t)
    else (e, s)
  let (left, s2) := State.poisonAll o c e1.evs s1
  ({ e1 with evs := left }, s2)

/-- Steps 2 to 4 of R332 and R334, each once the one before is done: events poisoned at system scope, records in sequence order, the report.
Where an access waits, the rest follows when CONTEXT_LOSS, COMMAND_COMPLETE or CTX_DESTROY is presented again (log 3). -/
def State.settleCtx (s : State) (c : Nat) : State :=
  match s.ctx c with
  | none => s
  | some r =>
    match r.ending with
    | none => s
    | some e =>
      let (e1, s1) := (s.poisonOwns c).poisonStep c r.words e
      if e1.plist ∨ e1.evs ≠ [] ∨ s1.ridge.sigs.any (fun q => decide (q.r.ctx = c)) then s1.putEnding c (some e1)
      else
        let (all, s2) := State.recordAll e1 (s1.openCmds c) s1
        if all = false then s2.putEnding c (some e1)
        else
          let s3 := s2.putEnding c none
          if e1.report then
            ((s3.evr 1 e1.code c e1.va e1.info).logRec 1 ((lossDet e1.code).getD 0xFF) e1.code (e1.info.toNat % 4096) c e1.va.toNat e1.inj).adminSettle
          else s3.adminSettle

/-- ARG1 of a LOST record: the tile, and the unit (0 lane, 1 array, 2 pump, 3 engine, 4 host interface). -/
def lostAt (unit tile : Nat) : BitVec 64 := BitVec.ofNat 64 (tile + unit * 4096)

/-- The unit at which the cause of a loss is judged (Table 16.1, kind T): the tile of a lane, array or pump; nothing else has one. -/
def causeUnit (info : BitVec 64) : Nat := if info.toNat / 4096 ≤ 2 then info.toNat % 4096 else 0x10000

/-- A context is lost (R332): `cause` and the addresses of the LOST record, and the command whose work faulted, if any. A context
that is not there or is lost already stays as it is. The addresses of a confidential context are not shown (R394). -/
def State.loseOne (s : State) (c cause : Nat) (va info : BitVec 64) (owner : Option CmdRef) : State :=
  match s.ctx c with
  | none => s
  | some r =>
    if r.lost then s
    else
      let code := causeStatus cause
      let shownVa := if r.words.conf then 0 else va
      let shownInfo := if r.words.conf then 0 else info
      let s0 := match lossDet code with
        | some d => if causeJudged cause then s.det d else s.note d (causeUnit info)
        | none => s
      let s1 := (s0.note detCtxLost 0).stopCtx c
      let cmds := s1.openCmds c
      let s2 := (remotesOf cmds).foldl (fun (t : State) k => t.poisonRemote k.1 k.2) s1
      let e : Ending := ⟨code, shownVa, shownInfo, owner, decide (0 < r.words.plcnt),
        cmds.filterMap fun k => k.2.sig.map fun x => x.1.toNat, true, causeInjected cause⟩
      let s3 := match s2.ctx c with
        | some k =>
          let slot := if (s2.part k.words.part).any (fun (p : PartEnt) => p.swap) then none else k.slot
          s2.putCtx c { k with lost := true, code := code, faultVa := shownVa, faultInfo := shownInfo, slot := slot, saved := [], ending := some e }
        | none => s2
      s3.settleCtx c

/-- Cisterns that have lost their tags lose every context of the module (Table 9.5). -/
def State.tagSettle (s : State) : State :=
  if s.tagLoss = [] then s
  else
    s.hif.ctxs.foldl (fun (t : State) e => t.loseOne e.1 stPoisonConsumed 0 (lostAt 4 0) none) { s with tagLoss := [] }

/-- A context is lost, and with it every other where its cause is that a cistern has lost its tags. -/
def State.lose (s : State) (c cause : Nat) (va info : BitVec 64) (owner : Option CmdRef) : State :=
  (s.loseOne c cause va info owner).tagSettle

/-- Whether a context is shown as lost (R332): once its loss is reported. -/
def CtxRun.shownLost (r : CtxRun) : Bool := r.lost && r.ending.isNone

/-- A fault of a group loses its context (R332), charged to its block's command. -/
def State.loseGroup (s : State) (g : GRef) (gr : Group) (code va : Nat) : State :=
  s.lose (s.ctxOf g gr) code (BitVec.ofNat 64 va) (lostAt 0 g.tile) ((s.blockOf g gr).map (·.cmd))

/-- A fault of a queue command's work loses its context. -/
def State.loseCmd (s : State) (r : CmdRef) (code va : Nat) : State :=
  s.lose r.ctx code (BitVec.ofNat 64 va) (lostAt 3 0) (some r)

/-- Complete a command's access: its result, a stall that is presented again, or the loss of the context. -/
def Go.forCmd {α : Type} (r : CmdRef) (k : α → State → State) : Go α → State
  | .ok a s => k a s
  | .stall s => s
  | .lose c v s => s.loseCmd r c v

end Sys2Proof.Machine
end

