-- ==== Sys2Proof/Machine/Operands.lean ====
section
/-!
DEFINITION. The fields of an instruction word (R52, R53): which forms are legal, how operands are read, and the shared
shape of an instruction that writes one register of every active lane.
-/
namespace Sys2Proof.Machine

/-! ## Fields -/

/-- The register number of an operand byte (R52). -/
def regNum (b : BitVec 8) : Nat := b.toNat % 128

/-- IMM16 (R52: fields B and C together). -/
def imm16 (i : Insn) : BitVec 16 := i.b ++ i.c

/-- The 26-bit signed OFFSET of a control transfer (R55). -/
def offset26 (i : Insn) : BitVec 26 := i.ext ++ imm16 i

/-- Whether a lane format names a register pair (Table 2.5). -/
def wideFmt (f : Nat) : Bool := f = 2 || f = 3 || f = 5

/-- Registers of one operand in a lane format. -/
def regsOf (f : Nat) : Nat := if wideFmt f then 2 else 1

/-- Bits of one operand in a lane format. -/
def bitsOfFmt (f : Nat) : Nat := 32 * regsOf f

/-- Whether a format is signed (S32, S64). -/
def signedFmt (f : Nat) : Bool := f = 1 || f = 3

/-- Whether IMM16 is sign-extended (R53: signed formats and F-formats). -/
def immSigned (f : Nat) : Bool := f = 1 || f = 3 || f = 4 || f = 5 || f = 6 || f = 7

/-! ## Legal words (R53) -/

/-- What an instruction accepts: formats, MOD values, EXT bits that may be set, registers of each operand as a multiple (0: the
operand is not used; its number is a multiple of this), and IMM: 0 not accepted, 1 accepted in place of B, 2 required, 3 the
word holds a branch target, 4 ignored without a target (R55). -/
structure Form where
  fmtOk : Bool
  modOk : Bool
  extMask : BitVec 10
  d : Nat
  a : Nat
  b : Nat
  c : Nat
  imm : Nat
deriving DecidableEq, Repr, Inhabited

/-- An operand byte against the multiple its register number must have; an unused byte is zero. -/
def operandOk (x : BitVec 8) (k : Nat) : Bool := if k = 0 then x = 0 else regNum x % k = 0

/-- Whether a word with these fields is legal (R53). -/
def Form.ok (f : Form) (i : Insn) : Bool :=
  let immB := (i.imm && decide (f.imm = 1 ∨ f.imm = 2)) || decide (f.imm = 3)
  f.fmtOk && f.modOk && (i.ext &&& ~~~f.extMask == 0 || decide (f.imm = 3)) &&
  (match f.imm with | 0 => !i.imm | 2 => i.imm | _ => true) &&
  operandOk i.d f.d && operandOk i.a f.a &&
  (immB || (operandOk i.b f.b && operandOk i.c f.c))

/-- The legality of an instruction whose D, A and B are in the word's format and that takes no MOD and no EXT. -/
def formDAB (fmts : List Nat) (i : Insn) : Form :=
  let f := i.fmt.toNat
  ⟨decide (f ∈ fmts), i.mod == 0, 0, regsOf f, regsOf f, regsOf f, 0, 1⟩

/-- As `formDAB`, with a third source C (R53: no IMM). -/
def formDABC (fmts : List Nat) (i : Insn) : Form :=
  let f := i.fmt.toNat
  ⟨decide (f ∈ fmts), i.mod == 0, 0, regsOf f, regsOf f, regsOf f, regsOf f, 0⟩

/-- As `formDAB`, with the source A alone. -/
def formDA (fmts : List Nat) (i : Insn) : Form :=
  let f := i.fmt.toNat
  ⟨decide (f ∈ fmts), i.mod == 0, 0, regsOf f, regsOf f, 0, 0, 0⟩

/-- The integer formats (Table 2.5). -/
def intFmts : List Nat := [0, 1, 2, 3]

/-! ## Operand values -/

/-- The value of `n` registers of operand `x` in a lane. -/
def opVal (gr : Group) (lane n : Nat) (x : BitVec 8) : Nat := Group.rdN n gr lane (regNum x)

/-- IMM16 extended to `w` bits (R53). -/
def immVal (i : Insn) (signed : Bool) (w : Nat) : Nat :=
  if signed then wrapN w (imm16 i).toInt else (imm16 i).toNat

/-- Operand B in `n` registers: the register, or IMM16 in its place (R53). -/
def bVal (gr : Group) (i : Insn) (lane n : Nat) (signed : Bool) : Nat :=
  if i.imm then immVal i signed (32 * n) else opVal gr lane n i.b

/-! ## The register cache (R46) -/

/-- Place an entry most recently used in a register cache of four. -/
def rcPut (rc : List (Nat × Nat)) (e : Nat × Nat) : List (Nat × Nat) := (e :: rc.filter (· ≠ e)).take 4

/-- The registers an operand byte names, `k` of them, each with its keep bit (R52). -/
def operandUses (x : BitVec 8) (k : Nat) : List (Nat × Bool) := (List.range k).map fun j => (regNum x + j, x.getLsbD 7)

/-- The registers an instruction uses, sources first, each with its keep bit (R46). -/
def regUses (f : Form) (i : Insn) : List (Nat × Bool) :=
  let bc := if i.imm || decide (f.imm = 3) then [] else operandUses i.b f.b ++ operandUses i.c f.c
  operandUses i.a f.a ++ bc ++ operandUses i.d f.d

/-- After an instruction of a slot (R40, R46): an operand found in the cache of its pipeline is the most recently used, a write that
updates its entry included (DEDUCED, log 43), and then its kept operands are in the cache. -/
def Tile.keep (t : Tile) (slot : Nat) (rs : List (Nat × Bool)) : Tile :=
  let old := Tbl.getD t.rcache (slot % 8) []
  let hit := (rs.filter fun r => decide ((slot, r.1) ∈ old)).foldl (fun c r => rcPut c (slot, r.1)) old
  let rc := (rs.filter (·.2)).foldl (fun c r => rcPut c (slot, r.1)) hit
  { t with rcache := Tbl.set [] t.rcache (slot % 8) rc }

/-- An instruction fetch of a context's group leaves its line in the instruction cache: 8 ways of 32 sets by bits [11:7] (R49). -/
def Tile.fetched (t : Tile) (ctx pc : Nat) : Tile :=
  let line := (ctx, pc / 128)
  let rest := t.icache.filter (· ≠ line)
  let mine := rest.filter fun l => l.2 % 32 = pc / 128 % 32
  let rest' := if mine.length < 8 then rest else
    match mine.getLast? with
    | some v => rest.filter (· ≠ v)
    | none => rest
  { t with icache := line :: rest' }

/-- What issue leaves behind in the tile beside the instruction's effect: the fetched line, the register cache, and the group's
no-progress timer restarted, with no request of it waiting any more (R46, R49, R70); its cycle counts in CTX_BUSY (R314). -/
def State.issued (s : State) (g : GRef) (pc : Nat) (rs : List (Nat × Bool)) : State :=
  let t := (((s.tile g.tile).fetched (s.ctxAt g) pc).keep g.slot rs).restart g.slot
  (s.setTile g.tile { t with domWaits := Tbl.del t.domWaits g.slot }).work (s.ctxAt g)

/-! ## Issue -/

/-- An illegal word executes as a counted no-operation (R54). -/
def State.illegal (s : State) (g : GRef) (gr : Group) : State := (s.putGroup g gr.next).det detIllegalInsn

/-- A tile's own SRAM is read for a group and an uncorrectable word is poisoned (R270): the reader consumes it. -/
def State.tileSram (s : State) (st : Store) (tile : Nat) : Bool × State :=
  let (ue, s1) := s.sramRead st tile
  match ue with
  | some inj => (true, s1.logRec 2 detSramUe 2 tile 0xFFFF 0 inj)
  | none => (false, s1)

/-- Issue a word: a group that is not ready leaves the state as it is (log 2); an illegal word, or one an injector makes
illegal (R432), is a counted no-operation (R54); a legal word has the effect `f`, once the instruction cache and, where it reads one, the
register file have been read: an uncorrectable cached word is fetched again, and a poisoned register loses the context (R270, log 45). -/
def State.issue (s : State) (g : GRef) (i : Insn) (fm : Form) (f : Group → State → State) : State :=
  match s.ready g with
  | none => s
  | some gr =>
    let s1 := s.issued g gr.pc.toNat (if fm.ok i then regUses fm i else [])
    let (bad, s2) := (s1.sramRead .icache g.tile).2.judge detIllegalInsn g.tile (!fm.ok i)
    if bad then s2.illegal g gr
    else if regUses fm i = [] then f gr s2
    else
      let (ue, s3) := s2.tileSram .regs g.tile
      if ue then s3.loseGroup g gr stPoisonConsumed 0 else f gr s3

/-- Write `n` registers of D in every active lane and go to the next word. -/
def writeLanes (gr : Group) (d n : Nat) (v : Nat → Nat) : Group :=
  (gr.lanes.foldl (fun (a : Group) l => Group.wrN n a l d (v l)) gr).next

/-- An instruction that writes `n` registers of D in every active lane, each from the group as it was. -/
def State.laneOp (s : State) (g : GRef) (i : Insn) (fm : Form) (n : Nat) (v : Group → Nat → Nat) : State :=
  s.issue g i fm fun gr t => t.putGroup g (writeLanes gr (regNum i.d) n (v gr))

end Sys2Proof.Machine
end

