-- ==== Sys2Proof/Machine/Blocks.lean ====
section
/-!
DEFINITION. The block barrier, the end of a group, and a block leaving its tile (R66, R93 to R96, R106, R195).
-/
namespace Sys2Proof.Machine

/-- The groups of a block that have not ended. -/
def Tile.groupsOf (t : Tile) (blk : Nat) : List (Nat × Group) := t.groups.filter fun e => e.2.block = blk

/-- Release the barrier of a block when every live group has arrived (R93, R95); the release ends a generation (R94), and the timers of the
groups whose BAR retires restart (R70). -/
def Tile.barrier (t : Tile) (blk : Nat) : Tile :=
  match Tbl.find t.blocks blk with
  | none => t
  | some b =>
    let live := t.groupsOf blk
    if b.arrived ≠ [] ∧ live.all (fun e => decide (e.1 ∈ b.arrived)) then
      { t with
        blocks := Tbl.put t.blocks blk { b with arrived := [], ordering := false, gen := b.gen + 1 }
        groups := t.groups.map fun e =>
          if e.2.block = blk ∧ e.2.wait = .barrier then (e.1, { e.2 with wait := .ready }) else e
        timers := t.timers.filter fun e => !decide (e.1 ∈ b.arrived) }
    else t

/-- Whether a claim's arrays have nothing queued or running. -/
def Claim.arraysIdle (c : Claim) : Bool :=
  let arrIdle := fun (a : Arr) => a.load.isNone && a.stream.isNone && a.drain.isNone
  c.queue.isEmpty && c.amode.isNone && arrIdle c.prim && arrIdle c.part

/-- A pump of a claim that is released (R195): FEED bytes go with their descriptors, and SINKs that no element waits for go too; the
number of descriptors discarded before they have completed. -/
def Pump.release (p : Pump) : Pump × Nat :=
  let gone := fun (d : PumpDesc) => decide (d.role = 0) || (decide (d.role = 2) && p.writeQ.isEmpty)
  ({ p with rd := p.rd.filter fun d => !gone d, wr := p.wr.filter fun d => !gone d, landing := p.landing.filter (·.fill), feed := [],
            units := [], again := [], skip := 0 },
   ((p.rd ++ p.wr).filter fun d => gone d && !d.full).length)

/-- Whether nothing of a released pump runs on (R195): no FILL, no SPILL, and no drained element waiting for a SINK that can take it. -/
def Pump.quiet (p : Pump) : Bool := p.rd.isEmpty && p.landing.isEmpty && p.wr.isEmpty

/-- A block with no group left leaves its tile once its claim's work has ended (R66, R106, R195): its slots, scratch and
claim are free. Once its arrays are idle its pumps give up what no instruction will take or give. -/
def State.blockLeave (s : State) (tile blk : Nat) : State :=
  let t := s.tile tile
  if (t.groupsOf blk).isEmpty = false then s
  else
    match t.claim with
    | some c =>
      if c.block = blk then
        if c.arraysIdle then
          let p0 := c.pump0.release
          let p1 := c.pump1.release
          (if p0.1.quiet && p1.1.quiet then s.setTile tile { t with blocks := Tbl.del t.blocks blk, claim := none }
           else s.setTile tile { t with claim := some { c with pump0 := p0.1, pump1 := p1.1 } }).detN detPumpDiscard (p0.2 + p1.2)
        else s
      else s.setTile tile { t with blocks := Tbl.del t.blocks blk }
    | none => s.setTile tile { t with blocks := Tbl.del t.blocks blk }

/-! ## A pump that is swapped out (R194) -/

/-- The FEED units that hold the last `k` bytes delivered. -/
def unitsOf (k : Nat) : List FeedUnit → List FeedUnit
  | [] => []
  | u :: us => if k ≤ (us.map (·.len)).sum then unitsOf k us else u :: us

/-- FEED bytes a pump holds that no array has consumed. -/
def Pump.unread (p : Pump) : Nat :=
  p.feed.length + ((p.landing.filter fun u => !u.fill).map fun u => (u.parts.map (·.2.length)).sum).sum

/-- What a pump keeps of itself when its context is swapped out (R194): the landing buffer and the FEED bytes are discarded, their units
stay as positions, before those that a swap has left to fetch again already, and a FILL goes back to what is in scratch. -/
def Pump.stow (p : Pump) : Pump :=
  let us := unitsOf p.unread p.units
  { p with
    rd := p.rd.map fun d => if d.role = 1 then { d with pos := d.out, full := d.full && decide (d.out = d.pos), far := 0 } else { d with far := 0 }
    landing := []
    feed := []
    units := []
    again := us ++ p.again
    skip := if us = [] then p.skip else (us.map (·.len)).sum - p.unread }

/-- What a claim keeps of itself when its context is swapped out (R106, R194). -/
def Claim.stow (c : Claim) : Claim := { c with pump0 := c.pump0.stow, pump1 := c.pump1.stow }

/-- A group ends (R61, R46, R95): its slot and its register-cache entries are free, the barrier awaits one group less, and the
last group of a block takes the block away. -/
def State.endGroup (s : State) (g : GRef) (gr : Group) : State :=
  let t := s.tile g.tile
  let rc := (Tbl.getD t.rcache (g.slot % 8) []).filter fun e => e.1 ≠ g.slot
  let t1 := { t with groups := Tbl.del t.groups g.slot, timers := Tbl.del t.timers g.slot, rcache := Tbl.set [] t.rcache (g.slot % 8) rc }
  (s.setTile g.tile (t1.barrier gr.block)).blockLeave g.tile gr.block

/-- The base of a group's spill area in the tile's scratch: above the block's visible scratch, by rank (R63, R67). -/
def Block.spillBase (b : Block) (rank : Nat) : Nat := b.base + b.visible + rank * b.spillUnits * 128

/-- A mask-stack entry's 16 bytes (R63). -/
def MEntry.bytes (e : MEntry) : List (BitVec 8) :=
  leBytes 16 (e.outer.toNat + e.els.toNat * 2 ^ 32 + (e.rpc.toNat / 2 * 2 + b2n e.loop) * 2 ^ 64)

/-- A mask-stack entry from its 16 bytes (R63: bit 64 holds the kind bit; a target is a multiple of 8). -/
def MEntry.ofBytes (v : Nat) : MEntry :=
  ⟨BitVec.ofNat 32 v, BitVec.ofNat 32 (v / 2 ^ 32), BitVec.ofNat 64 (v / 2 ^ 65 * 2), v.testBit 64⟩

/-- The `n` spilled entries from number `k` of a spill area. -/
def spilledAt (m : Memory) (base k n : Nat) : List MEntry :=
  (List.range n).map fun j => MEntry.ofBytes (leVal (Memory.reads m (base + 16 * (k + j)) 16))

/-- Write entries into a spill area from number `k`. -/
def spillWrite : Memory → Nat → Nat → List MEntry → Memory
  | m, _, _, [] => m
  | m, base, k, e :: es => spillWrite (Memory.writes m (base + 16 * k) e.bytes) base (k + 1) es

/-- resume() of R61: the end of a group with an empty stack, or the top entry's reconvergence address. -/
def State.resume (s : State) (g : GRef) (gr : Group) : State :=
  match gr.stack with
  | [] => s.endGroup g gr
  | e :: _ => s.putGroup g { gr with pc := e.rpc }

/-- Put a group that has finished a mask change: it resumes when its active mask is empty (R61). -/
def State.settle (s : State) (g : GRef) (gr : Group) : State := if gr.m = 0 then s.resume g gr else s.putGroup g gr

end Sys2Proof.Machine
end

