-- ==== Sys2Proof/Machine/LaneMem.lean ====
section
/-!
DEFINITION. Global and scratch loads and stores, prefetch and SCOPY (Table 2.10, R47 to R51, R59, R75, R80, R84, R89).
-/
namespace Sys2Proof.Machine

/-! ## Forms and addresses -/

/-- Bytes of an access width (Table 2.10). -/
def widthBytes (f : Nat) : Nat :=
  match f with
  | 0 | 1 => 1
  | 2 | 3 => 2
  | 4 => 4
  | 5 => 8
  | _ => 16

/-- Registers of an access width. -/
def widthRegs (f : Nat) : Nat := if f = 5 then 2 else if f = 6 then 4 else 1

/-- The form of a load or store (Table 2.10, R75): its data register, its address, its ordering forms, whether it takes a hint. -/
def formMem (i : Insn) (forms : List Nat) (a : Nat) (hint : Bool) : Form :=
  ⟨decide (i.fmt.toNat ≤ 6), decide (i.mod.toNat < 16) && decide (i.mod.toNat % 4 ∈ forms), if hint then 3 else 0,
   widthRegs i.fmt.toNat, a, 1, 0, 1⟩

/-- The offset of an address: IMM16 sign-extended, or the S32 value of B. -/
def laneOffset (gr : Group) (i : Insn) (lane : Nat) : Int :=
  if i.imm then (imm16 i).toInt else (gr.rd lane (regNum i.b)).toInt

/-- A lane's global address, 64 bits. -/
def globalAddr (gr : Group) (i : Insn) (lane : Nat) : Nat :=
  wrapN 64 ((gr.rd64 lane (regNum i.a)).toNat + laneOffset gr i lane)

/-- A lane's scratch address, 32 bits. -/
def scratchAddr (gr : Group) (i : Insn) (lane : Nat) : Nat :=
  wrapN 32 ((gr.rd lane (regNum i.a)).toNat + laneOffset gr i lane)

/-- An instruction that reaches memory: a stall leaves it to be presented again (log 3), a fault loses the context. -/
def State.issueGo (s : State) (g : GRef) (i : Insn) (fm : Form) (f : Group → State → Go Unit) : State :=
  match s.ready g with
  | none => s
  | some gr =>
    let run : State := s.issue g i fm fun gr t =>
      match f gr t with
      | .ok _ t1 => t1
      | .stall t1 => s.unjudged t1
      | .lose c va t1 => t1.loseGroup g gr c va
    if fm.ok i then
      match f gr s with
      | .stall t => s.unjudged t
      | _ => run
    else run

/-- Count an instruction that names a scope that does not fit (R80). -/
def State.scopeCheck (s : State) (g : GRef) (bad : Bool) : State := (s.check detWrongScope g.tile bad).2

/-! ## The tile's view of global bytes (R48, R84) -/

/-- The newest byte the store queue holds for a place. -/
def Tile.queued (t : Tile) (tgt line off : Nat) : Option (BitVec 8) :=
  (t.storeQ.reverse.find? fun e => decide (e.tgt = tgt) && decide (e.line = line) && (Tbl.find e.bytes off).isSome).bind
    fun e => Tbl.find e.bytes off

/-- Whether the store queue holds a store to a line. -/
def Tile.holdsStore (t : Tile) (tgt line : Nat) : Bool := t.storeQ.any fun e => decide (e.tgt = tgt) && decide (e.line = line)

/-- Whether the L1 holds a sector. -/
def Tile.l1Has (t : Tile) (line sec : Nat) : Bool := t.l1.any fun l => l.line = line && l.sectors.getLsbD sec

/-- A byte of the L1. -/
def Tile.l1Byte (t : Tile) (line off : Nat) : Option (BitVec 8) :=
  (t.l1.find? fun l => l.line = line && l.sectors.getLsbD (off / 32)).map fun l => Tbl.getD l.bytes off 0

/-- A hit makes its line the most recently used. -/
def Tile.l1Touch (t : Tile) (line : Nat) : Tile :=
  match t.l1.find? fun l => l.line = line with
  | some l => { t with l1 := l :: t.l1.filter fun x => x.line ≠ line }
  | none => t

/-- Fill a sector; a new line in a full set takes the place of the least recently used. DESIGN CHOICE (log 43): the set index and the tag
are those of the device line, where the spec names neither address. -/
def Tile.l1Fill (t : Tile) (line sec : Nat) (bs : Tbl (BitVec 8)) : Tile :=
  let bit : BitVec 4 := BitVec.ofNat 4 (2 ^ sec)
  match t.l1.find? fun l => l.line = line with
  | some l =>
    { t with l1 := { l with sectors := l.sectors ||| bit, bytes := Tbl.putAll l.bytes bs } :: t.l1.filter fun x => x.line ≠ line }
  | none =>
    let mine := t.l1.filter fun l => l.line % 128 = line % 128
    let rest := if mine.length < 8 then t.l1 else
      match mine.getLast? with
      | some v => t.l1.filter fun x => x.line ≠ v.line
      | none => t.l1
    { t with l1 := ⟨line, bit, bs⟩ :: rest }

/-- A store or atomic of the tile updates the valid sectors it touches (R48). -/
def Tile.l1Update (t : Tile) (line : Nat) (bs : Tbl (BitVec 8)) : Tile :=
  { t with l1 := t.l1.map fun l =>
      if l.line = line then { l with bytes := Tbl.putAll l.bytes (bs.filter fun b => l.sectors.getLsbD (b.1 / 32)) } else l }

/-! ## Loads -/

/-- The lines, by virtual line number, and sectors that accesses touch, each once. -/
def touched (as : List (Nat × Nat)) : List (Nat × List Nat) :=
  let cs := as.flatMap fun a => chunks a.1 a.2
  ((cs.map fun c => c.1 / 128).eraseDups).map fun l =>
    (l, (List.range 4).filter fun k => cs.any fun c =>
      decide (c.1 < 128 * l + 32 * k + 32) && decide (128 * l + 32 * k < c.1 + c.2))

/-- A line as a load finds it: its virtual line, its place, the sectors touched, whether it is reached through the own window (R348). -/
structure LineView where
  vline : Nat
  tgt : Nat
  addr : Nat
  secs : List Nat
  own : Bool
deriving DecidableEq, Repr, Inhabited

/-- Translate lines. -/
def State.viewLines (ctx : Nat) (acc : Access) : List (Nat × List Nat) → State → Go (List LineView)
  | [], s => .ok [] s
  | l :: ls, s =>
    (s.span ctx (128 * l.1) 128 acc).bind fun x s1 =>
      (State.viewLines ctx acc ls s1).bind fun xs s2 => .ok (⟨l.1, x.tgt, x.addr, l.2, x.own⟩ :: xs) s2

/-- Whether a line may lie in the L1: lines of other modules and of the host never do (log 19), and an access through the own window, at
system scope, passes the L1 by (R348). -/
def LineView.cached (v : LineView) : Bool := decide (v.tgt = 0) && !v.own

/-- The sectors of a line that must be fetched: those the L1 does not hold. -/
def State.missing (s : State) (tile : Nat) (v : LineView) : List Span :=
  (v.secs.filter fun k => !(v.cached && (s.tile tile).l1Has (v.addr / 128) k)).map fun k =>
    ⟨128 * v.vline + 32 * k, 32, v.tgt, v.addr + 32 * k, v.own⟩

/-- The L1's SRAM is read for the lines a load hits: a line with an uncorrectable word is invalidated, and fetched again (R270). -/
def State.l1Read (s : State) (tile : Nat) (vs : List LineView) : State :=
  (vs.filter fun v => v.cached && (s.tile tile).l1.any fun l => l.line = v.addr / 128).foldl (fun (t : State) v =>
    let (ue, t1) := t.sramRead .l1 tile
    if ue.isSome then t1.l1Drop [tile] (v.addr / 128) else t1) s

/-- Fetched sectors enter the L1, under the bytes the store queue still holds, and the directory records the tile (R48, R264). -/
def State.l1Fills (s : State) (tile : Nat) : List (Span × List (BitVec 8)) → State
  | [] => s
  | (x, bs) :: rest =>
    if x.tgt ≠ 0 ∨ x.own = true then s.l1Fills tile rest
    else
      let line := x.addr / 128
      let t := s.tile tile
      let bytes := (bytesAt (x.addr % 128) bs).map fun b => (b.1, (t.queued 0 line b.1).getD b.2)
      let s1 := s.setTile tile (t.l1Fill line (x.addr % 128 / 32) bytes)
      let s2 := match s1.lineHome line with
        | some (n, set, _) => s1.dirFill n set line tile
        | none => s1
      s2.l1Fills tile rest

/-- A byte of a line as a load of the tile sees it: queued, cached, or fetched. -/
def State.loadByte (s : State) (tile : Nat) (vs : List LineView) (got : List (Span × List (BitVec 8))) (va : Nat) : BitVec 8 :=
  match vs.find? fun v => v.vline = va / 128 with
  | none => 0
  | some v =>
    let t := s.tile tile
    let line := v.addr / 128
    match t.queued v.tgt line (va % 128) with
    | some b => b
    | none =>
      match if v.cached then t.l1Byte line (va % 128) else none with
      | some b => b
      | none =>
        match got.find? fun (e : Span × List (BitVec 8)) => decide (e.1.va ≤ va) && decide (va < e.1.va + e.1.n) with
        | some e => e.2.getD (va - e.1.va) 0
        | none => 0

/-- Read global bytes for accesses (address, length) of a group, through the tile's store queue and L1 (R48, R84); gives the view
by which a byte is read from the state before. Bytes outside the device are asked for only once no store to their line is queued, so
that an answer is never older than a store of the tile (R73, R84). -/
def State.loadGlobal (s : State) (g : GRef) (ctx hint : Nat) (as : List (Nat × Nat)) : Go (Nat → BitVec 8) :=
  (State.viewLines ctx .read (touched as) s).bind fun vs s1 =>
    let s1 := s1.l1Read g.tile vs
    let alloc := hint = 0 || hint = 2
    let need := vs.flatMap fun v => s1.missing g.tile v
    let q : MemReq := ⟨some ctx, if alloc then some g.tile else none, hint, none, false, 1⟩
    match vs.find? fun v => decide (v.tgt = 0) && tagDenied (s1.reqTag (some ctx)) (s1.lineTag (v.addr / 128)) with
    | some v => .lose stPoisonConsumed (as.headD (0, 0)).1 (s1.note detSecTagDeny (s1.chanOf v.addr))
    | none =>
    if need.any fun x => decide (x.tgt ≠ 0) && (s1.tile g.tile).holdsStore x.tgt (x.addr / 128) then .stall s1
    else
      (s1.readSpans (.group g.tile g.slot) ctx q need).bind fun bs s2 =>
        let got := zipSpans need bs
        let s3 := vs.foldl (fun (t : State) v =>
          if v.cached then t.setTile g.tile ((t.tile g.tile).l1Touch (v.addr / 128)) else t) s2
        .ok (fun va => s1.loadByte g.tile vs got va) (if alloc then s3.l1Fills g.tile got else s3)

/-- The value a load writes (Table 2.10: U8, S8, U16 and S16 extend into 32 bits). -/
def loadVal (f : Nat) (bs : List (BitVec 8)) : Nat :=
  let v := leVal bs
  if f = 1 then wrapN 32 (sVal 8 v) else if f = 3 then wrapN 32 (sVal 16 v) else v

/-- Whether an ordering form other than plain is at a narrower scope than system on memory of another module or of the host (R80). -/
def farScope (i : Insn) (vs : List LineView) : Bool :=
  decide (i.mod.toNat % 4 ≠ 0) && decide (i.mod.toNat / 4 % 4 < 3) && vs.any fun v => v.tgt ≠ 0

/-- The wrong-scope check of a global access: its translations, without their effect, say where it goes. -/
def State.farScopeCheck (s : State) (g : GRef) (i : Insn) (ctx : Nat) (acc : Access) (as : List (Nat × Nat)) : State :=
  match State.viewLines ctx acc (touched as) s with
  | .ok vs _ => s.scopeCheck g (farScope i vs)
  | _ => s

/-- The accesses of a group's active lanes. -/
def laneAccesses (gr : Group) (i : Insn) : List (Nat × Nat) :=
  gr.lanes.map fun l => (globalAddr gr i l, widthBytes i.fmt.toNat)

/-- LD (Table 2.10). -/
def execLd (g : GRef) (i : Insn) (s : State) : Host.Outcome State Fault Refusal :=
  .next (s.issueGo g i (formMem i [0, 1] 2 true) fun gr t =>
    let ctx := t.ctxOf g gr
    let as := laneAccesses gr i
    let n := widthBytes i.fmt.toNat
    (t.loadGlobal g ctx (i.ext.toNat % 4) as).bind fun rd t1 =>
      let t2 := t1.farScopeCheck g i ctx .read as
      .ok () (t2.putGroup g (writeLanes gr (regNum i.d) (widthRegs i.fmt.toNat) fun l =>
        loadVal i.fmt.toNat ((List.range n).map fun k => rd (globalAddr gr i l + k)))))

/-- The form of PREF. -/
def formPref (i : Insn) : Form :=
  ⟨i.fmt == 0, decide (i.mod.toNat < 16) && decide (i.mod.toNat % 4 = 0), 3, 0, 2, 1, 0, 1⟩

/-- PREF (Table 2.10): the touched sectors come into the L1. DESIGN CHOICE (log 43): with hint 01 or 11 they are fetched and not
allocated, as those hints have it for a load (R48). -/
def execPref (g : GRef) (i : Insn) (s : State) : Host.Outcome State Fault Refusal :=
  .next (s.issueGo g i (formPref i) fun gr t =>
    (t.loadGlobal g (t.ctxOf g gr) (i.ext.toNat % 4) (laneAccesses gr i)).bind fun _ t1 => .ok () (t1.putGroup g gr.next))

/-! ## Stores (R51, R84) -/

/-- The bytes a group stores with their addresses, lane by lane in ascending order. -/
def laneBytes (gr : Group) (i : Insn) (addr : Nat → Nat) : List (Nat × BitVec 8) :=
  gr.lanes.flatMap fun l => bytesAt (addr l) (leBytes (widthBytes i.fmt.toNat) (Group.rdN (widthRegs i.fmt.toNat) gr l (regNum i.d)))

/-- The bytes a group stores, by address: the highest active lane wins each byte (R51). -/
def storeBytes (gr : Group) (i : Insn) (addr : Nat → Nat) : Tbl (BitVec 8) :=
  (laneBytes gr i addr).foldl (fun t b => Tbl.put t b.1 b.2) []

/-- The bytes of a global store by the line they reach (TGT and line number), the place in it and the value, in lane order. -/
def placedBytes (vs : List LineView) (bs : List (Nat × BitVec 8)) : List ((Nat × Nat) × (Nat × BitVec 8)) :=
  bs.filterMap fun b => (vs.find? fun v => decide (v.vline = b.1 / 128)).map fun v => ((v.tgt, v.addr / 128), (b.1 % 128, b.2))

/-- The bytes a store writes to one line: where two virtual pages reach one byte, the highest lane still wins it (R51). -/
def lineBytes (ps : List ((Nat × Nat) × (Nat × BitVec 8))) (l : Nat × Nat) : Tbl (BitVec 8) :=
  (ps.filter fun p => p.1 = l).foldl (fun t p => Tbl.put t p.2.1 p.2.2) []

/-- An answer from another module that a tile's loads or polls still wait for or hold for a line is given up when a store of the tile to
the line enters its queue: they ask again behind the store (R73, R84). -/
def State.dropFar (s : State) (tile line : Nat) : State :=
  let mine := fun (o : Owner) (k : Nat) => match o with
    | .group t _ => decide (t = tile) && decide (k / 128 = line)
    | _ => false
  { s with ridge := { s.ridge with
      reqs := s.ridge.reqs.map fun q => if mine q.owner q.key then { q with owner := .noone } else q
      answers := s.ridge.answers.filter fun a => !mine a.owner a.key } }

/-- Stores enter the tile's store queue, a line each, and update the sectors the L1 holds (R48, R84). -/
def State.enqueueStores (s : State) (g : GRef) (gid : GroupId) (ctx hint : Nat) (rel : Bool) (ps : List ((Nat × Nat) × (Nat × BitVec 8))) : State :=
  ((ps.map (·.1)).eraseDups).foldl (fun (t : State) l =>
    let bytes := lineBytes ps l
    let tl := t.tile g.tile
    let tl1 := if l.1 = 0 then tl.l1Update l.2 bytes else tl
    let t1 := t.setTile g.tile { tl1 with storeQ := tl1.storeQ ++ [⟨g.slot, gid, ctx, l.1, l.2, bytes, hint, rel⟩] }
    if l.1 = 1 then t1.dropFar g.tile l.2 else t1) s

/-- ST (Table 2.10, R84). -/
def execSt (g : GRef) (i : Insn) (s : State) : Host.Outcome State Fault Refusal :=
  .next (s.issueGo g i (formMem i [0, 2] 2 true) fun gr t =>
    let ctx := t.ctxOf g gr
    let as := laneAccesses gr i
    let rel := decide (i.mod.toNat % 4 = 2) && decide (2 ≤ i.mod.toNat / 4 % 4)
    (State.viewLines ctx .write (touched as) t).bind fun vs t1 =>
      let t2 := t1.scopeCheck g (farScope i vs)
      let rel' := rel || farScope i vs || (decide (i.mod.toNat % 4 = 2) && vs.any (·.own))
      .ok () ((t2.enqueueStores g ((t.gidOf g gr).getD default) ctx (i.ext.toNat % 4) rel' (placedBytes vs (laneBytes gr i (globalAddr gr i)))).putGroup g gr.next))

/-! ## Scratch (R47) -/

/-- Judge the waits a tile holds on its scratch after a write (R97). -/
def Tile.judgeWaits (t : Tile) : Tile :=
  { t with waits := t.waits.map fun h =>
      if h.answer = none then
        let v : BitVec 64 := BitVec.ofNat 64 (leVal (Memory.reads t.scratch h.w.addr h.w.size))
        if (Watch.fires h.w v) = true then { h with answer := some v } else h
      else h }

/-- Write bytes to a tile's scratch, judging its waits. -/
def Tile.scratchWrite (t : Tile) (a : Nat) (bs : List (BitVec 8)) : Tile :=
  { t with scratch := Memory.writes t.scratch a bs }.judgeWaits

/-- Whether a range lies in a block's visible allocation. -/
def Block.holds (b : Block) (a n : Nat) : Bool := decide (a + n ≤ b.visible)

/-- A scratch access of a group's lanes: a lane beyond the visible allocation is a fault (R47); an ordering form at device or
system scope is performed at block scope and counted, where an access is performed at all (R80). -/
def State.scratchOp (s : State) (g : GRef) (i : Insn) (gr : Group) (as : List (Nat × Nat)) (k : Block → State → State) : Go Unit :=
  match s.blockOf g gr with
  | none => .stall s
  | some b =>
    if as.all (fun a => b.holds a.1 a.2) = false then .lose stPageFault 0 s
    else .ok () (k b (s.scopeCheck g (decide (as ≠ []) && decide (i.mod.toNat % 4 ≠ 0) && decide (2 ≤ i.mod.toNat / 4 % 4))))

/-- The scratch accesses of a group's active lanes. -/
def scratchAccesses (gr : Group) (i : Insn) : List (Nat × Nat) :=
  gr.lanes.map fun l => (scratchAddr gr i l, widthBytes i.fmt.toNat)

/-- LDS (Table 2.10). -/
def execLds (g : GRef) (i : Insn) (s : State) : Host.Outcome State Fault Refusal :=
  .next (s.issueGo g i (formMem i [0, 1] 1 false) fun gr t =>
    let (ue, t) := t.tileSram .scratch g.tile
    if ue then .lose stPoisonConsumed 0 t
    else t.scratchOp g i gr (scratchAccesses gr i) fun b t1 =>
      let m := (t1.tile g.tile).scratch
      t1.putGroup g (writeLanes gr (regNum i.d) (widthRegs i.fmt.toNat) fun l =>
        loadVal i.fmt.toNat (Memory.reads m (b.base + scratchAddr gr i l) (widthBytes i.fmt.toNat))))

/-- STS (Table 2.10, R51). -/
def execSts (g : GRef) (i : Insn) (s : State) : Host.Outcome State Fault Refusal :=
  .next (s.issueGo g i (formMem i [0, 2] 1 false) fun gr t =>
    t.scratchOp g i gr (scratchAccesses gr i) fun b t1 =>
      let bs := storeBytes gr i (scratchAddr gr i)
      let tl := t1.tile g.tile
      let tl1 := { tl with scratch := bs.foldl (fun (m : Memory) (e : Nat × BitVec 8) => Memory.write m (b.base + e.1) e.2) tl.scratch }.judgeWaits
      (t1.setTile g.tile tl1).putGroup g gr.next)

/-! ## SCOPY (R59, R89) -/

/-- The blocks of the same launch on a tile: at most one for a launch that uses SCOPY (R67). -/
def Tile.siblings (t : Tile) (b : Block) : List Block := (t.blocks.filter fun e => e.2.cmd = b.cmd).map (·.2)

/-- One of the blocks that a copy may mean: where a launch without SCOPY has several on the target tile, the spec does not say which,
and the choice is free (log 43). -/
def State.pickBlock (s : State) (x : Block) (xs : List Block) : Block × State :=
  if xs = [] then (x, s)
  else
    let (v, s1) := s.free
    ((x :: xs).getD (v.toNat % (xs.length + 1)) x, s1)

/-- The form of SCOPY. DESIGN CHOICE (log 43): the byte count is operand B, so IMM16 may take its place (R53), zero-extended. -/
def formScopy (i : Insn) : Form :=
  ⟨i.fmt == 0, i.mod == 0, 15, 1, 1, 1, 0, 1⟩

/-- SCOPY (R59): once per instruction, by the lowest active lane. The bytes are those of the source at issue (log 20). -/
def execScopy (g : GRef) (i : Insn) (s : State) : Host.Outcome State Fault Refusal :=
  .next (s.issueGo g i (formScopy i) fun gr t =>
    match t.blockOf g gr with
    | none => .stall t
    | some b =>
      if gr.m = 0 then .ok () (t.putGroup g gr.next)
      else
        let l := gr.first
        let src := (gr.rd l (regNum i.a)).toNat
        let dst := (gr.rd l (regNum i.d)).toNat
        let n := bVal gr i l 1 false
        let (bad, t1) := t.check detScopyInvalid g.tile (decide (n % 32 ≠ 0 ∨ src % 32 ≠ 0 ∨ dst % 32 ≠ 0))
        if bad then .ok () (t1.putGroup g gr.next)
        else
          let dest := tileOfSpur (spurOfTile g.tile) (i.ext.toNat % 16)
          match (t1.tile dest).siblings b with
          | [] => .lose stPageFault 0 t1
          | x :: xs =>
            let (b2, t1) := t1.pickBlock x xs
            if b.holds src n && b2.holds dst n then
              let (ue, t1) := t1.tileSram .scratch g.tile
              let tl := t1.tile g.tile
              let data := Memory.reads tl.scratch (b.base + src) n
              if ue then .lose stPoisonConsumed 0 t1
              else .ok () ((t1.setTile g.tile { tl with scopys := tl.scopys ++ [⟨g.slot, ⟨b.cmd, b.num, gr.rank⟩, dest, b2.base + dst, data⟩] }).putGroup g gr.next)
            else .lose stPageFault 0 t1)

/-- The groups of a tile that wait for their SCOPYs go on when none is left (R89). -/
def State.scwaitDone (s : State) (g : GRef) : State :=
  match s.group g with
  | some gr =>
    if gr.wait = .scwait && (s.tile g.tile).scopys.all (fun x => decide (x.slot ≠ g.slot) || !s.isGroup g x.gid) then s.putGroup g { gr with wait := .ready } else s
  | none => s

/-- SCOPY_DONE (R70, R89): the group's oldest copy is written into the target tile's scratch; a target block that has left takes
nothing (log 20). -/
def execScopyDone (g : GRef) (s : State) : Host.Outcome State Fault Refusal :=
  .next (
    let t := s.tile g.tile
    match t.scopys.find? fun x => x.slot = g.slot with
    | none => s
    | some x =>
      let s1 := s.setTile g.tile { t with scopys := t.scopys.erase x }
      let dest := s1.tile x.dstTile
      let there := dest.blocks.any fun b =>
        decide (b.2.cmd = x.gid.cmd) && decide (b.2.base ≤ x.dst) && decide (x.dst + x.data.length ≤ b.2.base + b.2.visible)
      ((if there then s1.setTile x.dstTile (dest.scratchWrite x.dst x.data) else s1).restartOf g x.gid).scwaitDone g)

/-- The form of SCWAIT. -/
def formScwait (i : Insn) : Form :=
  ⟨i.fmt == 0, i.mod == 0, 0, 0, 0, 0, 0, 0⟩

/-- SCWAIT (R89): wait until every SCOPY of the group has completed. -/
def execScwait (g : GRef) (i : Insn) (s : State) : Host.Outcome State Fault Refusal :=
  .next (s.issue g i (formScwait i) fun gr t => (t.putGroup g { gr.next with wait := .scwait }).scwaitDone g)

end Sys2Proof.Machine
end

