-- ==== Sys2Proof/Machine/Stat.lean ====
section
/-!
DEFINITION. Tensor statistics (05 R158 to R162): the record of Table 5.6, the additions of the units, and STRD, STCLR and STADD.
-/
namespace Sys2Proof.Machine

/-- What is added to a statistics record (Table 5.7): the six counters in the record's order, and the exponent for MAXEXP. -/
structure StatAdd where
  zeros : Nat
  sats : Nat
  nonfin : Nat
  trunc : Nat
  spread : Nat
  elems : Nat
  maxexp : Option Int
deriving DecidableEq, Repr, Inhabited

/-- Nothing to add. -/
def StatAdd.none : StatAdd := ⟨0, 0, 0, 0, 0, 0, Option.none⟩

/-- The larger of two exponents, where there are any. -/
def maxOpt : Option Int → Option Int → Option Int
  | some a, some b => some (max a b)
  | some a, Option.none => some a
  | Option.none, b => b

/-- Both additions. -/
def StatAdd.plus (a b : StatAdd) : StatAdd :=
  ⟨a.zeros + b.zeros, a.sats + b.sats, a.nonfin + b.nonfin, a.trunc + b.trunc, a.spread + b.spread, a.elems + b.elems,
   maxOpt a.maxexp b.maxexp⟩

/-- What one drained element adds (R159). -/
def StatAdd.ofElem (e : ElemStat) : StatAdd := ⟨b2n e.zero, b2n e.sat, b2n e.nonfin, 0, 0, 1, e.exp⟩

/-- A counter field's 8 bytes with a saturating addition (R17, R158). -/
def satAdd64 (bs : List (BitVec 8)) (k n : Nat) : List (BitVec 8) :=
  let v := min (leVal ((bs.drop (8 * k)).take 8) + n) (2 ^ 64 - 1)
  bs.take (8 * k) ++ leBytes 8 v ++ bs.drop (8 * k + 8)

/-- MAXEXP of a record's bytes. -/
def maxExpOf (bs : List (BitVec 8)) : Int := sVal 32 (leVal ((bs.drop 48).take 4))

/-- The record with MAXEXP raised to at least `e`. -/
def raiseMaxExp (bs : List (BitVec 8)) (e : Int) : List (BitVec 8) :=
  bs.take 48 ++ leBytes 4 (wrapN 32 (max (maxExpOf bs) e)) ++ bs.drop 52

/-- Apply an addition to a record's bytes (Table 5.6). -/
def StatAdd.apply (a : StatAdd) (bs : List (BitVec 8)) : List (BitVec 8) :=
  let r := satAdd64 (satAdd64 (satAdd64 (satAdd64 (satAdd64 (satAdd64 bs 0 a.zeros) 1 a.sats) 2 a.nonfin) 3 a.trunc) 4 a.spread)
    5 a.elems
  match a.maxexp with
  | some e => raiseMaxExp r e
  | Option.none => r

/-- A cleared record (R158): every counter 0 and MAXEXP -2^31. -/
def statClear : List (BitVec 8) := leBytes 48 0 ++ leBytes 4 0x80000000

/-- The address of the record of an identifier, or none where the context has no table (R158, R161). -/
def State.statVa (s : State) (ctx id : Nat) : Option Nat :=
  match s.ctx ctx with
  | some c => if c.words.stEn then some (c.words.stBase.toNat + 64 * (id % 2 ^ c.words.stLog2)) else Option.none
  | Option.none => Option.none

/-- A unit's addition to a record: one step at the record's cistern (R160); without a table it is dropped and counted (R161). An
operation with nothing to add adds nothing. -/
def State.statAdd (s : State) (o : Owner) (ctx id : Nat) (a : StatAdd) : Go Unit :=
  if a = StatAdd.none then .ok () s
  else
    match s.statVa ctx id with
    | Option.none => .ok () (s.note detStatDropped (o.tile.getD 0x10000))
    | some va => (s.vModify o ctx va 52 a.apply).bind fun _ s1 => .ok () s1

/-- The form of a statistics instruction (Table 5.8): D, A, B and whether MOD names a field. -/
def formStat (i : Insn) (d b : Nat) (fld : Bool) : Form :=
  ⟨i.fmt == 0, if fld then decide (i.mod.toNat < 7) else i.mod == 0, 0, d, 1, b, 0, 0⟩

/-- Whether the tile's store queue still holds a store to a line of a record: the instruction comes after it (R73, R162). -/
def State.behindStores (s : State) (g : GRef) (ctx va : Nat) : Bool :=
  match s.spans ctx va 52 .read with
  | .ok sp _ => sp.any fun x => (s.tile g.tile).holdsStore x.tgt (x.addr / 128)
  | _ => false

/-- STRD (Table 5.8, R161): the field of the record of A, in every active lane. -/
def execStrd (g : GRef) (i : Insn) (s : State) : Host.Outcome State Fault Refusal :=
  .next (s.issueGo g i (formStat i 2 0 true) fun gr t =>
    if gr.m = 0 then .ok () (t.putGroup g gr.next)
    else
      let ctx := t.ctxOf g gr
      match t.statVa ctx (gr.rd gr.first (regNum i.a)).toNat with
      | Option.none => .ok () (t.putGroup g (writeLanes gr (regNum i.d) 2 fun _ => 0))
      | some va =>
        if t.behindStores g ctx va then .stall t else
        (t.vRead (.group g.tile g.slot) ctx (plainReq (some ctx)) va 52).bind fun bs t1 =>
          let k := i.mod.toNat
          let v := if k = 6 then wrapN 64 (maxExpOf bs) else leVal ((bs.drop (8 * k)).take 8)
          .ok () (t1.putGroup g (writeLanes gr (regNum i.d) 2 fun _ => v)))

/-- A change of the record of A by STCLR or STADD; in a context without a table it is not performed and is counted (R161). -/
def State.statInsn (s : State) (g : GRef) (gr : Group) (i : Insn) (f : List (BitVec 8) → List (BitVec 8)) : Go Unit :=
  if gr.m = 0 then .ok () (s.putGroup g gr.next)
  else
    let ctx := s.ctxOf g gr
    let va := s.statVa ctx (gr.rd gr.first (regNum i.a)).toNat
    let (bad, s1) := s.check detStatDropped g.tile va.isNone
    match va with
    | Option.none => .ok () (s1.putGroup g gr.next)
    | some a =>
      if bad then .ok () (s1.putGroup g gr.next)
      else if s1.behindStores g ctx a then .stall s1
      else (s1.vModify (.group g.tile g.slot) ctx a 52 f).bind fun _ s2 => .ok () (s2.putGroup g gr.next)

/-- STCLR (Table 5.8). -/
def execStclr (g : GRef) (i : Insn) (s : State) : Host.Outcome State Fault Refusal :=
  .next (s.issueGo g i (formStat i 0 0 false) fun gr t => t.statInsn g gr i fun _ => statClear)

/-- STADD (Table 5.8). -/
def execStadd (g : GRef) (i : Insn) (s : State) : Host.Outcome State Fault Refusal :=
  .next (s.issueGo g i (formStat i 0 2 true) fun gr t =>
    let b := gr.rd64 gr.first (regNum i.b)
    t.statInsn g gr i fun bs =>
      if i.mod.toNat = 6 then raiseMaxExp bs (sVal 32 b.toNat) else satAdd64 bs i.mod.toNat b.toNat)

end Sys2Proof.Machine
end

