-- ==== Sys2Proof/Machine/Num.lean ====
section
/-!
DEFINITION. Exact numbers, the formats of Table 5.1, and the one rounding of R143 with its overflow rules R144, R145.
-/
namespace Sys2Proof.Machine

/-- An exact value: NaN, an infinity, or (-1)^neg times m times 2^e (m = 0 is a zero that keeps its sign). -/
inductive FVal where
  | nan
  | inf (neg : Bool)
  | fin (neg : Bool) (m : Nat) (e : Int)
deriving DecidableEq, Repr, Inhabited

/-- A floating-point format (R140): exponent bits, mantissa bits, bias, and its non-finite encodings: 0 none, 1 as IEEE
754, 2 the single NaN of E4M3. -/
structure Fmt where
  eb : Nat
  mb : Nat
  bias : Nat
  kind : Nat
deriving DecidableEq, Repr, Inhabited

def fF64 : Fmt := ⟨11, 52, 1023, 1⟩
def fF32 : Fmt := ⟨8, 23, 127, 1⟩
def fF16 : Fmt := ⟨5, 10, 15, 1⟩
def fBF16 : Fmt := ⟨8, 7, 127, 1⟩
def fE5M2 : Fmt := ⟨5, 2, 15, 1⟩
def fE4M3 : Fmt := ⟨4, 3, 7, 2⟩
def fE3M2 : Fmt := ⟨3, 2, 3, 0⟩
def fE2M3 : Fmt := ⟨2, 3, 1, 0⟩
def fE2M1 : Fmt := ⟨2, 1, 1, 0⟩

/-- Bits of an encoding. -/
def Fmt.width (f : Fmt) : Nat := 1 + f.eb + f.mb

/-- The exponent of the smallest normal value (R140). -/
def Fmt.emin (f : Fmt) : Int := 1 - (f.bias : Int)

/-- The encoding of the largest finite magnitude (Table 5.1). -/
def Fmt.maxCode (f : Fmt) : Nat :=
  match f.kind with
  | 1 => (2 ^ f.eb - 1) * 2 ^ f.mb - 1
  | 2 => 2 ^ (f.eb + f.mb) - 2
  | _ => 2 ^ (f.eb + f.mb) - 1

/-- The canonical NaN (Table 5.1; 0 for a format without one, R145). -/
def Fmt.nanCode (f : Fmt) : Nat :=
  match f.kind with
  | 1 => (2 ^ f.eb - 1) * 2 ^ f.mb + 2 ^ (f.mb - 1)
  | 2 => 2 ^ (f.eb + f.mb) - 1
  | _ => 0

/-- The encoding of an infinity's magnitude, in a format that has one. -/
def Fmt.infCode (f : Fmt) : Nat := (2 ^ f.eb - 1) * 2 ^ f.mb

/-- The sign bit's weight. -/
def Fmt.signBit (f : Fmt) (neg : Bool) : Nat := if neg then 2 ^ (f.eb + f.mb) else 0

/-- The value of an encoding (R140). -/
def Fmt.decode (f : Fmt) (c : Nat) : FVal :=
  let neg := c.testBit (f.eb + f.mb)
  let e := bitsOf c f.mb f.eb
  let m := bitsOf c 0 f.mb
  if f.kind = 1 ∧ e = 2 ^ f.eb - 1 then (if m = 0 then .inf neg else .nan)
  else if f.kind = 2 ∧ e = 2 ^ f.eb - 1 ∧ m = 2 ^ f.mb - 1 then .nan
  else if e = 0 then .fin neg m (f.emin - f.mb)
  else .fin neg (2 ^ f.mb + m) ((e : Int) - f.bias - f.mb)

/-- `m` times 2^`k`, and whether a non-zero part was cut off below 1. -/
def scaleNat (m : Nat) (k : Int) : Nat × Nat × Nat :=
  if 0 ≤ k then (m <<< k.toNat, 0, 1)
  else (m >>> (-k).toNat, m % 2 ^ (-k).toNat, 2 ^ (-k).toNat)

/-- Round the magnitude `q` + `r` / `d` to an integer: 0 nearest even, 1 toward zero, 2 toward plus infinity, 3 toward
minus infinity (Table 2.7, R143). -/
def roundMag (mode : Nat) (neg : Bool) (q r d : Nat) : Nat :=
  match mode with
  | 0 => if 2 * r > d ∨ (2 * r = d ∧ q % 2 = 1) then q + 1 else q
  | 1 => q
  | 2 => if r ≠ 0 ∧ neg = false then q + 1 else q
  | _ => if r ≠ 0 ∧ neg = true then q + 1 else q

/-- The exponent of the leading bit of `m` times 2^`e` (m not 0). -/
def leadExp (m : Nat) (e : Int) : Int := e + (bitLen m : Int) - 1

/-- The magnitude code of m times 2^e rounded to the format's grid as if the exponent range had no upper limit (R143:
the grid below the smallest normal is the subnormal grid). -/
def Fmt.roundCode (f : Fmt) (mode : Nat) (neg : Bool) (m : Nat) (e : Int) : Nat :=
  if m = 0 then 0
  else
    let le := max (leadExp m e) f.emin
    let (q, r, d) := scaleNat m (e - (le - f.mb))
    (le - f.emin).toNat * 2 ^ f.mb + roundMag mode neg q r d

/-- Whether an overflow in this rounding direction stays finite (R144). -/
def staysFinite (mode : Nat) (neg : Bool) : Bool :=
  mode = 1 || (mode = 2 && neg) || (mode = 3 && !neg)

/-- A conversion's result (R144, R145): the code, whether it saturated, and whether it wrote a non-finite value. -/
structure Conv where
  code : Nat
  sat : Bool
  nonfin : Bool
deriving DecidableEq, Repr, Inhabited

/-- What an overflow writes (R144, Table 5.2). -/
def Fmt.overflow (f : Fmt) (mode : Nat) (sat neg : Bool) : Conv :=
  if sat ∨ staysFinite mode neg ∨ f.kind = 0 then ⟨f.signBit neg + f.maxCode, true, false⟩
  else if f.kind = 1 then ⟨f.signBit neg + f.infCode, false, true⟩
  else ⟨f.nanCode, false, true⟩

/-- The encoding of an exact value after one rounding (R143 to R145). -/
def Fmt.convert (f : Fmt) (mode : Nat) (sat : Bool) : FVal → Conv
  | .nan => ⟨f.nanCode, false, f.kind ≠ 0⟩
  | .inf neg =>
    match f.kind with
    | 1 => ⟨f.signBit neg + f.infCode, false, true⟩
    | 2 => if sat then ⟨f.signBit neg + f.maxCode, true, false⟩ else ⟨f.nanCode, false, true⟩
    | _ => ⟨f.signBit neg + f.maxCode, true, false⟩
  | .fin neg m e =>
    let c := f.roundCode mode neg m e
    if f.maxCode < c then f.overflow mode sat neg else ⟨f.signBit neg + c, false, false⟩

/-- The code alone. -/
def Fmt.encode (f : Fmt) (mode : Nat) (sat : Bool) (v : FVal) : Nat := (f.convert mode sat v).code

/-- An integer as an exact value. -/
def ofInt (i : Int) : FVal := .fin (decide (i < 0)) i.natAbs 0

/-- The integer an exact finite value rounds to. -/
def roundInt (mode : Nat) (neg : Bool) (m : Nat) (e : Int) : Int :=
  let (q, r, d) := scaleNat m e
  let n := roundMag mode neg q r d
  if neg then -(n : Int) else (n : Int)

/-- A value as an integer of the range `l` to `h`: one rounding, saturating; NaN gives 0 (R58, R145); with whether it
saturated. -/
def toIntSat (mode : Nat) (l h : Int) : FVal → Int × Bool
  | .nan => (0, false)
  | .inf neg => (if neg then l else h, true)
  | .fin neg m e =>
    let i := roundInt mode neg m e
    (clampI l h i, decide (i < l ∨ h < i))

/-- Signed exact sum of two finite magnitudes: sign, magnitude, exponent; `mz` is the sign an exact cancellation gets. -/
def addFin (mz : Bool) (n1 : Bool) (m1 : Nat) (e1 : Int) (n2 : Bool) (m2 : Nat) (e2 : Int) : FVal :=
  let e := min e1 e2
  let a : Int := (m1 <<< (e1 - e).toNat : Nat)
  let b : Int := (m2 <<< (e2 - e).toNat : Nat)
  let s := (if n1 then -a else a) + (if n2 then -b else b)
  if s = 0 then (if m1 = 0 ∧ m2 = 0 ∧ n1 = n2 then .fin n1 0 0 else .fin mz 0 0)
  else .fin (decide (s < 0)) s.natAbs e

/-- Exact sum (IEEE 754; an exact zero sum of unlike signs is -0 only toward minus infinity). -/
def fAdd (mode : Nat) : FVal → FVal → FVal
  | .nan, _ => .nan
  | _, .nan => .nan
  | .inf a, .inf b => if a = b then .inf a else .nan
  | .inf a, _ => .inf a
  | _, .inf b => .inf b
  | .fin n1 m1 e1, .fin n2 m2 e2 => addFin (mode = 3) n1 m1 e1 n2 m2 e2

/-- Sign inverted. -/
def fNeg : FVal → FVal
  | .nan => .nan
  | .inf n => .inf (!n)
  | .fin n m e => .fin (!n) m e

/-- Exact product (IEEE 754). In a product of the arrays two infinities, which R119 does not name, give an infinity with the product of their signs
(DESIGN CHOICE, log 48). -/
def fMul : FVal → FVal → FVal
  | .nan, _ => .nan
  | _, .nan => .nan
  | .inf a, .inf b => .inf (a != b)
  | .inf a, .fin n m _ => if m = 0 then .nan else .inf (a != n)
  | .fin n m _, .inf b => if m = 0 then .nan else .inf (n != b)
  | .fin n1 m1 e1, .fin n2 m2 e2 => .fin (n1 != n2) (m1 * m2) (e1 + e2)

/-- The value as a signed count of units 2^`e`, for `e` at most its exponent. -/
def signedUnits (e : Int) (n : Bool) (m : Nat) (e1 : Int) : Int :=
  let a : Int := (m <<< (e1 - e).toNat : Nat)
  if n then -a else a

/-- Order of two values that are not NaN: whether the first is below the second. -/
def fLt : FVal → FVal → Bool
  | .nan, _ => false
  | _, .nan => false
  | .inf a, .inf b => a && !b
  | .inf a, .fin .. => a
  | .fin .., .inf b => !b
  | .fin n1 m1 e1, .fin n2 m2 e2 =>
    let e := min e1 e2
    decide (signedUnits e n1 m1 e1 < signedUnits e n2 m2 e2)

/-- Whether two values compare equal (zeros of either sign are equal). -/
def fEq (a b : FVal) : Bool := a ≠ .nan && b ≠ .nan && !fLt a b && !fLt b a

/-- The sign of a value that is not NaN. -/
def fSign : FVal → Bool
  | .nan => false
  | .inf n => n
  | .fin n _ _ => n

/-- IEEE 754 minimumNumber: a NaN operand gives the other one, and -0 is below +0. -/
def fMin (a b : FVal) : FVal :=
  if a = .nan then b else if b = .nan then a
  else if fLt a b then a else if fLt b a then b else if fSign a then a else b

/-- IEEE 754 maximumNumber. -/
def fMax (a b : FVal) : FVal :=
  if a = .nan then b else if b = .nan then a
  else if fLt a b then b else if fLt b a then a else if fSign a then b else a

/-- The condition MOD[2:0] of ISET and FSET (Table 2.6): 0 EQ, 1 NE, 2 LT, 3 LE, 4 GT, 5 GE. -/
def condOf (k : Nat) (lt eq : Bool) : Bool :=
  match k with
  | 0 => eq
  | 1 => !eq
  | 2 => lt
  | 3 => lt || eq
  | 4 => !(lt || eq)
  | _ => !lt

/-! ## Bounds of the approximate functions (R57) -/

/-- The exponent of the grid at magnitude m times 2^e: one unit in the last place there is 2^ulpExp. -/
def Fmt.ulpExp (f : Fmt) (m : Nat) (e : Int) : Int := max (leadExp m e) f.emin - f.mb

/-- A dyadic number: i times 2^e. -/
structure Dy where
  i : Int
  e : Int
deriving DecidableEq, Repr, Inhabited

/-- Sum of dyadic numbers. -/
def Dy.add (a b : Dy) : Dy :=
  let e := min a.e b.e
  ⟨a.i * 2 ^ (a.e - e).toNat + b.i * 2 ^ (b.e - e).toNat, e⟩

/-- Product of dyadic numbers. -/
def Dy.mul (a b : Dy) : Dy := ⟨a.i * b.i, a.e + b.e⟩

/-- Negation of a dyadic number. -/
def Dy.neg (a : Dy) : Dy := ⟨-a.i, a.e⟩

/-- Order of dyadic numbers. -/
def Dy.le (a b : Dy) : Bool := decide (0 ≤ (Dy.add b (Dy.neg a)).i)

/-- A dyadic number as an exact value. -/
def Dy.toF (a : Dy) : FVal := .fin (decide (a.i < 0)) a.i.natAbs a.e

/-- Fraction bits of the fixed-point enclosures below. -/
def fxBits : Nat := 256

/-- The sum of the first terms of a power series t, t x / n0, ... in fixed point: `k` terms, each the one before times
`x` divided by n(n+1) steps of `d`. -/
def seriesFx : Nat → Int → Int → Nat → Nat → Int
  | 0, _, _, _, _ => 0
  | k + 1, t, x, n, d =>
    t + seriesFx k ((t * x / 2 ^ fxBits) / ((if d = 1 then n else n * (n + 1) : Nat) : Int)) x (n + d) d

/-- ln 2 in fixed point: the sum of 2 / ((2k+1) 3^(2k+1)). -/
def ln2Fx : Nat → Nat → Nat → Nat
  | 0, _, _ => 0
  | k + 1, p, n => 2 * p / n + ln2Fx k (p / 9) (n + 2)

/-- ln 2 times 2^fxBits, low by less than 2^10 units. -/
def ln2 : Int := (ln2Fx 100 (2 ^ fxBits / 3) 1 : Nat)

/-- arctan(1/q) in fixed point by its alternating series. -/
def atanFx : Nat → Nat → Nat → Nat → Bool → Int
  | 0, _, _, _, _ => 0
  | k + 1, p, q2, n, neg => (if neg then -((p / n : Nat) : Int) else (p / n : Nat)) + atanFx k (p / q2) q2 (n + 2) (!neg)

/-- pi times 2^fxBits by Machin's formula, within 2^12 units. -/
def piFx : Int :=
  16 * atanFx 120 (2 ^ fxBits / 5) 25 1 false - 4 * atanFx 60 (2 ^ fxBits / 239) (239 * 239) 1 false

/-- A value in fixed point with fxBits fraction bits, rounded down. -/
def toFx (a : Dy) : Int :=
  if 0 ≤ a.e + fxBits then a.i * 2 ^ (a.e + fxBits).toNat else a.i / 2 ^ (-(a.e + fxBits)).toNat

/-- 2^x for a dyadic x, as an integer part of the exponent and a fixed-point factor in 1 to 2, within 2^-200. -/
def exp2Dy (x : Dy) : Dy :=
  let fx := toFx x
  let n := fx / 2 ^ fxBits
  let r := fx % 2 ^ fxBits
  ⟨seriesFx 70 (2 ^ fxBits) (r * ln2 / 2 ^ fxBits) 1 1, n - fxBits⟩

/-- sin(pi y) for y in fixed point, 0 to 1/2. -/
def sinPiFx (y : Int) : Int :=
  let z := y * piFx / 2 ^ fxBits
  seriesFx 50 z (-(z * z / 2 ^ fxBits)) 2 2

/-- cos(pi y) for y in fixed point, 0 to 1/2. -/
def cosPiFx (y : Int) : Int :=
  let z := y * piFx / 2 ^ fxBits
  seriesFx 50 (2 ^ fxBits) (-(z * z / 2 ^ fxBits)) 1 2

/-- sin(pi x) within 2^-150: the argument is reduced to a quarter turn. -/
def sinPiDy (x : Dy) : Dy :=
  let y := toFx x % (2 * 2 ^ fxBits)
  let h := y % 2 ^ fxBits
  let s := if 2 * h ≤ 2 ^ fxBits then sinPiFx h else sinPiFx (2 ^ fxBits - h)
  ⟨if y < 2 ^ fxBits then s else -s, -fxBits⟩

/-- cos(pi x) = sin(pi (x + 1/2)). -/
def cosPiDy (x : Dy) : Dy := sinPiDy (Dy.add x ⟨1, -1⟩)

/-- log2 of m times 2^e by bits: squaring the mantissa doubles the logarithm; `k` fraction bits, rounded down. -/
def log2Frac : Nat → Nat → Nat → Nat
  | 0, _, acc => acc
  | k + 1, y, acc =>
    let z := y * y / 2 ^ fxBits
    if 2 * 2 ^ fxBits ≤ z then log2Frac k (z / 2) (2 * acc + 1) else log2Frac k z (2 * acc)

/-- log2 of a positive value, within 2^-170 of it. -/
def log2Dy (m : Nat) (e : Int) : Dy :=
  let le := leadExp m e
  let y := (scaleNat m (e - le + fxBits)).1
  ⟨le * 2 ^ 180 + (log2Frac 180 y 0 : Nat), -180⟩

/-- Whether the finite encoding `c` lies within two units in the last place of the value x, known within 2^slack of a
unit (R57); an infinity is accepted where x overflows. -/
def withinUlps (f : Fmt) (c : Nat) (x : Dy) (slack : Dy) : Bool :=
  match f.decode c with
  | .nan => false
  | .inf n => decide (f.maxCode < f.roundCode 0 n x.i.natAbs x.e) && (n == decide (x.i < 0))
  | .fin n m e =>
    let r : Dy := ⟨if n then -(m : Int) else m, e⟩
    let u : Dy := Dy.add ⟨2, f.ulpExp x.i.natAbs x.e⟩ slack
    Dy.le (Dy.add x (Dy.neg u)) r && Dy.le r (Dy.add x u)

/-- Quotient 1/(m 2^e) to 300 bits. -/
def recipDy (m : Nat) (e : Int) : Dy :=
  let k := bitLen m + 300
  ⟨(2 ^ k / m : Nat), -e - k⟩

/-- Square root of m 2^e to about 200 bits. -/
def sqrtDy (m : Nat) (e : Int) : Dy :=
  let k : Nat := if (e % 2 = 0) then 400 else 401
  ⟨isqrt (m * 2 ^ k), (e - k) / 2⟩

end Sys2Proof.Machine
end

