-- ==== Sys2Proof/Machine/Well.lean ====
section
/-!
DEFINITION. The arithmetic of the arrays and the well: operand formats (Table 4.1), products truncated at the floor (R149),
accumulators (R112, R118), raw records (R127, R128), and the conversion of a drain (R124, R125, R144 to R147, R202).
-/
namespace Sys2Proof.Machine

/-! ## Operand formats (Table 4.1) -/

/-- The bound constant C of a format. -/
def arrC (f : Nat) : Int :=
  match f with
  | 0 | 2 => 9
  | 1 | 3 => 16
  | 4 => 5
  | 5 | 6 => 3
  | 7 => 2
  | 8 => 8
  | 9 => 0
  | 10 => 16
  | _ => 1

/-- Bits of an element. -/
def arrBits (f : Nat) : Nat :=
  match f with
  | 4 | 5 => 6
  | 6 => 4
  | 9 | 10 => 16
  | _ => 8

/-- Whether a format has E8M0 block scales. -/
def isMx (f : Nat) : Bool := decide (2 ≤ f) && decide (f ≤ 7)

/-- Bytes of a K-row of 32 elements. -/
def blockRow (f : Nat) : Nat := 4 * arrBits f

/-- Bytes of a weight block with its scale area (R110). -/
def blockBytes (f : Nat) : Nat := 64 * blockRow f + (if isMx f ∨ f = 11 then 64 else 0)

/-- Bytes of a streamed row of 64 elements (R110). -/
def streamRow (f : Nat) : Nat := 8 * arrBits f + (if isMx f ∨ f = 11 then 2 else 0)

/-- The pairs of streamed and block format that R109 allows. -/
def pairOk (a b : Nat) : Bool :=
  (decide (a ≤ 6) && decide (b ≤ 6)) || (decide (a = b) && decide (7 ≤ a) && decide (a ≤ 11))

/-- A signed integer as an exact value with exponent `e`. -/
def intVal (i e : Int) : FVal := .fin (decide (i < 0)) i.natAbs e

/-- The value of an element's code before its scale (R140, R141). -/
def arrElem (f code : Nat) : FVal :=
  match f with
  | 0 | 2 => fE4M3.decode code
  | 1 | 3 => fE5M2.decode code
  | 4 => fE3M2.decode code
  | 5 => fE2M3.decode code
  | 6 => fE2M1.decode code
  | 7 => intVal (sVal 8 code) (-6)
  | 8 => intVal (sVal 8 code) 0
  | 9 => fBF16.decode code
  | 10 => fF16.decode code
  | _ => intVal (sVal 8 code) (-7)

/-- The power of two that scales an element (R113, R141): the exponent word of a per-tensor format, the E8M0 byte or the inline
exponent `raw`; none for a scale that makes the element NaN. -/
def arrScale (f : Nat) (e : Int) (raw : Nat) : Option Int :=
  if isMx f then (if raw = 255 then none else some ((raw : Int) - 127))
  else if f = 11 then (if raw = 0x7FFF then none else some (sVal 16 raw))
  else if f = 9 then some 0
  else some e

/-- An element after its scale. -/
def scaledBy (v : FVal) : Option Int → FVal
  | none => .nan
  | some k =>
    match v with
    | .fin n m e => .fin n m (e + k)
    | x => x

/-- Whether a finite element reaches 2^`tau` in magnitude (R117). -/
def breaks (tau : Int) : FVal → Bool
  | .fin _ m e =>
    let k := min e tau
    decide (m ≠ 0) && decide (2 ^ (tau - k).toNat ≤ m * 2 ^ (e - k).toNat)
  | _ => false

/-! ## Products (R149, R119) -/

/-- What a streamed row adds into one accumulator: the sum of its truncated products, how many were truncated, and the flags. -/
structure DotRes where
  sum : Int
  trunc : Nat
  nan : Bool
  pinf : Bool
  ninf : Bool
deriving DecidableEq, Repr, Inhabited

/-- An exact value in units 2^(`beta` - 95), truncated toward zero, and whether a part was lost (R149). -/
def toUnits (beta : Int) (n : Bool) (m : Nat) (e : Int) : Int × Bool :=
  let (q, r, _) := scaleNat m (e + 95 - beta)
  (if n then -(q : Int) else q, decide (r ≠ 0))

/-- Add one product, or any other exact term, to a sum. -/
def DotRes.add (d : DotRes) (beta : Int) : FVal → DotRes
  | .nan => { d with nan := true }
  | .inf true => { d with ninf := true }
  | .inf false => { d with pinf := true }
  | .fin n m e =>
    let (t, c) := toUnits beta n m e
    { d with sum := d.sum + t, trunc := d.trunc + (if c then 1 else 0) }

/-- A value times 2^`k`. -/
def shiftVal (k : Int) : FVal → FVal
  | .fin n m e => .fin n m (e + k)
  | x => x

/-- A dot product against base `beta`, every product times 2^-`sh` (R122, R149). -/
def dot (beta : Int) (sh : Nat) : List FVal → List FVal → DotRes
  | x :: xs, w :: ws => (dot beta sh xs ws).add beta (shiftVal (-(sh : Int)) (fMul x w))
  | _, _ => ⟨0, 0, false, false, false⟩

/-! ## Accumulators (R112, R118) -/

/-- A cleared accumulator. -/
def Acc.zero : Acc := ⟨0, false, false, false, false⟩

/-- The largest positive and the most negative s192. -/
def satS192 (neg : Bool) : BitVec 192 := if neg then BitVec.ofInt 192 (-(2 ^ 191)) else BitVec.ofInt 192 (2 ^ 191 - 1)

/-- Whether an addition takes X out of range. -/
def Acc.overflows (a : Acc) (v : Int) : Bool :=
  !a.ovf && (decide (a.x.toInt + v < -(2 ^ 191)) || decide (2 ^ 191 ≤ a.x.toInt + v))

/-- Set OVF with a sign; an accumulator that is OVF already keeps its X. -/
def Acc.setOvf (a : Acc) (neg : Bool) : Acc := if a.ovf then a else { a with ovf := true, x := satS192 neg }

/-- One addition (R118); `over` says that it is judged to leave the range. -/
def Acc.addInt (a : Acc) (v : Int) (ovr : Bool) : Acc :=
  if a.ovf then a
  else if ovr then a.setOvf (decide (a.x.toInt + v < 0))
  else { a with x := BitVec.ofInt 192 (a.x.toInt + v) }

/-- OR flags into an accumulator. -/
def Acc.orFlags (a : Acc) (nan pinf ninf : Bool) : Acc :=
  { a with nan := a.nan || nan, pinf := a.pinf || pinf, ninf := a.ninf || ninf }

/-! ## Raw records (Table 4.6, R127, R128) -/

/-- A raw record: its accumulator, its base, and whether a reserved bit is set. -/
structure RawRec where
  acc : Acc
  base : Int
  resv : Bool
deriving DecidableEq, Repr, Inhabited

/-- A record from its 256 bits. -/
def RawRec.ofNat (v : Nat) : RawRec :=
  ⟨⟨BitVec.ofNat 192 v, bitOf v 208, bitOf v 209, bitOf v 210, bitOf v 211⟩, sVal 16 (v / 2 ^ 192), decide (v / 2 ^ 212 ≠ 0)⟩

/-- The 256 bits of a record. -/
def RawRec.toNat (r : RawRec) : Nat :=
  r.acc.x.toNat + wrapN 16 r.base * 2 ^ 192 + b2n r.acc.nan * 2 ^ 208 + b2n r.acc.pinf * 2 ^ 209 + b2n r.acc.ninf * 2 ^ 210 +
  b2n r.acc.ovf * 2 ^ 211

/-- X of a record in units of a row's floor, and whether bits are lost (R128). -/
def RawRec.units (r : RawRec) (beta : Int) : Int × Bool :=
  let x := r.acc.x.toInt
  toUnits beta (decide (x < 0)) x.natAbs (r.base - 95)

/-- Whether adding a record into an accumulator of base `beta` sets OVF there. -/
def Acc.placeOver (a : Acc) (beta : Int) (r : RawRec) : Bool :=
  if r.acc.ovf then !a.ovf else a.overflows (r.units beta).1

/-- Add a record into an accumulator of base `beta` (R128); `over` says that the addition is judged to leave the range. The
Boolean says that non-zero bits were lost. -/
def Acc.place (a : Acc) (beta : Int) (r : RawRec) (ovr : Bool) : Acc × Bool :=
  let b := a.orFlags r.acc.nan r.acc.pinf r.acc.ninf
  if r.acc.ovf then (b.setOvf (decide (r.acc.x.toInt < 0)), false)
  else (b.addInt (r.units beta).1 ovr, (r.units beta).2)

/-! ## Derivative factors (Table 7.1) -/

/-- A factor: infinite toward minus infinity (softplus where E overflows), or a fraction num / den times 2^e. -/
inductive Factor where
  | ninf
  | frac (num : Int) (den : Nat) (e : Int)
deriving DecidableEq, Repr, Inhabited

/-- e^(-y) rounded to F32 to nearest even (R202), as a code: beyond magnitude 200 it is 0 or infinite. -/
def expNegF32 (y : Dy) : Nat :=
  let big : Dy := ⟨200, 0⟩
  if Dy.le big y then 0
  else if Dy.le y (Dy.neg big) then fF32.infCode
  else
    let t : Dy := ⟨-(toFx y * 2 ^ fxBits / ln2), -fxBits⟩
    if y.i = 0 then 0x3F800000 else fF32.encode 0 false (exp2Dy t).toF

/-- The exact factor of a finite saved output (Table 7.1, R202). -/
def factorOf (fn : Nat) (y : Dy) : Factor :=
  let one : Dy := ⟨1, 0⟩
  let ofDy := fun (d : Dy) => Factor.frac d.i 1 d.e
  match fn with
  | 0 => .frac 1 1 0
  | 1 => ofDy (Dy.mul y (Dy.add one (Dy.neg y)))
  | 2 => ofDy (Dy.add one (Dy.neg (Dy.mul y y)))
  | 3 => if 0 < y.i then .frac 1 1 0 else .frac 0 1 0
  | 4 =>
    match fF32.decode (expNegF32 y) with
    | .fin n m e => ofDy (Dy.add one ⟨if n then (m : Int) else -(m : Int), e⟩)
    | _ => .ninf
  | _ =>
    let u := Dy.add one y
    let u2 := Dy.mul u u
    let k := min u2.e 0
    let num := u2.i * 2 ^ (u2.e - k).toNat
    .frac num (num + 2 ^ (-k).toNat).toNat 0

/-- A quotient as an exact value for one rounding: 400 bits and a bit below them that says whether more follow. DESIGN CHOICE (log 48): a zero,
of an X that is not 0 with a factor of exactly 0 too, is +0, as R118 has it for an overflowed accumulator and R146 for X = 0. -/
def divVal (neg : Bool) (num den : Nat) (e : Int) : FVal :=
  if num = 0 then .fin false 0 0
  else if den = 1 then .fin neg num e
  else
    let k := 400 + bitLen den
    let q := num * 2 ^ k / den
    .fin neg (2 * q + b2n (num * 2 ^ k % den ≠ 0)) (e - k - 1)

/-! ## What a drain sees of an accumulator -/

/-- The drained value (R118, R119, R124, R146, R202): an overflowed accumulator with its sign (or, with a zero factor, a zero), one that is
overflowed and has a flag of R119 too, which counts as non-finite, or a value. -/
inductive Drained where
  | ovr (neg : Bool)
  | overZero
  | overFlag (v : FVal)
  | val (v : FVal)
deriving DecidableEq, Repr, Inhabited

/-- An accumulator times 2^-s times g. A flag of R119 drains as that rule states it, whatever g is (log 22). -/
def drainVal (a : Acc) (beta s : Int) (fn : Nat) (y : FVal) : Drained :=
  let g : Option Factor :=
    if fn = 0 then some (.frac 1 1 0)
    else match y with
      | .fin n m e => some (factorOf fn ⟨if n then -(m : Int) else m, e⟩)
      | _ => none
  match g with
  | none => .val .nan
  | some g =>
    let gneg := match g with | .ninf => true | .frac k _ _ => decide (k < 0)
    let gzero := match g with | .ninf => false | .frac k _ _ => decide (k = 0)
    let x := a.x.toInt
    let xneg := decide (x < 0)
    if a.nan || a.pinf || a.ninf then
      let v : FVal := if a.nan || (a.pinf && a.ninf) then .nan else .inf a.ninf
      if a.ovf then .overFlag v else .val v
    else if a.ovf then (if gzero then .overZero else .ovr (xneg != gneg))
    else if x = 0 then .val (.fin false 0 0)
    else
      match g with
      | .ninf => .val (.inf (!xneg))
      | .frac k d e => .val (divVal (xneg != decide (k < 0)) (x.natAbs * k.natAbs) d (e + beta - 95 - s))

/-! ## Drain formats (Table 4.5) -/

/-- Bits of a drained or memory element (Tables 4.5 and 6.3). -/
def memBits (f : Nat) : Nat :=
  match f with
  | 4 | 5 => 6
  | 6 => 4
  | 9 | 10 => 16
  | 11 | 13 => 32
  | 12 => 64
  | 15 => 256
  | _ => 8

/-- The floating-point format of a code, if it names one: an MX code gives its element format. -/
def memFmt (f : Nat) : Option Fmt :=
  match f with
  | 0 | 2 => some fE4M3
  | 1 | 3 => some fE5M2
  | 4 => some fE3M2
  | 5 => some fE2M3
  | 6 => some fE2M1
  | 9 => some fBF16
  | 10 => some fF16
  | 11 => some fF32
  | 12 => some fF64
  | _ => none

/-- floor(log2) of a finite non-zero value. -/
def expOf : FVal → Option Int
  | .fin _ m e => if m = 0 then none else some (leadExp m e)
  | _ => none

/-- A float element as it is written, with its statistics. -/
def floatElem (f : Fmt) (c : Conv) (ovr : Bool) : Nat × ElemStat :=
  let v := f.decode c.code
  let zero := match v with | .fin _ 0 _ => true | _ => false
  (c.code, ⟨zero, (c.sat || ovr) && !c.nonfin, c.nonfin, expOf v⟩)

/-- An integer element of `w` bits as it is written, with its statistics. -/
def intElem (w : Nat) (i : Int) (sat : Bool) : Nat × ElemStat :=
  (wrapN w i, ⟨decide (i = 0), sat, false, if i = 0 then none else some (Nat.log2 i.natAbs : Nat)⟩)

/-- One element to a format without block scales (R143 to R145). -/
def drainElem (fmt : Nat) (sat : Bool) (d : Drained) : Nat × ElemStat :=
  match memFmt fmt with
  | some f =>
    match d with
    | .val v => floatElem f (f.convert 0 sat v) false
    | .ovr n => floatElem f (f.overflow 0 sat n) true
    | .overZero => floatElem f ⟨0, false, false⟩ true
    | .overFlag v => let r := floatElem f (f.convert 0 sat v) false; (r.1, { r.2 with sat := false, nonfin := true })
  | none =>
    let w := memBits fmt
    let l : Int := -(2 ^ (w - 1) : Nat)
    let h : Int := (2 ^ (w - 1) - 1 : Nat)
    match d with
    | .val v => let r := toIntSat 0 l h v; intElem w r.1 r.2
    | .ovr n => intElem w (if n then l else h) true
    | .overZero => intElem w 0 true
    | .overFlag v => let r := intElem w (toIntSat 0 l h v).1 false; (r.1, { r.2 with nonfin := true })

/-- emax of an MX element format (R147). -/
def mxEmax (fmt : Nat) : Int :=
  match fmt with
  | 2 => 8
  | 3 => 15
  | 4 => 4
  | 7 => 0
  | _ => 2

/-- One element of an MX block with scale exponent X (R147). -/
def mxElem (fmt : Nat) (x : Int) (neg : Bool) (m : Nat) (e : Int) : Nat × Bool × Bool :=
  if fmt = 7 then
    let i := roundInt 0 neg m (e - x + 6)
    (wrapN 8 (clampI (-127) 127 i), decide (i < -127 ∨ 127 < i), decide (i = 0))
  else
    match memFmt fmt with
    | some f =>
      let c := f.roundCode 0 neg m (e - x)
      (f.signBit neg + min c f.maxCode, decide (f.maxCode < c), decide (c = 0))
    | none => (0, false, true)

/-- The largest exponent of the finite non-zero values of a row; an overflowed one counts as larger than all. -/
def mxLead (ds : List Drained) : Option Int :=
  ds.foldl (fun a d => maxOpt' a (match d with
    | .val v => expOf v
    | .ovr _ => some 1000
    | .overZero | .overFlag _ => none)) none
where
  /-- The larger of two exponents, where there are any. -/
  maxOpt' (a b : Option Int) : Option Int :=
    match a, b with
    | some x, some y => some (max x y)
    | some x, none => some x
    | none, y => y

/-- A row of values as one MX block (R147): the scale byte and the elements with their statistics. -/
def mxBlock (fmt : Nat) (ds : List Drained) : Nat × List (Nat × ElemStat) :=
  let bad := ds.any fun d => match d with
    | .val .nan => true
    | .val (.inf _) => true
    | .overFlag _ => true
    | _ => false
  if bad then (255, ds.map fun _ => (0, ⟨false, false, true, none⟩))
  else
    let x : Int := match mxLead ds with
      | none => -127
      | some l => clampI (-127) 127 (l - mxEmax fmt)
    ((x + 127).toNat, ds.map fun d =>
      match d with
      | .val (.fin n m e) => let r := mxElem fmt x n m e; (r.1, ⟨r.2.2, r.2.1, false, some x⟩)
      | .ovr n => ((mxElem fmt x n 1 1000).1, ⟨false, true, false, some x⟩)
      | _ => (0, ⟨true, true, false, some x⟩))

/-- Elements packed from the lowest bit (R110), as bytes. -/
def packElems (w : Nat) (cs : List Nat) : List (BitVec 8) :=
  leBytes (cs.length * w / 8) (cs.foldr (fun c acc => c % 2 ^ w + acc * 2 ^ w) 0)

/-- Element `i` of packed bytes, given as their little-endian value. -/
def wellElem (w v i : Nat) : Nat := bitsOf v (w * i) w

end Sys2Proof.Machine
end

