-- ==== Sys2Proof/Machine/Array.lean ====
section
/-!
DEFINITION. The matrix arrays and the well (04): issue into the queue, start conditions, and what each instruction does when it
completes; UWAIT (R86); the arrays' progress timer (R107).
-/
namespace Sys2Proof.Machine

/-! ## The claim and its arrays -/

/-- A cleared buffer (R106). -/
def ArrBuf.empty : ArrBuf := ⟨0, 0, [], []⟩

/-- An array of a fresh claim (R106). -/
def Arr.empty : Arr := ⟨ArrBuf.empty, ArrBuf.empty, [], [], none, none, none⟩

/-- A pump of a fresh claim. -/
def Pump.empty : Pump := ⟨[], [], [], [], [], [], [], 0⟩

/-- The claim a block takes (R106): everything zero, FWD. -/
def Claim.fresh (blk : Nat) : Claim := ⟨blk, false, [], none, 0, Arr.empty, Arr.empty, Pump.empty, Pump.empty, 0, 0⟩

/-- An array of a claim: 0 primary, 1 partner. -/
def Claim.arr (c : Claim) (a : Nat) : Arr := if a = 0 then c.prim else c.part

/-- Set an array of a claim. -/
def Claim.setArr (c : Claim) (a : Nat) (v : Arr) : Claim := if a = 0 then { c with prim := v } else { c with part := v }

/-- A pump of a claim. -/
def Claim.pump (c : Claim) (p : Nat) : Pump := if p = 0 then c.pump0 else c.pump1

/-- Set a pump of a claim. -/
def Claim.setPump (c : Claim) (p : Nat) (v : Pump) : Claim := if p = 0 then { c with pump0 := v } else { c with pump1 := v }

/-- Set a tile's claim. -/
def State.putClaim (s : State) (tile : Nat) (c : Claim) : State := s.setTile tile { s.tile tile with claim := some c }

/-- Whether a group's block holds the array claim of its tile (R68). -/
def State.holdsClaim (s : State) (g : GRef) : Bool :=
  match s.group g, (s.tile g.tile).claim with
  | some gr, some c => decide (c.block = gr.block)
  | _, _ => false

/-- An accumulator. -/
def Arr.accAt (a : Arr) (row col : Nat) : Acc := Tbl.getD a.acc (32 * row + col) Acc.zero

/-- Set an accumulator. -/
def Arr.putAcc (a : Arr) (row col : Nat) (v : Acc) : Arr := { a with acc := Tbl.set Acc.zero a.acc (32 * row + col) v }

/-- The state of a row. -/
def Arr.rowAt (a : Arr) (row : Nat) : WellRow := Tbl.getD a.rows row ⟨0, 0⟩

/-- Set the state of a row. -/
def Arr.putRow (a : Arr) (row : Nat) (v : WellRow) : Arr := { a with rows := Tbl.set ⟨0, 0⟩ a.rows row v }

/-- The base of a row. -/
def Arr.beta (a : Arr) (row : Nat) : Int := (a.rowAt row).base.toInt

/-- Count `k` truncations in a row, saturating (R112, R149). -/
def Arr.addTrunc (a : Arr) (row k : Nat) : Arr :=
  let r := a.rowAt row
  a.putRow row { r with trunc := BitVec.ofNat 32 (min (r.trunc.toNat + k) (2 ^ 32 - 1)) }

/-- Clear rows `f` to `f + n - 1`; `beta` gives each row's new base (R114), or its own where a drain keeps it (R124). -/
def Arr.clearRows (a : Arr) (f n : Nat) (beta : Nat → Int) : Arr :=
  let a1 := { a with acc := a.acc.filter fun e => !(decide (32 * f ≤ e.1) && decide (e.1 < 32 * (f + n))) }
  (List.range n).foldl (fun (b : Arr) i => b.putRow (f + i) ⟨BitVec.ofInt 16 (beta (f + i)), 0⟩) a1

/-! ## Fields of an array instruction (Table 4.2) -/

/-- The array it names. -/
def ArrInsn.arr (i : ArrInsn) : Nat := i.ext / 512 % 2

/-- Its source code (ALOAD, ASTREAM, GPAIR). -/
def ArrInsn.src (i : ArrInsn) : Nat := i.ext % 4

/-- Its destination or source code in EXT[8:7] (WDRAIN, WACC). -/
def ArrInsn.port87 (i : ArrInsn) : Nat := i.ext / 128 % 4

/-- n of the drain-port instructions. -/
def ArrInsn.rows (i : ArrInsn) : Nat := i.ext % 128 + 1

/-- SH of ASTREAM. -/
def ArrInsn.sh (i : ArrInsn) : Nat := i.ext / 4 % 128

/-- FN of WDRAIN. -/
def ArrInsn.fn (i : ArrInsn) : Nat := i.mod / 4

/-- The exponent word of a register (R113: S32). -/
def expWord (b : BitVec 32) : Int := b.toInt

/-- The form of an array instruction: formats, MOD, EXT bits, operand registers; only a block with the claim executes it (R68). -/
def State.formArr (s : State) (g : GRef) (fmtOk modOk : Bool) (extMask : BitVec 10) (d a b c : Nat) : Form :=
  ⟨fmtOk && s.holdsClaim g, modOk, extMask, d, a, b, c, 0⟩

/-- Issue an array or well instruction (R104, R105): it enters the queue with the operands of the lowest active lane; while the
queue is full it is presented again. -/
def State.issueArr (s : State) (g : GRef) (i : Insn) (fm : Form) (op : Nat) : State :=
  s.issueGo g i fm fun gr t =>
    match (t.tile g.tile).claim with
    | none => .ok () (t.putGroup g gr.next)
    | some c =>
      if gr.m = 0 then .ok () (t.putGroup g gr.next)
      else if 16 ≤ c.queue.length then .stall t
      else
        let rd := fun (x : BitVec 8) (k : Nat) => gr.rd gr.first (regNum x + k)
        let x : ArrInsn := ⟨op, i.fmt.toNat, i.mod.toNat, i.ext.toNat, rd i.d 0, rd i.d 1, rd i.a 0, rd i.b 0, rd i.b 1, rd i.c 0,
          rd i.c 1, c.seq, 0, false, []⟩
        .ok () ((t.putClaim g.tile { c with queue := c.queue ++ [x], seq := c.seq + 1 }).putGroup g gr.next)

/-- The form of ALOAD; only a block with the array claim executes it (R68). -/
def formAload (s : State) (g : GRef) (i : Insn) : Form :=
  s.formArr g (decide (i.fmt.toNat ≤ 11)) (i.mod == 0 && decide (i.ext.toNat % 4 ≠ 3)) 0x203 0 1 1 0

/-- ALOAD (Table 4.2). -/
def execAload (g : GRef) (i : Insn) (s : State) : Host.Outcome State Fault Refusal :=
  .next (s.issueArr g i (formAload s g i) 0)

/-- The form of ASTREAM; only a block with the array claim executes it (R68). -/
def formAstream (s : State) (g : GRef) (i : Insn) : Form :=
  s.formArr g (decide (i.fmt.toNat ≤ 11)) (decide (i.mod.toNat < 4) && decide (i.ext.toNat % 4 ≠ 3)) 0x3FF 1 1 1 2

/-- ASTREAM (Table 4.2). -/
def execAstream (g : GRef) (i : Insn) (s : State) : Host.Outcome State Fault Refusal :=
  .next (s.issueArr g i (formAstream s g i) 1)

/-- The form of GPAIR; only a block with the array claim executes it (R68). -/
def formGpair (s : State) (g : GRef) (i : Insn) : Form :=
  s.formArr g (decide (i.fmt.toNat ≤ 11)) (decide (i.mod.toNat < 16) && decide (i.ext.toNat % 4 ≠ 3)) 0x003 2 1 1 1

/-- GPAIR (Table 4.2). -/
def execGpair (g : GRef) (i : Insn) (s : State) : Host.Outcome State Fault Refusal :=
  .next (s.issueArr g i (formGpair s g i) 2)

/-- The form of WDRAIN; only a block with the array claim executes it (R68). DESIGN CHOICE (log 43): the fields are used or unused by the
instruction, not by a MOD value of it, so that register C is any register where FN = 0. -/
def formWdrain (s : State) (g : GRef) (i : Insn) : Form :=
  s.formArr g (decide (i.fmt.toNat ≠ 14)) (decide (i.mod.toNat / 4 < 6) && decide (i.ext.toNat / 128 % 4 ≠ 3))
    0x3FF 1 1 2 1

/-- WDRAIN (Table 4.2, Table 4.5, R125). -/
def execWdrain (g : GRef) (i : Insn) (s : State) : Host.Outcome State Fault Refusal :=
  .next (s.issueArr g i (formWdrain s g i) 3)

/-- The form of WREDUCE (R126). DESIGN CHOICE (log 43): register B is any register also in kinds 0 and 1, which read no y. -/
def formWreduce (s : State) (g : GRef) (i : Insn) : Form :=
  let dotK := decide (i.mod.toNat % 4 = 2)
  let fmtOk := if dotK then decide (i.fmt.toNat = 9 ∨ i.fmt.toNat = 11) else i.fmt == 0
  s.formArr g fmtOk (decide (i.mod.toNat % 4 ≠ 3)) 0x27F 1 1 1 0

/-- WREDUCE (Table 4.2, R126). -/
def execWreduce (g : GRef) (i : Insn) (s : State) : Host.Outcome State Fault Refusal :=
  .next (s.issueArr g i (formWreduce s g i) 4)

/-- The form of WACC; only a block with the array claim executes it (R68). -/
def formWacc (s : State) (g : GRef) (i : Insn) : Form :=
  s.formArr g (i.fmt == 0) (i.mod == 0 && decide (i.ext.toNat / 128 % 4 ≠ 3)) 0x3FF 0 1 1 0

/-- WACC (Table 4.2). -/
def execWacc (g : GRef) (i : Insn) (s : State) : Host.Outcome State Fault Refusal :=
  .next (s.issueArr g i (formWacc s g i) 5)

/-- The form of WCLR; only a block with the array claim executes it (R68). -/
def formWclr (s : State) (g : GRef) (i : Insn) : Form :=
  s.formArr g (i.fmt == 0) (i.mod == 0) 0x27F 0 1 1 0

/-- WCLR (Table 4.2). -/
def execWclr (g : GRef) (i : Insn) (s : State) : Host.Outcome State Fault Refusal :=
  .next (s.issueArr g i (formWclr s g i) 6)

/-- The form of AMODE; only a block with the array claim executes it (R68). -/
def formAmode (s : State) (g : GRef) (i : Insn) : Form :=
  s.formArr g (i.fmt == 0) (i.mod == 0) 0x001 0 0 0 0

/-- AMODE (Table 4.2). -/
def execAmode (g : GRef) (i : Insn) (s : State) : Host.Outcome State Fault Refusal :=
  .next (s.issueArr g i (formAmode s g i) 7)

/-! ## Start (R131, R133, R134) -/

/-- The first rows an instruction names on array `a`, as its stream port adds into them. -/
def ArrInsn.streamRows (i : ArrInsn) (a : Nat) : Nat × Nat :=
  if i.op = 2 then ((if a = 0 then i.d.toNat else i.d2.toNat), 64) else (i.d.toNat, i.c.toNat)

/-- The rows a drain-port instruction names, as ranges: its source or target rows, and WREDUCE's target row. -/
def ArrInsn.drainRows (i : ArrInsn) : List (Nat × Nat) :=
  (i.a.toNat, i.rows) :: (if i.op = 4 then [(i.d.toNat, 1)] else [])

/-- The rows a running drain-port instruction has not finished with (R131): a WDRAIN to a pump or a WACC from one finishes row by row. -/
def ArrInsn.rowsLeft (i : ArrInsn) : List (Nat × Nat) :=
  (i.a.toNat + i.done, i.rows - i.done) :: (if i.op = 4 then [(i.d.toNat, 1)] else [])

/-- Whether two row ranges meet. -/
def rangesMeet (x y : Nat × Nat) : Bool := decide (x.1 < y.1 + y.2) && decide (y.1 < x.1 + x.2)

/-- The arrays an instruction occupies. -/
def ArrInsn.arrays (i : ArrInsn) : List Nat := if i.op = 2 ∨ i.op = 7 then [0, 1] else [i.arr]

/-- Whether an instruction exchanges the buffers of array `a` when it starts (SWAP). -/
def ArrInsn.swaps (i : ArrInsn) (a : Nat) : Bool :=
  if i.op = 2 then bitOf i.mod a else decide (i.op = 1) && bitOf i.mod 0

/-- Whether a stream instruction clears the rows of array `a` first (CLR). -/
def ArrInsn.clears (i : ArrInsn) (a : Nat) : Bool := if i.op = 2 then bitOf i.mod (2 + a) else bitOf i.mod 1

/-- Exchange the active and shadow buffers. -/
def Arr.swap (a : Arr) : Arr := { a with active := a.shadow, shadow := a.active }

/-- Whether the conditions of Table 4.7 hold for a stream on an array. -/
def Arr.streamFree (a : Arr) (i : ArrInsn) (k : Nat) : Bool :=
  a.stream.isNone && (!i.swaps k || a.load.isNone) &&
  (match a.drain with
   | some d => d.rowsLeft.all fun r => !rangesMeet r (i.streamRows k)
   | none => true)

/-- Whether the conditions of Table 4.7 hold for a drain-port instruction. -/
def Claim.drainFree (c : Claim) (i : ArrInsn) : Bool :=
  let a := c.arr i.arr
  a.drain.isNone &&
  (match a.stream with
   | some t => i.drainRows.all fun r => !rangesMeet r (t.streamRows i.arr)
   | none => true) &&
  (if i.op = 3 ∧ i.port87 ≠ 0 then
    match (c.arr (1 - i.arr)).drain with
    | some d => !(decide (d.op = 3) && decide (d.port87 = i.port87))
    | none => true
   else true)

/-- Whether every port of an array is free. -/
def Arr.idle (a : Arr) : Bool := a.load.isNone && a.stream.isNone && a.drain.isNone

/-- Whether an instruction at the head of the queue may start (R130, R131). -/
def Claim.mayStart (c : Claim) (i : ArrInsn) : Bool :=
  c.amode.isNone &&
  match i.op with
  | 0 => (c.arr i.arr).load.isNone
  | 1 => (c.arr i.arr).streamFree i i.arr
  | 2 => c.prim.streamFree i 0 && c.part.streamFree i 1
  | 7 => c.prim.idle && c.part.idle
  | _ => c.drainFree i

/-- Whether an exponent word is in range. -/
def expOk (b : BitVec 32) : Bool := decide (-2048 ≤ expWord b) && decide (expWord b ≤ 2047)

/-- Whether rows `f` to `f + n - 1` lie in 0 to 127. -/
def rowsOk (f n : Nat) : Bool := decide (f + n ≤ 128) && decide (1 ≤ n)

/-- A multiple of 32. -/
def mul32 (b : BitVec 32) : Bool := decide (b.toNat % 32 = 0)

/-- The block format a stream meets on array `a`: after its SWAP. -/
def Claim.blockFmt (c : Claim) (i : ArrInsn) (a : Nat) : Nat :=
  if i.swaps a then (c.arr a).shadow.fmt else (c.arr a).active.fmt

/-- Row bytes of a drain format (Table 4.5). -/
def drainRow (f : Nat) : Nat := 4 * memBits f

/-- Whether an instruction is valid (R133). -/
def Claim.valid (c : Claim) (i : ArrInsn) : Bool :=
  match i.op with
  | 0 => expOk i.b && (decide (i.src ≠ 0) || mul32 i.a)
  | 1 =>
    rowsOk i.d.toNat i.c.toNat && expOk i.b && pairOk i.fmt (c.blockFmt i i.arr) && (decide (i.fmt = 11) || decide (i.sh = 0)) &&
    (decide (i.src ≠ 0) || (mul32 i.a && mul32 i.c2 && decide (streamRow i.fmt ≤ i.c2.toNat)))
  | 2 =>
    rowsOk i.d.toNat 64 && rowsOk i.d2.toNat 64 && expOk i.b && pairOk i.fmt (c.blockFmt i 0) && pairOk i.fmt (c.blockFmt i 1) &&
    (decide (i.src ≠ 0) || (mul32 i.a && mul32 i.c && decide (streamRow i.fmt ≤ i.c.toNat)))
  | 3 =>
    rowsOk i.a.toNat i.rows && (decide (i.port87 ≠ 0) || mul32 i.d) &&
    (decide (i.fn = 0) || (decide (i.fmt = 9 ∨ i.fmt = 10 ∨ i.fmt = 11) && mul32 i.c)) &&
    (decide (i.fmt ≠ 15) || (!bitOf i.mod 1 && decide (i.b = 0)))
  | 4 =>
    let g := 2 ^ (i.mod / 4)
    rowsOk i.a.toNat i.rows && rowsOk i.d.toNat 1 && decide (i.rows % g = 0) && decide (i.rows / g ≤ 32) &&
    !rangesMeet (i.a.toNat, i.rows) (i.d.toNat, 1) && (decide (i.mod % 4 ≠ 2) || mul32 i.b)
  | 5 => rowsOk i.a.toNat i.rows && (decide (i.port87 ≠ 0) || mul32 i.b)
  | 6 => rowsOk i.a.toNat i.rows && decide (-4096 ≤ i.b.toInt) && decide (i.b.toInt ≤ 4095)
  | _ => true

/-- The scratch ranges an instruction reads and writes (R110, R124 to R128). -/
def ArrInsn.ranges (i : ArrInsn) : List (Nat × Nat) :=
  let rowsAt := fun (a st n w : Nat) => (List.range n).map fun k => (a + k * st, w)
  match i.op with
  | 0 => if i.src = 0 then [(i.a.toNat, blockBytes i.fmt)] else []
  | 1 => if i.src = 0 then rowsAt i.a.toNat i.c2.toNat i.c.toNat (streamRow i.fmt) else []
  | 2 => if i.src = 0 then rowsAt i.a.toNat i.c.toNat 64 (streamRow i.fmt) else []
  | 3 =>
    (if i.port87 = 0 then [(i.d.toNat, i.rows * drainRow i.fmt + if isMx i.fmt then i.rows else 0)] else []) ++
    (if i.fn = 0 then [] else [(i.c.toNat, i.rows * drainRow i.fmt)])
  | 4 => if i.mod % 4 = 2 then [(i.b.toNat, i.rows * drainRow i.fmt)] else []
  | 5 => if i.port87 = 0 then [(i.b.toNat, i.rows * 1024)] else []
  | _ => []

/-- The scratch ranges an instruction writes: a WDRAIN's destination (R124). -/
def ArrInsn.writes (i : ArrInsn) : List (Nat × Nat) := if i.op = 3 ∧ i.port87 = 0 then i.ranges.take 1 else []

/-- The pump an instruction takes its data from, by source code, 0 for none. -/
def ArrInsn.feedFrom (i : ArrInsn) : Nat := if i.op ≤ 2 then i.src else if i.op = 5 then i.port87 else 0

/-- Whether an instruction must act after an earlier one that still runs, so that the results are those of the order of issue (R85, R104):
both take from one pump, or one writes scratch that the other reaches. -/
def ArrInsn.after (i j : ArrInsn) : Bool :=
  decide (j.seq < i.seq) &&
  ((decide (i.feedFrom ≠ 0) && decide (i.feedFrom = j.feedFrom)) ||
   j.writes.any (fun w => i.ranges.any (rangesMeet w)) || i.writes.any (fun w => j.ranges.any (rangesMeet w)))

/-- The instructions that run on an array. -/
def Arr.running (a : Arr) : List ArrInsn := a.load.toList ++ a.stream.toList ++ a.drain.toList

/-- Whether an instruction waits for an earlier one that runs. -/
def Claim.behind (c : Claim) (i : ArrInsn) : Bool := (c.prim.running ++ c.part.running).any i.after

/-- The progress timers of arrays restart as a port of them advances (R107). -/
def Claim.advance (c : Claim) (as : List Nat) : Claim :=
  { c with timer0 := if 0 ∈ as then 0 else c.timer0, timer1 := if 1 ∈ as then 0 else c.timer1 }

/-- The ports of some arrays of a claim advance: their timers restart (R107), and the tile-cycle counts for the claim's context (R314). -/
def State.putAdvanced (s : State) (tile : Nat) (c : Claim) (as : List Nat) : State :=
  let t := s.putClaim tile (c.advance as)
  match as, Tbl.find (s.tile tile).blocks c.block with
  | [], _ => t
  | _, none => t
  | _, some b => t.work b.cmd.ctx

/-- Put an instruction on its ports. -/
def Claim.occupy (c : Claim) (i : ArrInsn) : Claim :=
  match i.op with
  | 0 => let a := c.arr i.arr; c.setArr i.arr { a with load := some i }
  | 1 =>
    let a := c.arr i.arr
    c.setArr i.arr { (if i.swaps i.arr then a.swap else a) with stream := some i }
  | 2 =>
    { c with prim := { (if i.swaps 0 then c.prim.swap else c.prim) with stream := some i }
             part := { (if i.swaps 1 then c.part.swap else c.part) with stream := some i } }
  | 7 => { c with amode := some i }
  | _ => let a := c.arr i.arr; c.setArr i.arr { a with drain := some i }

/-- A fault of a tile's array or pump loses its block's context (R332): unit 1 array, 2 pump. -/
def State.loseClaim (s : State) (tile unit : Nat) (c : Claim) (code va : Nat) : State :=
  match Tbl.find (s.tile tile).blocks c.block with
  | some b => s.lose b.cmd.ctx code (BitVec.ofNat 64 va) (lostAt unit tile) (some b.cmd)
  | none => s

/-- Bytes in a pump's write queue (Table 6.6: 16 KiB). DESIGN CHOICE (log 48): the elements' bytes alone; a queued row's scale byte
takes no room. -/
def Pump.queueBytes (p : Pump) : Nat := (p.writeQ.map (·.bits)).sum / 8

/-- Whether a running instruction cannot take or give its next unit (R135): its turn at a pump has come (DEDUCED, log 43: one that waits for
an earlier instruction of its pump lacks no data), and the K-row, row or record row has not arrived, or the write queue cannot accept the
next row. -/
def Claim.starved (c : Claim) (i : ArrInsn) : Bool :=
  let short := fun (p u total : Nat) =>
    !c.behind i && decide ((c.pump (p - 1)).feed.length < min u (total - i.taken.length))
  match i.op with
  | 0 => decide (i.src ≠ 0) && short i.src (blockRow i.fmt) (blockBytes i.fmt)
  | 1 => decide (i.src ≠ 0) && short i.src (streamRow i.fmt) (streamRow i.fmt * i.c.toNat)
  | 2 => decide (i.src ≠ 0) && short i.src (streamRow i.fmt) (streamRow i.fmt * 64)
  | 3 => decide (i.port87 ≠ 0) && decide (16384 < (c.pump (i.port87 - 1)).queueBytes + drainRow i.fmt + if isMx i.fmt then 1 else 0)
  | 5 => decide (i.port87 ≠ 0) && short i.port87 1024 1024
  | _ => false

/-- Whether an array is frozen (R135, R136): an instruction that runs on it, or in BWD mode on either array, is starved. -/
def Claim.frozen (c : Claim) (a : Nat) : Bool :=
  (if c.bwd then c.prim.running ++ c.part.running else (c.arr a).running).any c.starved

/-- ARRAY_INSN_START (R104, R131): the head of the queue starts once its conditions hold; an invalid one is dropped and counted (R134), and so is
GPAIR in FWD mode (R123); one that is both is counted as invalid alone (DESIGN CHOICE, log 43); a scratch range beyond the visible allocation is a
fault (R111). On a frozen array no port advances (R136), so that its progress timer goes on (R107). -/
def execArrayInsnStart (tile : Nat) (s : State) : Host.Outcome State Fault Refusal :=
  .next (
    match (s.tile tile).claim with
    | none => s
    | some c =>
      match c.queue with
      | [] => s
      | i :: rest =>
        if c.mayStart i = false then s
        else
          let drop := fun (t : State) => (t.putClaim tile { c with queue := rest }).blockLeave tile c.block
          let (bad, s1) := s.check detArrayInvalid tile (!c.valid i)
          if bad then drop s1
          else
            let (off, s2) := if i.op = 2 then s1.check detAmodeMismatch tile (!c.bwd) else (false, s1)
            if off then drop s2
            else
              let room := match Tbl.find (s.tile tile).blocks c.block with
                | some b => i.ranges.all fun r => b.holds r.1 r.2
                | none => false
              if room = false then s2.loseClaim tile 1 c stPageFault 0
              else s2.putAdvanced tile ({ c with queue := rest }.occupy i) (i.arrays.filter fun a => !c.frozen a))

/-! ## Sources -/

/-- `n` bytes of a claim's scratch at `a`. -/
def State.claimScratch (s : State) (tile : Nat) (c : Claim) (a n : Nat) : List (BitVec 8) :=
  let base := match Tbl.find (s.tile tile).blocks c.block with | some b => b.base | none => 0
  Memory.reads (s.tile tile).scratch (base + a) n

/-- `n` bytes from a source: scratch at `a`, or the next FEED bytes of a pump; none while they are not there (R135). -/
def State.sourceBytes (s : State) (tile : Nat) (c : Claim) (src a n : Nat) : Option (List (BitVec 8) × Claim) :=
  if src = 0 then some (s.claimScratch tile c a n, c)
  else
    let p := c.pump (src - 1)
    if p.feed.length < n then none
    else some (p.feed.take n, c.setPump (src - 1) { p with feed := p.feed.drop n })

/-- Put a running ALOAD, ASTREAM or GPAIR back on its ports as it has got on. -/
def Claim.putRun (c : Claim) (i : ArrInsn) : Claim :=
  match i.op with
  | 0 => c.setArr i.arr { c.arr i.arr with load := some i }
  | 1 => c.setArr i.arr { c.arr i.arr with stream := some i }
  | _ => { c with prim := { c.prim with stream := some i }, part := { c.part with stream := some i } }

/-- What an instruction gets of its data: nothing yet, some more units of it, or, with those taken before, all. -/
inductive Got where
  | frozen
  | part (c : Claim)
  | all (bs : List (BitVec 8)) (c : Claim)

/-- An instruction that needs `total` bytes in units of `u` takes the whole units that its pump has delivered (R121, R122, R135). -/
def Claim.takeUnits (c : Claim) (i : ArrInsn) (u total : Nat) : Got :=
  let p := c.pump (i.src - 1)
  let left := total - i.taken.length
  let k := if left ≤ p.feed.length then left else p.feed.length / u * u
  let c1 := c.setPump (i.src - 1) { p with feed := p.feed.drop k }
  let got := i.taken ++ p.feed.take k
  if k = left then .all got c1 else if k = 0 then .frozen else .part (c1.putRun { i with taken := got })

/-- The pieces of `n` bytes of a list, `k` of them. -/
def rowPieces (n : Nat) : Nat → List (BitVec 8) → List (List (BitVec 8))
  | 0, _ => []
  | k + 1, bs => bs.take n :: rowPieces n k (bs.drop n)

/-- `k` pieces of `n` bytes for an instruction: at stride `st` from `a` in scratch, or one after another from a pump. -/
def State.sourceRows (s : State) (tile : Nat) (c : Claim) (i : ArrInsn) (a st n k : Nat) : Got :=
  if i.src = 0 then .all ((List.range k).flatMap fun j => s.claimScratch tile c (a + j * st) n) c
  else c.takeUnits i n (n * k)

/-- Elements 0 to n-1 of packed bytes. -/
def codesOf (w n : Nat) (bs : List (BitVec 8)) : List Nat :=
  let v := leVal bs
  (List.range n).map fun i => wellElem w v i

/-- The 64 scaled elements of a streamed row (R110). -/
def streamVals (f : Nat) (e : Int) (bs : List (BitVec 8)) : List FVal :=
  let tail := bs.drop (8 * arrBits f)
  (codesOf (arrBits f) 64 bs).zipIdx.map fun p =>
    let raw := if f = 11 then leVal (tail.take 2) else ((tail.getD (p.2 / 32) 0).toNat)
    scaledBy (arrElem f p.1) (arrScale f e raw)

/-- A loaded block as a buffer (R110, R121). -/
def bufOf (f : Nat) (e : BitVec 32) (bs : List (BitVec 8)) : ArrBuf :=
  let rb := blockRow f
  let area := bs.drop (64 * rb)
  let elems := (List.range 64).foldl (fun (t : Tbl Nat) k =>
    (codesOf (arrBits f) 32 ((bs.drop (k * rb)).take rb)).zipIdx.foldl (fun (t : Tbl Nat) p => Tbl.set 0 t (32 * k + p.2) p.1) t) []
  let scales := if isMx f then (area.take 64).zipIdx.foldl (fun (t : Tbl Nat) p => Tbl.set 0 t p.2 p.1.toNat) []
    else if f = 11 then (List.range 32).foldl (fun (t : Tbl Nat) n => Tbl.set 0 t n (leVal ((area.drop (2 * n)).take 2))) []
    else []
  ⟨f, e, elems, scales⟩

/-- A scaled element of a buffer. -/
def ArrBuf.val (b : ArrBuf) (k n : Nat) : FVal :=
  let raw := if b.fmt = 11 then Tbl.getD b.scales n 0 else Tbl.getD b.scales (32 * (k / 32) + n) 0
  scaledBy (arrElem b.fmt (Tbl.getD b.elems (32 * k + n) 0)) (arrScale b.fmt (expWord b.e) raw)

/-- The 64 elements of column n. -/
def ArrBuf.col (b : ArrBuf) (n : Nat) : List FVal := (List.range 64).map fun k => b.val k n

/-- The operand bound of a buffer (R113). -/
def ArrBuf.tau (b : ArrBuf) : Int := expWord b.e + arrC b.fmt

/-! ## Adding into the well -/

/-- One addition into an accumulator, judged against its range (R118). -/
def State.addAcc (s : State) (tile : Nat) (a : Acc) (v : Int) : Acc × State :=
  if a.ovf then (a, s)
  else
    let (bad, s1) := s.check detWellOverflow tile (a.overflows v)
    (a.addInt v bad, s1)

/-- One record into an accumulator of base `beta` (R128). DESIGN CHOICE (log 43): bits lost below the floor count as truncated also where
the accumulator is OVF already, so that X stays; so do those of a product (R149). -/
def State.placeAcc (s : State) (tile : Nat) (a : Acc) (beta : Int) (r : RawRec) : Acc × Bool × State :=
  if a.ovf then let p := a.place beta r false; (p.1, p.2, s)
  else
    let (bad, s1) := s.check detWellOverflow tile (a.placeOver beta r)
    let p := a.place beta r bad
    (p.1, p.2, s1)

/-- Add one streamed row into a well row (R122, R149). -/
def State.addRow (s : State) (tile : Nat) (arr : Arr) (row sh : Nat) (xs : List FVal) (buf : ArrBuf) : Arr × State :=
  (List.range 32).foldl (fun (r : Arr × State) c =>
    let d := dot (r.1.beta row) sh xs (buf.col c)
    let x := r.2.addAcc tile (r.1.accAt row c) d.sum
    ((r.1.putAcc row c (x.1.orFlags d.nan d.pinf d.ninf)).addTrunc row d.trunc, x.2)) (arr, s)

/-- Add streamed rows from row `f` (R114, R116): CLR sets the rows first, else a base of their own is counted by the caller. -/
def State.addRows (s : State) (tile : Nat) (arr : Arr) (f sh : Nat) (rows : List (List FVal)) (buf : ArrBuf) : Arr × State :=
  rows.zipIdx.foldl (fun (r : Arr × State) p => r.2.addRow tile r.1 (f + p.2) sh p.1 buf) (arr, s)

/-- Whether any of rows f to f+n-1 has a base other than `beta`. -/
def Arr.baseDiffers (a : Arr) (f n : Nat) (beta : Int) : Bool := (List.range n).any fun i => a.beta (f + i) ≠ beta

/-! ## Completion of each instruction -/

/-- An array instruction that cannot go on yet leaves the state as it is (R135). -/
inductive Done where
  | frozen
  | ok (c : Claim) (s : State)
  | part (c : Claim) (s : State)
  | lose (code va : Nat) (s : State)

/-- ALOAD completes (R121). -/
def State.doAload (s : State) (tile : Nat) (c : Claim) (i : ArrInsn) : Done :=
  match (if i.src = 0 then Got.all (s.claimScratch tile c i.a.toNat (blockBytes i.fmt)) c
    else c.takeUnits i (blockRow i.fmt) (blockBytes i.fmt)) with
  | .frozen => .frozen
  | .part c1 => .part c1 s
  | .all bs c1 =>
    let buf := bufOf i.fmt i.b bs
    let tau := buf.tau
    let ovr := (List.range 64).any fun k => (List.range 32).any fun n => breaks tau (buf.val k n)
    let s1 := (s.check detWellBound tile ovr).2
    let a := c1.arr i.arr
    .ok (c1.setArr i.arr { a with shadow := buf }) s1

/-- ASTREAM completes (R122). -/
def State.doAstream (s : State) (tile : Nat) (c : Claim) (i : ArrInsn) : Done :=
  match s.sourceRows tile c i i.a.toNat i.c2.toNat (streamRow i.fmt) i.c.toNat with
  | .frozen => .frozen
  | .part c1 => .part c1 s
  | .all bs c1 =>
    let e := expWord i.b
    let rows := (rowPieces (streamRow i.fmt) i.c.toNat bs).map (streamVals i.fmt e)
    let tau := e + arrC i.fmt
    let a := c1.arr i.arr
    let f := i.d.toNat
    let n := i.c.toNat
    let beta := tau + a.active.tau
    let s1 := (s.check detWellBound tile (rows.any fun r => r.any (breaks tau))).2
    let s2 := if i.clears i.arr then s1 else (s1.check detWellBaseMismatch tile (a.baseDiffers f n beta)).2
    let a1 := if i.clears i.arr then a.clearRows f n (fun _ => beta) else a
    let r := s2.addRows tile a1 f i.sh rows a.active
    .ok (c1.setArr i.arr r.1) r.2

/-- GPAIR completes (R123, Table 4.4): the rows of G through the primary array, its columns through the partner. -/
def State.doGpair (s : State) (tile : Nat) (c : Claim) (i : ArrInsn) : Done :=
  match s.sourceRows tile c i i.a.toNat i.c.toNat (streamRow i.fmt) 64 with
  | .frozen => .frozen
  | .part c1 => .part c1 s
  | .all bs c1 =>
    let e := expWord i.b
    let rows := (rowPieces (streamRow i.fmt) 64 bs).map (streamVals i.fmt e)
    let cols := (List.range 64).map fun k => rows.map fun r => r.getD k .nan
    let tau := e + arrC i.fmt
    let fp := i.d.toNat
    let fq := i.d2.toNat
    let bp := tau + c1.prim.active.tau
    let bq := tau + c1.part.active.tau
    let s1 := (s.check detWellBound tile (rows.any fun r => r.any (breaks tau))).2
    let differ := (!i.clears 0 && c1.prim.baseDiffers fp 64 bp) || (!i.clears 1 && c1.part.baseDiffers fq 64 bq)
    let s2 := if i.clears 0 && i.clears 1 then s1 else (s1.check detWellBaseMismatch tile differ).2
    let p1 := if i.clears 0 then c1.prim.clearRows fp 64 (fun _ => bp) else c1.prim
    let q1 := if i.clears 1 then c1.part.clearRows fq 64 (fun _ => bq) else c1.part
    let r := s2.addRows tile p1 fp 0 rows c1.prim.active
    let t := r.2.addRows tile q1 fq 0 cols c1.part.active
    .ok { c1 with prim := r.1, part := t.1 } t.2

/-- The saved outputs of row `k` of a drain or of DOT. -/
def State.savedRow (s : State) (tile base fmt k : Nat) : List FVal :=
  let rb := drainRow fmt
  let bs := Memory.reads (s.tile tile).scratch (base + k * rb) rb
  (codesOf (memBits fmt) 32 bs).map fun c => match memFmt fmt with | some f => f.decode c | none => .nan

/-- One drained row: the scale of an MX row, the elements with their statistics (none for a raw record; R125). -/
def Arr.drained (a : Arr) (i : ArrInsn) (row : Nat) (ys : List FVal) : Option Nat × List (Nat × Option ElemStat) :=
  if i.fmt = 15 then
    (none, (List.range 32).map fun c => ((RawRec.toNat ⟨a.accAt row c, a.beta row, false⟩), none))
  else
    let ds := (List.range 32).map fun c =>
      drainVal (a.accAt row c) (a.beta row) i.b.toInt i.fn (ys.getD c (.fin false 0 0))
    if isMx i.fmt then
      let b := mxBlock i.fmt ds
      (some b.1, b.2.map fun e => (e.1, some e.2))
    else
      (none, ds.map fun d => let e := drainElem i.fmt (bitOf i.mod 1) d; (e.1, some e.2))

/-- The drained rows from row number `k`, with each row's truncation count. -/
def State.drainRows (s : State) (tile base : Nat) (a : Arr) (i : ArrInsn) (k n : Nat) :
    List (Option Nat × List (Nat × Option ElemStat) × Nat) :=
  (List.range n).map fun j =>
    let row := i.a.toNat + k + j
    let ys := if i.fn = 0 then [] else s.savedRow tile (base + i.c.toNat) i.fmt (k + j)
    let r := a.drained i row ys
    (r.1, r.2, (a.rowAt row).trunc.toNat)

/-- WDRAIN goes on (R124, R135): to scratch at once; to a pump, the rows that its write queue takes; in a context without a
statistics table the additions are dropped and counted once (R161). -/
def State.doWdrain (s : State) (tile : Nat) (c : Claim) (ctx base : Nat) (i : ArrInsn) : Done :=
  let a := c.arr i.arr
  let f := i.a.toNat
  let w := memBits i.fmt
  let rb := drainRow i.fmt
  let keep := bitOf i.mod 0
  let cleared := fun (b : Arr) (k n : Nat) => if keep then b else b.clearRows (f + k) n b.beta
  if i.port87 = 0 then
    let rows := s.drainRows tile base a i 0 i.rows
    let st := rows.foldl (fun (t : StatAdd) r =>
      r.2.1.foldl (fun (t : StatAdd) e => match e.2 with | some x => t.plus (StatAdd.ofElem x) | none => t)
        { t with trunc := t.trunc + r.2.2 }) StatAdd.none
    match s.statAdd (.pump tile 4) ctx i.b2.toNat st with
    | .stall s1 => .part c s1
    | .lose code va s1 => .lose code va s1
    | .ok _ s1 =>
      let t := s1.tile tile
      let data := rows.flatMap fun r => packElems w (r.2.1.map (·.1))
      let scales := rows.filterMap fun r => r.1.map (BitVec.ofNat 8 ·)
      let t1 := (t.scratchWrite (base + i.d.toNat) data).scratchWrite (base + i.d.toNat + i.rows * rb) scales
      .ok (c.setArr i.arr (cleared a 0 i.rows)) (s1.setTile tile t1)
  else
    let p := c.pump (i.port87 - 1)
    let full := rb + if isMx i.fmt then 1 else 0
    let n := min (i.rows - i.done) ((16384 - p.queueBytes) / full)
    let rows := s.drainRows tile base a i i.done n
    let none_ := (s.statVa ctx 0).isNone
    let adds := rows.any fun r => decide (i.fmt ≠ 15) || decide (r.2.2 ≠ 0)
    let es := rows.flatMap fun r =>
      r.2.1.zipIdx.map fun e =>
        QElem.mk e.1.1 w r.1 (if none_ then none else e.1.2) (if e.2 = 0 && !none_ then r.2.2 else 0)
    let a1 := cleared a i.done n
    let i1 := { i with done := i.done + n, bad := i.bad || (none_ && adds) }
    let c1 := (c.setArr i.arr { a1 with drain := some i1 }).setPump (i.port87 - 1) { p with writeQ := p.writeQ ++ es }
    if i1.done = i.rows then .ok c1 (if i1.bad then s.note detStatDropped tile else s) else .part c1 s

/-- The sign of an overflowed source's term (R126): DESIGN CHOICE (log 43), positive where y of DOT is a zero of either sign. -/
def ovfSign (kind : Nat) (neg : Bool) (y : FVal) : Bool :=
  match kind, y with
  | 0, _ => neg
  | 1, _ => false
  | _, .fin yn ym _ => if ym = 0 then false else neg != yn
  | _, _ => neg != fSign y

/-- The terms of one source row of WREDUCE for its target accumulator (R126): their sum with truncations and flags, and the signs
of the terms of overflowed sources. -/
def reduceTerms (a : Arr) (i : ArrInsn) (row : Nat) (beta : Int) (ys : List FVal) : DotRes × List Bool :=
  let kind := i.mod % 4
  let src := a.beta row
  (List.range 32).foldl (fun (r : DotRes × List Bool) c =>
    let x := a.accAt row c
    let y := ys.getD c (.fin false 0 0)
    let neg := decide (x.x.toInt < 0)
    let signs := if x.ovf then r.2 ++ [ovfSign kind neg y] else r.2
    if x.nan || x.pinf || x.ninf then
      let d := if kind = 0 then { r.1 with nan := r.1.nan || x.nan, pinf := r.1.pinf || x.pinf, ninf := r.1.ninf || x.ninf }
        else
          let v : FVal := if x.nan || (x.pinf && x.ninf) then .nan else .inf x.ninf
          r.1.add beta (fMul v (if kind = 1 then v else y))
      (d, signs)
    else
      let exact : FVal := .fin neg x.x.toInt.natAbs (src - 95)
      if x.ovf then
        match kind, y with
        | 0, _ => (r.1, signs)
        | 1, _ => (r.1, signs)
        | _, .fin _ _ _ => (r.1, signs)
        | _, _ => (r.1.add beta (fMul (.fin neg 1 0) y), signs)
      else
        let v := fF32.decode (fF32.encode 0 false exact)
        let term := match kind with
          | 0 => exact
          | 1 => fMul v v
          | _ => fMul v y
        (r.1.add beta term, r.2)) (⟨0, 0, false, false, false⟩, [])

/-- WREDUCE completes (R126): each source row is one addition into column (row div g) of the target row. DESIGN CHOICE (log 48): of several reasons
to set OVF in one source row the sum of the terms comes first, then the overflowed sources by column, and the first gives the sign. -/
def State.doWreduce (s : State) (tile : Nat) (c : Claim) (base : Nat) (i : ArrInsn) : Done :=
  let a := c.arr i.arr
  let t := i.d.toNat
  let g := 2 ^ (i.mod / 4)
  let r := (List.range i.rows).foldl (fun (r : Arr × State) k =>
    let ys := if i.mod % 4 = 2 then s.savedRow tile (base + i.b.toNat) i.fmt k else []
    let x := reduceTerms a i (i.a.toNat + k) (r.1.beta t) ys
    let y := r.2.addAcc tile (r.1.accAt t (k / g)) x.1.sum
    let z := x.2.foldl (fun (z : Acc × State) neg =>
      if z.1.ovf then z else (z.1.setOvf neg, (z.2.check detWellOverflow tile true).2)) y
    ((r.1.putAcc t (k / g) (z.1.orFlags x.1.nan x.1.pinf x.1.ninf)).addTrunc t x.1.trunc, z.2)) (a, s)
  .ok (c.setArr i.arr r.1) r.2

/-- Add one row of 32 records into a well row (R127, R128); whether a record had reserved bits. -/
def State.accRow (s : State) (tile : Nat) (a : Arr) (row : Nat) (bs : List (BitVec 8)) : Arr × Bool × State :=
  (List.range 32).foldl (fun (r : Arr × Bool × State) col =>
    let rec_ := RawRec.ofNat (leVal ((bs.drop (32 * col)).take 32))
    if rec_.resv then (r.1, true, r.2.2)
    else
      let x := r.2.2.placeAcc tile (r.1.accAt row col) (r.1.beta row) rec_
      ((r.1.putAcc row col x.1).addTrunc row (b2n x.2.1), r.2.1, x.2.2)) (a, false, s)

/-- WACC goes on (R128): from scratch at once, from a pump row by row as rows arrive. -/
def State.doWacc (s : State) (tile : Nat) (i : ArrInsn) : Nat → Claim → Nat → Bool → State → Done
  | 0, c, _, bad, t => .ok c (if bad then t.note detArrayInvalid tile else t)
  | k + 1, c, done, bad, t =>
    match s.sourceBytes tile c i.port87 (i.b.toNat + done * 1024) 1024 with
    | none =>
      let a := c.arr i.arr
      if done = i.done then .frozen else .part (c.setArr i.arr { a with drain := some { i with done := done, bad := bad } }) t
    | some (bs, c1) =>
      let r := t.accRow tile (c1.arr i.arr) (i.a.toNat + done) bs
      State.doWacc s tile i k (c1.setArr i.arr r.1) (done + 1) (bad || r.2.1) r.2.2

/-- Free a port of an array. -/
def Arr.free (a : Arr) (port : Nat) : Arr :=
  match port with
  | 0 => { a with load := none }
  | 1 => { a with stream := none }
  | _ => { a with drain := none }

/-- The instruction on a port. -/
def Arr.onPort (a : Arr) (port : Nat) : Option ArrInsn :=
  match port with
  | 0 => a.load
  | 1 => a.stream
  | _ => a.drain

/-- What an instruction that runs does. -/
def State.doArr (s : State) (tile : Nat) (c : Claim) (b : Block) (i : ArrInsn) : Done :=
  match i.op with
  | 0 => s.doAload tile c i
  | 1 => s.doAstream tile c i
  | 2 => s.doGpair tile c i
  | 3 => s.doWdrain tile c b.cmd.ctx b.base i
  | 4 => s.doWreduce tile c b.base i
  | 5 => s.doWacc tile i (i.rows - i.done) c i.done i.bad s
  | _ => let a := c.arr i.arr; .ok (c.setArr i.arr (a.clearRows i.a.toNat i.rows fun _ => i.b.toInt)) s

/-- ARRAY_INSN_COMPLETE (R85, R103, R104, R136): the instruction on a port (0 load, 1 stream, 2 drain, 3 AMODE) advances or finishes, unless
its array is frozen or an earlier instruction must act first. GPAIR finishes on both arrays at once (log 11). -/
def execArrayInsnComplete (tile arr port : Nat) (s : State) : Host.Outcome State Fault Refusal :=
  .next (
    match (s.tile tile).claim with
    | none => s
    | some c =>
      match Tbl.find (s.tile tile).blocks c.block with
      | none => s
      | some b =>
        if port = 3 then
          match c.amode with
          | none => s
          | some i => (s.putAdvanced tile { c with amode := none, bwd := bitOf i.ext 0 } [0, 1]).blockLeave tile c.block
        else
          match (c.arr arr).onPort port with
          | none => s
          | some i =>
            if c.frozen arr || c.behind i then s
            else
            match s.doArr tile c b i with
            | .frozen => s
            | .lose code va s1 => s1.loseClaim tile 1 c code va
            | .part c1 s1 => if c1 = c then s1.putClaim tile c1 else s1.putAdvanced tile c1 i.arrays
            | .ok c1 s1 =>
              let c2 := if i.op = 2 then { c1 with prim := c1.prim.free 1, part := c1.part.free 1 }
                else c1.setArr arr ((c1.arr arr).free port)
              let (ue, s2) := s1.tileSram .well tile
              if ue then s2.loseClaim tile 1 c stPoisonConsumed 0
              else (s2.putAdvanced tile c2 i.arrays).blockLeave tile c.block)

/-- Whether an array has an instruction queued or running. -/
def Claim.arrBusy (c : Claim) (a : Nat) : Bool :=
  c.queue.any (fun i => decide (a ∈ i.arrays)) || !(c.arr a).idle || c.amode.isSome

/-- ARRAY_PROGRESS_EXPIRY (R107): the timer of an array with work has reached the period of its partition. -/
def execArrayProgressExpiry (tile arr : Nat) (s : State) : Host.Outcome State Fault Refusal :=
  .next (
    match (s.tile tile).claim with
    | some c =>
      match Tbl.find (s.tile tile).blocks c.block with
      | some b =>
        if c.arrBusy arr && decide (s.periodOf b.cmd.ctx ≤ if arr = 0 then c.timer0 else c.timer1) then s.loseClaim tile 1 c stNoProgress 0
        else s
      | none => s
    | none => s)

/-! ## UWAIT (R86) -/

/-- Whether an array has completed everything issued before number `upto`. -/
def Claim.arrDone (c : Claim) (a upto : Nat) : Bool :=
  let busy := fun (i : ArrInsn) => decide (i.seq < upto) && decide (a ∈ i.arrays)
  let x := c.arr a
  !(c.queue.any busy) && !(x.load.any busy) && !(x.stream.any busy) && !(x.drain.any busy) && !(c.amode.any busy)

/-- Whether a pump has completed everything issued before number `upto`: its descriptors, and the WDRAINs that feed it. -/
def Claim.pumpDone (c : Claim) (p upto : Nat) : Bool :=
  let x := c.pump p
  let feeds := fun (i : ArrInsn) => decide (i.seq < upto) && decide (i.op = 3) && decide (i.port87 = p + 1)
  x.rd.all (fun d => decide (upto ≤ d.seq)) && x.wr.all (fun d => decide (upto ≤ d.seq)) &&
  !(c.queue.any feeds) && !(c.prim.drain.any feeds) && !(c.part.drain.any feeds)

/-- Whether the units a UWAIT names have completed (R86); pump writes to other modules have been answered. -/
def State.unitsDone (s : State) (g : GRef) (mask : BitVec 4) (upto : Nat) : Bool :=
  match (s.tile g.tile).claim with
  | none => true
  | some c =>
    if s.holdsClaim g = false then true
    else
      (!mask.getLsbD 0 || c.arrDone 0 upto) && (!mask.getLsbD 1 || c.arrDone 1 upto) &&
      (!mask.getLsbD 2 || (c.pumpDone 0 upto && !s.boardBusy (.pump g.tile 2))) &&
      (!mask.getLsbD 3 || (c.pumpDone 1 upto && !s.boardBusy (.pump g.tile 3)))

/-- The form of UWAIT. -/
def formUwait (i : Insn) : Form :=
  ⟨i.fmt == 0, i.mod == 0, 0x00F, 0, 0, 0, 0, 0⟩

/-- UWAIT (Table 3.3): the group stops until the named units have completed what the block issued before. -/
def execUwait (g : GRef) (i : Insn) (s : State) : Host.Outcome State Fault Refusal :=
  .next (s.issue g i (formUwait i) fun gr t =>
    let upto := match (t.tile g.tile).claim with | some c => c.seq | none => 0
    let mask : BitVec 4 := i.ext.extractLsb' 0 4
    if t.holdsClaim g then t.putGroup g { gr.next with wait := .uwait mask upto } else t.putGroup g gr.next)

/-- UWAIT_COMPLETE (R86). -/
def execUwaitComplete (g : GRef) (s : State) : Host.Outcome State Fault Refusal :=
  .next (
    match s.group g with
    | some gr =>
      match gr.wait with
      | .uwait m k => if s.unitsDone g m k then (s.restart g).putGroup g { gr with wait := .ready } else s
      | _ => s
    | none => s)

end Sys2Proof.Machine
end

