-- ==== Sys2Proof/Machine/LaneFloat.lean ====
section
/-!
DEFINITION. The floating-point instructions (Table 2.7, R56, R57, R142 to R144).
-/
namespace Sys2Proof.Machine

/-- The element format of a floating-point FMT: F32, F64, F16x2, BF16x2. -/
def floatFmt (f : Nat) : Fmt :=
  match f with
  | 4 => fF32
  | 5 => fF64
  | 6 => fF16
  | _ => fBF16

/-- Elements in one operand: two in the packed pairs. -/
def floatCount (f : Nat) : Nat := if f = 6 ∨ f = 7 then 2 else 1

/-- The formats of FADD (Table 2.7). -/
def floatFmts : List Nat := [4, 5, 6, 7]

/-- Element `k` of an operand, `w` bits each. -/
def elemAt (w k v : Nat) : Nat := bitsOf v (w * k) w

/-- Apply an element function to each of `n` elements of up to three operands and pack the results. -/
def mapElems (w : Nat) (op : Nat → Nat → Nat → Nat) : Nat → Nat → Nat → Nat → Nat
  | 0, _, _, _ => 0
  | n + 1, a, b, c =>
    op (a % 2 ^ w) (b % 2 ^ w) (c % 2 ^ w) % 2 ^ w + mapElems w op n (a >>> w) (b >>> w) (c >>> w) * 2 ^ w

/-- The form of an arithmetic instruction: MOD[1:0] is the rounding where `rnd` says so. -/
def formFloat (i : Insn) (three rnd : Bool) : Form :=
  let base := if three then formDABC floatFmts i else formDAB floatFmts i
  { base with modOk := if rnd then decide (i.mod.toNat < 4) else i.mod == 0 }

/-- A floating-point operation on the elements of A, B and C. -/
def floatOp (s : State) (g : GRef) (i : Insn) (three rnd : Bool) (op : Fmt → Nat → Nat → Nat → Nat → Nat) : State :=
  let f := i.fmt.toNat
  let n := regsOf f
  let e := floatFmt f
  s.laneOp g i (formFloat i three rnd) n fun gr l =>
    mapElems e.width (op e (i.mod.toNat % 4)) (floatCount f) (opVal gr l n i.a) (bVal gr i l n true)
      (if three then opVal gr l n i.c else 0)

/-- FADD (Table 2.7): correctly rounded. -/
def execFadd (g : GRef) (i : Insn) (s : State) : Host.Outcome State Fault Refusal :=
  .next (floatOp s g i false true fun e m a b _ => e.encode m false (fAdd m (e.decode a) (e.decode b)))

/-- FSUB (Table 2.7): A + (-B), correctly rounded. -/
def execFsub (g : GRef) (i : Insn) (s : State) : Host.Outcome State Fault Refusal :=
  .next (floatOp s g i false true fun e m a b _ => e.encode m false (fAdd m (e.decode a) (fNeg (e.decode b))))

/-- FMUL (Table 2.7): correctly rounded. -/
def execFmul (g : GRef) (i : Insn) (s : State) : Host.Outcome State Fault Refusal :=
  .next (floatOp s g i false true fun e m a b _ => e.encode m false (fMul (e.decode a) (e.decode b)))

/-- FFMA (Table 2.7): A x B + C with one rounding. -/
def execFfma (g : GRef) (i : Insn) (s : State) : Host.Outcome State Fault Refusal :=
  .next (floatOp s g i true true fun e m a b c =>
    e.encode m false (fAdd m (fMul (e.decode a) (e.decode b)) (e.decode c)))

/-- FMIN (Table 2.7): IEEE 754 minimumNumber. -/
def execFmin (g : GRef) (i : Insn) (s : State) : Host.Outcome State Fault Refusal :=
  .next (floatOp s g i false false fun e _ a b _ => e.encode 0 false (fMin (e.decode a) (e.decode b)))

/-- FMAX (Table 2.7): IEEE 754 maximumNumber. -/
def execFmax (g : GRef) (i : Insn) (s : State) : Host.Outcome State Fault Refusal :=
  .next (floatOp s g i false false fun e _ a b _ => e.encode 0 false (fMax (e.decode a) (e.decode b)))

/-- An operation on A's elements as bits. -/
def floatBits (s : State) (g : GRef) (i : Insn) (op : Fmt → Nat → Nat) : State :=
  let f := i.fmt.toNat
  let n := regsOf f
  let e := floatFmt f
  s.laneOp g i (formDA floatFmts i) n fun gr l =>
    mapElems e.width (fun a _ _ => op e a) (floatCount f) (opVal gr l n i.a) 0 0

/-- FABS (Table 2.7): the sign bit cleared, no other bit changed. -/
def execFabs (g : GRef) (i : Insn) (s : State) : Host.Outcome State Fault Refusal :=
  .next (floatBits s g i fun e a => a % 2 ^ (e.width - 1))

/-- FNEG (Table 2.7): the sign bit inverted, no other bit changed. -/
def execFneg (g : GRef) (i : Insn) (s : State) : Host.Outcome State Fault Refusal :=
  .next (floatBits s g i fun e a => a ^^^ 2 ^ (e.width - 1))

/-- The form of FSET. -/
def formFset (i : Insn) : Form :=
  { formDAB [4, 5] i with d := 1, modOk := decide (i.mod.toNat < 16 ∧ i.mod.toNat % 8 < 6) }

/-- FSET (Table 2.7): MOD[2:0] as ISET, MOD[3] makes an unordered comparison true; with MOD[3] = 0 an unordered one is false, NE with the others
(log 43); a single 32-bit D. -/
def execFset (g : GRef) (i : Insn) (s : State) : Host.Outcome State Fault Refusal :=
  let f := i.fmt.toNat
  let n := regsOf f
  let e := floatFmt f
  .next (s.laneOp g i (formFset i) 1
    fun gr l =>
      let a := e.decode (opVal gr l n i.a)
      let b := e.decode (bVal gr i l n true)
      if a = .nan ∨ b = .nan then i.mod.toNat / 8 else b2n (condOf (i.mod.toNat % 8) (fLt a b) (fEq a b)))

/-! ## Approximate functions (R57) -/

/-- The exact value, to far more than the bound needs, of an approximate function at m 2^e with sign `neg`, where the spec's
bound applies: operation codes of Table 2.7. None where the spec states no real result (an infinity, a pole, a negative
square root). -/
def approxExact (op : Nat) (neg : Bool) (m : Nat) (e : Int) : Option Dy :=
  let x : Dy := ⟨if neg then -(m : Int) else m, e⟩
  match op with
  | 0x09 => if m = 0 then none else some (if neg then (recipDy m e).neg else recipDy m e)
  | 0x0A => if m = 0 ∨ neg then none else some (let q := sqrtDy m e; recipDy q.i.natAbs q.e)
  | 0x0B => if m = 0 then some ⟨0, 0⟩ else if neg then none else some (sqrtDy m e)
  | 0x0C =>
    if decide (m ≠ 0) && decide (10 < leadExp m e) then some (if neg then ⟨1, -400⟩ else ⟨1, 400⟩)
    else some (exp2Dy x)
  | 0x0D => if m = 0 ∨ neg then none else some (log2Dy m e)
  | 0x0E => some (sinPiDy x)
  | _ => some (cosPiDy x)

/-- The relative bound 2^-23 of R57 for FRCP and FRSQ in F64. -/
def withinRel (f : Fmt) (c : Nat) (x : Dy) : Bool :=
  match f.decode c with
  | .nan => false
  | .inf n => decide (f.maxCode < f.roundCode 0 n x.i.natAbs x.e) && (n == decide (x.i < 0))
  | .fin n m e =>
    let r : Dy := ⟨if n then -(m : Int) else m, e⟩
    let d : Dy := ⟨((x.add r.neg).i.natAbs : Nat), (x.add r.neg).e⟩
    Dy.le d ⟨(x.i.natAbs : Nat), x.e - 23⟩

/-- The result of an approximate function: NaN of a NaN (R142); where the bound applies, the device's own value when it lies
within it and the correctly rounded one otherwise; a free function of the operand where the spec states no result, its NaN the
canonical one (R142, log 15). -/
def approxVal (op : Nat) (wide : Bool) (a : Nat) : Nat :=
  let f := if wide then fF64 else fF32
  let own := (Config.approx op wide (BitVec.ofNat 64 a)).toNat % 2 ^ f.width
  let r := match f.decode own with | .nan => f.nanCode | _ => own
  match f.decode a with
  | .nan => f.nanCode
  | .inf _ => r
  | .fin neg m e =>
    match approxExact op neg m e with
    | none => r
    | some x =>
      if (if wide then withinRel f r x else withinUlps f r x ⟨1, -170⟩) then r else f.encode 0 false x.toF

/-- An approximate instruction. -/
def approxOp (s : State) (g : GRef) (i : Insn) (fmts : List Nat) (op : Nat) : State :=
  let n := regsOf i.fmt.toNat
  s.laneOp g i (formDA fmts i) n fun gr l => approxVal op (i.fmt.toNat = 5) (opVal gr l n i.a)

/-- FRCP (Table 2.7): approximate 1/A. -/
def execFrcp (g : GRef) (i : Insn) (s : State) : Host.Outcome State Fault Refusal := .next (approxOp s g i [4, 5] 0x09)

/-- FRSQ (Table 2.7): approximate 1/sqrt A. -/
def execFrsq (g : GRef) (i : Insn) (s : State) : Host.Outcome State Fault Refusal := .next (approxOp s g i [4, 5] 0x0A)

/-- FSQRT (Table 2.7): approximate sqrt A. -/
def execFsqrt (g : GRef) (i : Insn) (s : State) : Host.Outcome State Fault Refusal := .next (approxOp s g i [4] 0x0B)

/-- FEXP2 (Table 2.7): approximate 2^A. -/
def execFexp2 (g : GRef) (i : Insn) (s : State) : Host.Outcome State Fault Refusal := .next (approxOp s g i [4] 0x0C)

/-- FLOG2 (Table 2.7): approximate log2 A. -/
def execFlog2 (g : GRef) (i : Insn) (s : State) : Host.Outcome State Fault Refusal := .next (approxOp s g i [4] 0x0D)

/-- FSINPI (Table 2.7): approximate sin(pi A). -/
def execFsinpi (g : GRef) (i : Insn) (s : State) : Host.Outcome State Fault Refusal := .next (approxOp s g i [4] 0x0E)

/-- FCOSPI (Table 2.7): approximate cos(pi A). -/
def execFcospi (g : GRef) (i : Insn) (s : State) : Host.Outcome State Fault Refusal := .next (approxOp s g i [4] 0x0F)

end Sys2Proof.Machine
end

