-- ==== Sys2Proof/Machine/LaneInt.lean ====
section
/-!
DEFINITION. The integer instructions (Table 2.6, R56).
-/
namespace Sys2Proof.Machine

/-- An integer operation on A and B of a format: values as unsigned numbers of its width. -/
def intOp (s : State) (g : GRef) (i : Insn) (fmts : List Nat) (op : Nat → Nat → Nat → Nat) : State :=
  let f := i.fmt.toNat
  s.laneOp g i (formDAB fmts i) (regsOf f) fun gr l =>
    op (bitsOfFmt f) (opVal gr l (regsOf f) i.a) (bVal gr i l (regsOf f) (immSigned f))

/-- Minimum or maximum under a format's order (Table 2.6). -/
def minMaxInt (signed : Bool) (w a b : Nat) (mx : Bool) : Nat :=
  let lt := if signed then decide (sVal w a < sVal w b) else decide (a < b)
  if lt != mx then a else b

/-- A right shift by `k`: arithmetic for signed formats; a count of the width or more gives 0 or -1 (R9, Table 2.6). -/
def shrVal (signed : Bool) (w a k : Nat) : Nat :=
  if signed then wrapN w (sVal w a / (2 : Int) ^ k) else a / 2 ^ k

/-- IADD (Table 2.6): D = A + B, wrapping. -/
def execIadd (g : GRef) (i : Insn) (s : State) : Host.Outcome State Fault Refusal :=
  .next (intOp s g i intFmts fun w a b => (a + b) % 2 ^ w)

/-- ISUB (Table 2.6): D = A - B, wrapping. -/
def execIsub (g : GRef) (i : Insn) (s : State) : Host.Outcome State Fault Refusal :=
  .next (intOp s g i intFmts fun w a b => (a + (2 ^ w - b)) % 2 ^ w)

/-- IMUL (Table 2.6): D = the low half of A x B. -/
def execImul (g : GRef) (i : Insn) (s : State) : Host.Outcome State Fault Refusal :=
  .next (intOp s g i intFmts fun w a b => (a * b) % 2 ^ w)

/-- The high half of a product, signed or unsigned. -/
def mulHi (signed : Bool) (w a b : Nat) : Nat :=
  if signed then wrapN w (sVal w a * sVal w b / (2 : Int) ^ w) else a * b / 2 ^ w

/-- IMULHI (Table 2.6): D = the high half of A x B. -/
def execImulhi (g : GRef) (i : Insn) (s : State) : Host.Outcome State Fault Refusal :=
  .next (intOp s g i intFmts fun w a b => mulHi (signedFmt i.fmt.toNat) w a b)

/-- IMAD (Table 2.6): D = the low half of A x B, plus C. -/
def execImad (g : GRef) (i : Insn) (s : State) : Host.Outcome State Fault Refusal :=
  let n := regsOf i.fmt.toNat
  .next (s.laneOp g i (formDABC intFmts i) n fun gr l =>
    (opVal gr l n i.a * opVal gr l n i.b + opVal gr l n i.c) % 2 ^ (32 * n))

/-- IMIN (Table 2.6). -/
def execImin (g : GRef) (i : Insn) (s : State) : Host.Outcome State Fault Refusal :=
  .next (intOp s g i intFmts fun w a b => minMaxInt (signedFmt i.fmt.toNat) w a b false)

/-- IMAX (Table 2.6). -/
def execImax (g : GRef) (i : Insn) (s : State) : Host.Outcome State Fault Refusal :=
  .next (intOp s g i intFmts fun w a b => minMaxInt (signedFmt i.fmt.toNat) w a b true)

/-- An operation on A alone. -/
def intOp1 (s : State) (g : GRef) (i : Insn) (fmts : List Nat) (op : Nat → Nat → Nat) : State :=
  let f := i.fmt.toNat
  s.laneOp g i (formDA fmts i) (regsOf f) fun gr l => op (bitsOfFmt f) (opVal gr l (regsOf f) i.a)

/-- IABS (Table 2.6): the most negative value maps to itself. -/
def execIabs (g : GRef) (i : Insn) (s : State) : Host.Outcome State Fault Refusal :=
  .next (intOp1 s g i [1, 3] fun w a => (sVal w a).natAbs % 2 ^ w)

/-- AND (Table 2.6). -/
def execAndB (g : GRef) (i : Insn) (s : State) : Host.Outcome State Fault Refusal :=
  .next (intOp s g i [0, 2] fun _ a b => a &&& b)

/-- OR (Table 2.6). -/
def execOrB (g : GRef) (i : Insn) (s : State) : Host.Outcome State Fault Refusal :=
  .next (intOp s g i [0, 2] fun _ a b => a ||| b)

/-- XOR (Table 2.6). -/
def execXorB (g : GRef) (i : Insn) (s : State) : Host.Outcome State Fault Refusal :=
  .next (intOp s g i [0, 2] fun _ a b => a ^^^ b)

/-- The form of a shift: B is a single 32-bit register in every format (Table 2.6). -/
def formShift (fmts : List Nat) (i : Insn) : Form := { formDAB fmts i with b := 1 }

/-- A shift count: B[6:0] (Table 2.6). -/
def shiftCount (gr : Group) (i : Insn) (l : Nat) : Nat := bVal gr i l 1 false % 128

/-- SHL (Table 2.6, R9). -/
def execShl (g : GRef) (i : Insn) (s : State) : Host.Outcome State Fault Refusal :=
  let n := regsOf i.fmt.toNat
  .next (s.laneOp g i (formShift [0, 2] i) n fun gr l =>
    (opVal gr l n i.a * 2 ^ shiftCount gr i l) % 2 ^ (32 * n))

/-- SHR (Table 2.6, R9): arithmetic for S formats. -/
def execShr (g : GRef) (i : Insn) (s : State) : Host.Outcome State Fault Refusal :=
  let n := regsOf i.fmt.toNat
  .next (s.laneOp g i (formShift intFmts i) n fun gr l =>
    shrVal (signedFmt i.fmt.toNat) (32 * n) (opVal gr l n i.a) (shiftCount gr i l))

/-- ROTL (Table 2.6): D = rotl32(A, B). -/
def execRotl (g : GRef) (i : Insn) (s : State) : Host.Outcome State Fault Refusal :=
  .next (intOp s g i [0] fun _ a b => (rotl32 (BitVec.ofNat 32 a) b).toNat)

/-- POPC (Table 2.6). -/
def execPopc (g : GRef) (i : Insn) (s : State) : Host.Outcome State Fault Refusal :=
  .next (intOp1 s g i [0, 2] popN)

/-- CLZ (Table 2.6): 32 or 64 for zero. -/
def execClz (g : GRef) (i : Insn) (s : State) : Host.Outcome State Fault Refusal :=
  .next (intOp1 s g i [0, 2] clzN)

/-- BREV (Table 2.6). -/
def execBrev (g : GRef) (i : Insn) (s : State) : Host.Outcome State Fault Refusal :=
  .next (intOp1 s g i [0, 2] revN)

/-- The form of ISET. -/
def formIset (i : Insn) : Form :=
  { formDAB intFmts i with d := 1, modOk := decide (i.mod.toNat < 6) }

/-- ISET (Table 2.6): 0 or 1 in a single 32-bit register, also in 64-bit formats. -/
def execIset (g : GRef) (i : Insn) (s : State) : Host.Outcome State Fault Refusal :=
  let f := i.fmt.toNat
  let w := bitsOfFmt f
  .next (s.laneOp g i (formIset i) 1 fun gr l =>
    let a := opVal gr l (regsOf f) i.a
    let b := bVal gr i l (regsOf f) (immSigned f)
    let lt := if signedFmt f then decide (sVal w a < sVal w b) else decide (a < b)
    b2n (condOf i.mod.toNat lt (decide (a = b))))

/-- The form of SEL. -/
def formSel (i : Insn) : Form :=
  { formDABC [0, 1, 2, 3, 4, 5] i with c := 1 }

/-- SEL (Table 2.6): D = A where the 32-bit register C is not zero, else B. -/
def execSel (g : GRef) (i : Insn) (s : State) : Host.Outcome State Fault Refusal :=
  let n := regsOf i.fmt.toNat
  .next (s.laneOp g i (formSel i) n fun gr l =>
    if opVal gr l 1 i.c ≠ 0 then opVal gr l n i.a else opVal gr l n i.b)

/-- The form of MOV. -/
def formMov (i : Insn) : Form :=
  let n := regsOf i.fmt.toNat
  { formDA [0, 1, 2, 3, 4, 5] i with a := if i.imm then 0 else n, imm := 1 }

/-- MOV (Table 2.6): D = A, or with IMM = 1 the extended IMM16. -/
def execMov (g : GRef) (i : Insn) (s : State) : Host.Outcome State Fault Refusal :=
  let f := i.fmt.toNat
  let n := regsOf f
  .next (s.laneOp g i (formMov i) n fun gr l =>
    if i.imm then immVal i (immSigned f) (32 * n) else opVal gr l n i.a)

/-- The form of MOVHI. -/
def formMovhi (i : Insn) : Form :=
  { formDA [0] i with a := 0, imm := 2 }

/-- MOVHI (Table 2.6): D[31:16] = IMM16, D[15:0] kept; requires IMM = 1. -/
def execMovhi (g : GRef) (i : Insn) (s : State) : Host.Outcome State Fault Refusal :=
  .next (s.laneOp g i (formMovhi i) 1 fun gr l =>
    (imm16 i).toNat * 65536 + opVal gr l 1 i.d % 65536)

end Sys2Proof.Machine
end

