-- ==== Sys2Proof/Machine/LaneAtom.lean ====
section
/-!
DEFINITION. Atomics (Table 2.11, R60, R72, R80 to R82).
-/
namespace Sys2Proof.Machine

/-- The formats of an atomic operation (Table 2.11). -/
def atomFmts (op : Nat) : List Nat :=
  match op with
  | 0 => [0, 1, 2, 3, 4, 5]
  | 1 | 2 => [0, 1, 2, 3]
  | _ => [0, 2]

/-- The form of an atomic: EXT[0] chooses scratch, whose address is one register (Table 2.11). -/
def formAtom (op : Nat) (i : Insn) : Form :=
  let f := i.fmt.toNat
  ⟨decide (f ∈ atomFmts op), decide (i.mod.toNat < 16), 1, regsOf f, if i.ext.getLsbD 0 then 1 else 2, regsOf f,
   if op = 7 then regsOf f else 0, if op = 7 then 0 else 1⟩

/-- The new value of an atomic (Table 2.11), `w` bits; none leaves the word as it is. -/
def atomNew (op fmt : Nat) (old b c : Nat) : Option Nat :=
  let w := bitsOfFmt fmt
  let sg := signedFmt fmt
  match op with
  | 0 =>
    if fmt = 4 ∨ fmt = 5 then
      let e := floatFmt fmt
      some (e.encode 0 false (fAdd 0 (e.decode old) (e.decode b)))
    else some ((old + b) % 2 ^ w)
  | 1 => some (minMaxInt sg w old b false)
  | 2 => some (minMaxInt sg w old b true)
  | 3 => some (old &&& b)
  | 4 => some (old ||| b)
  | 5 => some (old ^^^ b)
  | 6 => some b
  | _ => if old = b then some c else none

/-- Whether an AtomicOp carries the operation to host memory (R82): FetchAdd in the integer formats, Swap and CAS. -/
def hostAtomOk (op fmt : Nat) : Bool := (decide (op = 0) && decide (fmt ≤ 3)) || decide (op = 6) || decide (op = 7)

/-- A lane's operands: its address and the values of B and C. -/
structure AtomLane where
  lane : Nat
  addr : Nat
  b : Nat
  c : Nat
deriving DecidableEq, Repr, Inhabited

/-- The active lanes of an atomic; IMM16 in place of B is extended as its format says (R53). -/
def atomLanes (gr : Group) (i : Insn) (addr : Nat → Nat) : List AtomLane :=
  let n := regsOf i.fmt.toNat
  gr.lanes.map fun l => ⟨l, addr l, bVal gr i l n (immSigned i.fmt.toNat), opVal gr l n i.c⟩

/-- Drop the lanes that are not aligned to the width, counting each (R60). -/
def State.aligned (s : State) (g : GRef) (w : Nat) : List AtomLane → List AtomLane × State
  | [] => ([], s)
  | l :: ls =>
    let (bad, s1) := s.check detAtomMisaligned g.tile (decide (l.addr % w ≠ 0))
    let r := State.aligned s1 g w ls
    (if bad then r.1 else l :: r.1, r.2)

/-- Translate the lanes of an atomic. -/
def State.atomSpans (ctx w : Nat) : List AtomLane → State → Go (List (AtomLane × Span))
  | [], s => .ok [] s
  | l :: ls, s =>
    (s.span ctx l.addr w .write).bind fun x s1 =>
      (State.atomSpans ctx w ls s1).bind fun xs s2 => .ok ((l, x) :: xs) s2

/-- The key under which a lane's atomic in another module is answered: beyond every board address. -/
def atomKey (lane : Nat) : Nat := 2 ^ 60 + lane

/-- Send the lanes that lie in other modules (R81); whether every answer is here. -/
def State.atomFar (s : State) (g : GRef) (ctx op fmt : Nat) (ls : List (AtomLane × Span)) : Bool × State :=
  let far := ls.filter fun x => x.2.tgt = 1
  let o := Owner.group g.tile g.slot
  let s1 := far.foldl (fun (t : State) x =>
    if (t.boardAns o (atomKey x.1.lane)).isSome || t.boardAsked o (atomKey x.1.lane) then t
    else t.boardAtom o (atomKey x.1.lane) ctx x.2.addr op fmt (BitVec.ofNat 64 x.1.b) (BitVec.ofNat 64 x.1.c)) s
  (far.all fun x => (s1.boardAns o (atomKey x.1.lane)).isSome, s1)

/-- An atomic on host memory (R82): the old value, or none where it is not performed. -/
def State.hostAtomic (s : State) (tile a w op fmt b c : Nat) : Option Nat × State :=
  let (bad, s1) := s.check detAtomHost tile (!(hostAtomOk op fmt) || !Config.hostAtomics)
  if bad then (none, s1)
  else
    let old := leVal (Memory.reads s1.mem.host a w)
    match atomNew op fmt old b c with
    | some v => (some old, s1.hostWrite a (leBytes w v))
    | none => (some old, s1)

/-- Perform the lanes in ascending order (R60), each where its address lies, once nothing stands before any of them; gives the old values by lane.
The lines' turns are given up once all are performed. -/
def State.atomAll (g : GRef) (ctx op fmt w : Nat) : List (AtomLane × Span) → State → Go (Tbl Nat)
  | [], s => .ok [] s
  | (l, x) :: ls, s =>
    let go : Option Nat → State → Go (Tbl Nat) := fun v t =>
      (State.atomAll g ctx op fmt w ls t).bind fun r t1 => .ok (match v with | some o => (l.lane, o) :: r | none => r) t1
    match x.tgt with
    | 0 =>
      let (old, s) := s.shownVal x.addr w
      match s.devPerform (.group g.tile g.slot) ⟨some ctx, some g.tile, 0, none, false, 1⟩ x.addr w old
        fun old t => (atomNew op fmt old l.b l.c, t) with
      | .done old s1 =>
        let line := x.addr / 128
        let now := leBytes w (s1.devVal x.addr w)
        go (some old) (s1.setTile g.tile ((s1.tile g.tile).l1Update line (bytesAt (x.addr % 128) now)))
      | .poison c s1 => .lose c l.addr s1
      | .wait s1 => .stall s1
    | 1 =>
      match s.boardAns (.group g.tile g.slot) (atomKey l.lane) with
      | some a => if a.poison then .lose stPoisonConsumed l.addr s else go (some (leVal a.bytes)) s
      | none => .stall s
    | _ =>
      if s.hostCut then .lose stPoisonConsumed l.addr (s.note detPcieCpl 0) else
      let r := s.hostAtomic g.tile x.addr w op fmt l.b l.c
      go r.1 r.2

/-- Write the old values into D of their lanes and go to the next word. -/
def writeOld (gr : Group) (d n : Nat) (r : Tbl Nat) : Group :=
  (r.foldl (fun (a : Group) e => Group.wrN n a e.1 d e.2) gr).next

/-- A global atomic of a group: the tile's earlier stores to its lines are performed first (R73), and before a release that
reaches beyond the tile all of them are (R77, R78). Only lanes that are performed are performed at another scope (R80, R82). -/
def State.atomGlobal (s : State) (g : GRef) (i : Insn) (op : Nat) (gr : Group) : Go Unit :=
  let fmt := i.fmt.toNat
  let n := regsOf fmt
  let ctx := s.ctxOf g gr
  let (ls, s1) := s.aligned g (4 * n) (atomLanes gr i fun l => (gr.rd64 l (regNum i.a)).toNat)
  (State.atomSpans ctx (4 * n) ls s1).bind fun xs s2 =>
    let t := s2.tile g.tile
    let narrow := decide (i.mod.toNat % 4 ≠ 0) && decide (i.mod.toNat / 4 % 4 < 3) && xs.any fun x =>
      decide (x.2.tgt = 1) || (decide (x.2.tgt = 2) && hostAtomOk op fmt && Config.hostAtomics)
    let rel := decide (2 ≤ i.mod.toNat % 4) && (decide (2 ≤ i.mod.toNat / 4 % 4) || narrow || xs.any fun x => x.2.own)
    let before := xs.any fun x => t.storeQ.any fun e => decide (e.tgt = x.2.tgt) && decide (e.line = x.2.addr / 128)
    if before || (rel && (!t.storeQ.isEmpty || s2.tileBoardBusy g.tile)) then .stall s2
    else
      let (here, s3) := s2.atomFar g ctx op fmt xs
      if here = false then .stall s3
      else
        let o := Owner.group g.tile g.slot
        match s3.reachAll o (some ctx) (xs.map (·.2)) true true with
        | .failed => .lose stPoisonConsumed 0 s3
        | .asleep d => .stall (s3.noteDom o d)
        | .busy => .stall (s3.takeTurn o (some ctx) (devLines (xs.map (·.2))))
        | .ok =>
          (State.atomAll g ctx op fmt (4 * n) xs s3).bind fun r s4 =>
            .ok () ((((s4.leaveTurn o (some ctx) (devLines (xs.map (·.2)))).boardDone o).scopeCheck g narrow).putGroup g (writeOld gr (regNum i.d) n r))

/-- Perform the lanes of a scratch atomic in ascending order. -/
def Tile.atomScratch (base op fmt w : Nat) : List AtomLane → Tile → Tbl Nat × Tile
  | [], t => ([], t)
  | l :: ls, t =>
    let old := leVal (Memory.reads t.scratch (base + l.addr) w)
    let t1 := match atomNew op fmt old l.b l.c with
      | some v => t.scratchWrite (base + l.addr) (leBytes w v)
      | none => t
    let r := Tile.atomScratch base op fmt w ls t1
    ((l.lane, old) :: r.1, r.2)

/-- An atomic instruction (Table 2.11). -/
def State.atom (s : State) (g : GRef) (i : Insn) (op : Nat) : State :=
  s.issueGo g i (formAtom op i) fun gr t =>
    if i.ext.getLsbD 0 then
      let n := regsOf i.fmt.toNat
      let (ls, t1) := t.aligned g (4 * n) (atomLanes gr i fun l => (gr.rd l (regNum i.a)).toNat)
      let (ue, t1) := if ls = [] then (false, t1) else t1.tileSram .scratch g.tile
      if ue then .lose stPoisonConsumed 0 t1
      else t1.scratchOp g i gr (ls.map fun l => (l.addr, 4 * n)) fun b t2 =>
        let r := Tile.atomScratch b.base op i.fmt.toNat (4 * n) ls (t2.tile g.tile)
        (t2.setTile g.tile r.2).putGroup g (writeOld gr (regNum i.d) n r.1)
    else t.atomGlobal g i op gr

/-- ATOM.ADD (Table 2.11). -/
def execAtomAdd (g : GRef) (i : Insn) (s : State) : Host.Outcome State Fault Refusal := .next (s.atom g i 0)
/-- ATOM.MIN (Table 2.11). -/
def execAtomMin (g : GRef) (i : Insn) (s : State) : Host.Outcome State Fault Refusal := .next (s.atom g i 1)
/-- ATOM.MAX (Table 2.11). -/
def execAtomMax (g : GRef) (i : Insn) (s : State) : Host.Outcome State Fault Refusal := .next (s.atom g i 2)
/-- ATOM.AND (Table 2.11). -/
def execAtomAnd (g : GRef) (i : Insn) (s : State) : Host.Outcome State Fault Refusal := .next (s.atom g i 3)
/-- ATOM.OR (Table 2.11). -/
def execAtomOr (g : GRef) (i : Insn) (s : State) : Host.Outcome State Fault Refusal := .next (s.atom g i 4)
/-- ATOM.XOR (Table 2.11). -/
def execAtomXor (g : GRef) (i : Insn) (s : State) : Host.Outcome State Fault Refusal := .next (s.atom g i 5)
/-- ATOM.EXCH (Table 2.11). -/
def execAtomExch (g : GRef) (i : Insn) (s : State) : Host.Outcome State Fault Refusal := .next (s.atom g i 6)
/-- ATOM.CAS (Table 2.11). -/
def execAtomCas (g : GRef) (i : Insn) (s : State) : Host.Outcome State Fault Refusal := .next (s.atom g i 7)

/-- CISTERN_ATOMIC (R81): a request's atomic on its line, answered with the old value; a misaligned one is not performed. -/
def execCisternAtomic (q : MemReq) (dpa op fmt : Nat) (b c : BitVec 64) (s : State) : Host.Outcome State Fault Refusal :=
  let w := bitsOfFmt fmt / 8
  .next (
    if dpa % w ≠ 0 ∨ 8 ≤ op ∨ fmt ∉ atomFmts op then s
    else
      match s.devAtomic (.access dpa w) q dpa w fun old => atomNew op fmt old (b.toNat % 2 ^ (8 * w)) (c.toNat % 2 ^ (8 * w)) with
      | .done old t => t.emit (.served (leBytes w old) false)
      | .wait t => t
      | .poison _ t =>
        let t1 := t.emit (.served [] true)
        match q.ctx with
        | some k => t1.lose k stPoisonConsumed 0 (lostAt 4 0) none
        | none => t1.tagSettle)

end Sys2Proof.Machine
end

