-- ==== Sys2Proof/Machine/RegBase.lean ====
section
/-!
DEFINITION. What every write to a BAR0 register meets before its own rule (00 R10 to R13, 10 R300, 16 R426): the period before a
load, reserved bits, locked fields; and how a plain register takes its value.
-/
namespace Sys2Proof.Machine

/-- Whether an image is loaded, so that the blocks outside the identity and status page exist (R300). -/
def State.loaded (s : State) : Bool := s.load.img.isSome

/-- A register write that breaks a rule is dropped and counted; DET_REG_LAST names it (`bar` 0, 1 for BAR2, 2 for BAR4). -/
def State.violation (s : State) (off bar : Nat) (mon : Bool) : State :=
  (s.det detRegViolation).setReg regDetRegLast
    (BitVec.ofNat 64 (off % 2 ^ 26 + bar * 2 ^ 26 + (if mon then 2 ^ 28 else 0) + 2 ^ 63))

/-- A host write outside the identity and status page before a load is dropped and counts in IDENT_PRELOAD_DROP (R300). -/
def State.preloadDrop (s : State) : State := s.bumpFld regIdentPreloadDrop 0 64 1

/-! ## The host's side (R380, R395, R414, R451) -/

/-- A TLP that a rule refuses: DET_PCIE_ERR counts, with an answer of Unsupported Request where it asks for one, and with AER or without. -/
def State.tlpRefused (s : State) (ur aer : Bool) : State := (s.note detPcieErr 0).emit (.pcie ur aer)

/-- Whether the host's accesses reach registers and memory: the PCIe link is up, its IDE stream is not Insecure, the Cairn is not held for want of
firmware, and I/O die 0 is at RUN. -/
def State.hostUp (s : State) : Bool :=
  s.pwr.linkUp && !s.hostCut && decide (s.pwr.phase ≠ .noFirmware) && decide (s.domState domHost = 0)

/-- A host access that does not reach them: while the stream is Insecure it is refused, I/O die 0 is woken for it, and else nothing answers. -/
def State.hostRefused (s : State) (isRead : Bool) : State :=
  if s.pwr.linkUp = false ∨ s.pwr.phase = .noFirmware then s
  else if s.hostCut then s.tlpRefused isRead false
  else s.stir (.host (!isRead)) (s.reachDoms [domHost])

/-- The bits of a register that belong to some field. -/
def RegDesc.known (d : RegDesc) : Nat := d.rw ||| d.ro ||| d.wo ||| d.w1c ||| d.rwl

/-- Whether a value may be written: no reserved bit set (R12), and no write to a register of RWL fields after the lock (Table 0.2). -/
def RegDesc.accepts (d : RegDesc) (v : BitVec 64) (locked : Bool) : Bool :=
  decide (v.toNat ||| d.known = d.known) && !(locked && decide (d.rwl ≠ 0))

/-- A register's value after a plain write (Table 0.2): RW and RWL fields take the value, a 1 clears a W1C bit. -/
def RegDesc.after (d : RegDesc) (old v : BitVec 64) : BitVec 64 :=
  let m : BitVec 64 := BitVec.ofNat 64 (d.rw ||| d.rwl)
  ((old &&& ~~~m) ||| (v &&& m)) &&& ~~~(v &&& BitVec.ofNat 64 d.w1c)

/-- A write of `v` to the register at `off`, whole, by the monitor (`mon`) or the host, whose writes may not reach it: dropped before a load,
dropped and counted where a rule is broken (or an injector fires at point 0), and otherwise given to the register's own rule `k`. -/
def State.regWrite (s : State) (off : Nat) (v : BitVec 64) (mon : Bool) (k : State → State) : State :=
  if mon = false ∧ s.hostUp = false then s.hostRefused false
  else if s.loaded = false ∧ 0x1000 ≤ off then s.preloadDrop
  else
    match regAt off with
    | none => (s.judge detRegViolation 0 true).2.violation off 0 mon
    | some d =>
      let (bad, s1) := s.judge detRegViolation 0 (!d.accepts v s.load.locked)
      if bad then s1.violation off 0 mon else k s1

/-- A plain register takes its value. -/
def State.regPlain (s : State) (off : Nat) (v : BitVec 64) : State :=
  match regAt off with
  | some d => s.setReg off (d.after (s.reg off) v)
  | none => s

end Sys2Proof.Machine
end

