-- ==== Sys2Proof/Machine/CisternCmd.lean ====
section
/-!
DEFINITION. The commands of the cisterns and channel controllers (09): reads and writes as a cistern serves them, victims, slots,
HBM reads and write-backs with their ECC, scrub, refresh, and the window registers.
-/
namespace Sys2Proof.Machine

/-! ## Requests at a cistern (R253 to R266, R271, R272) -/

/-- The local line of a device line. -/
def State.localLine (s : State) (line : Nat) : Nat := ((s.home (line * 128)).map (·.2)).getD 0

/-- A request is answered poisoned, and the context it was made for is lost (R272). -/
def State.servedPoison (s : State) (q : MemReq) : State :=
  let s1 := s.emit (.served [] true)
  match q.ctx with
  | some c => s1.lose c stPoisonConsumed 0 (lostAt 4 0) none
  | none => s1.tagSettle

/-- CISTERN_READ (R253 to R259, R272): a cistern serves `n` bytes of one line; its answer leaves with the data, or poisoned, and
the context on whose behalf poison is consumed is lost. -/
def execCisternRead (q : MemReq) (dpa n : Nat) (s : State) : Host.Outcome State Fault Refusal :=
  .next (
    if n = 0 ∨ 128 < dpa % 128 + n ∨ (s.home dpa).isNone then s
    else
      let line := dpa / 128
      let offs := offsOf dpa n
      let miss := !s.hits line offs
      let o := Owner.access dpa n
      match s.reachLine o q.ctx line miss with
      | .failed => s.servedPoison q
      | .asleep d => s.noteDom o d
      | .busy => s.takeTurn o q.ctx [line]
      | .ok =>
        let (data, s) := s.shown dpa n
        let r := s.cisRead q line offs
        let t := r.st.leaveTurn o q.ctx [line]
        if r.poison then t.servedPoison q
        else if q.quiet then t.emit (.served [] false)
        else
          let (bad, s1) := t.reply line
          if bad then s1.servedPoison q else s1.emit (.served data false))

/-- Whether the k-th entry of a store queue may be performed: no earlier one writes the same line, and a release waits for every
earlier store and for the tile's board writes (R77, R84). -/
def State.storeReady (s : State) (tile k : Nat) (e : QStore) : Bool :=
  let before := (s.tile tile).storeQ.take k
  (before.all fun b => !(decide (b.tgt = e.tgt) && decide (b.line = e.line))) &&
  (!e.rel || (decide (k = 0) && !s.tileBoardBusy tile))

/-- A store's context loses it (R332), charged to the storing group's command where the group is still there. -/
def State.loseStore (s : State) (tile : Nat) (e : QStore) (code : Nat) : State :=
  s.lose e.ctx code 0 (lostAt 0 tile) (if (s.cmd e.gid.cmd).isSome then some e.gid.cmd else none)

/-- A store's acknowledgement reaches its group, whose timer restarts (R70). -/
def State.ackStore (s : State) (tile : Nat) (e : QStore) : State := s.restartOf ⟨tile, e.slot⟩ e.gid

/-- CISTERN_WRITE (R84, R253, R258, R265, R271, R364, R387, R388): the k-th store of a tile's store queue is performed. -/
def execCisternWrite (tile k : Nat) (s : State) : Host.Outcome State Fault Refusal :=
  .next (
    match (s.tile tile).storeQ[k]? with
    | none => s
    | some e =>
      if s.storeReady tile k e = false then s
      else
        let t := s.tile tile
        let gone := s.setTile tile { t with storeQ := t.storeQ.take k ++ t.storeQ.drop (k + 1) }
        match e.tgt with
        | 0 =>
          let q : MemReq := ⟨some e.ctx, some tile, e.hint, none, false, 1⟩
          let o := Owner.store tile e.slot
          match s.reachLine o q.ctx e.line false with
          | .failed => gone.loseStore tile e stPoisonConsumed
          | .asleep d => s.noteDom o d
          | .busy => s.takeTurn o q.ctx [e.line]
          | .ok =>
            if s.writeWaits e.line then s.takeTurn o q.ctx [e.line]
            else
              let (par, s1) := gone.parity tile
              match par with
              | some inj => ((s1.poisonFlit e.line 3 detParity inj).leaveTurn o q.ctx [e.line]).loseStore tile e (causeOf stPoisonConsumed inj)
              | none =>
                let r := s1.cisWrite q e.line e.bytes
                let s2 := r.st.leaveTurn o q.ctx [e.line]
                if r.poison then s2.loseStore tile e stPoisonConsumed else s2.ackStore tile e
        | 1 =>
          let o := Owner.store tile e.slot
          match s.boardReach o (128 * e.line) with
          | .failed => gone.loseStore tile e stPoisonConsumed
          | .asleep d => s.noteDom o d
          | .ok | .busy => gone.boardWrite o (some e.gid) e.ctx e.line e.bytes
        | _ =>
          let o := Owner.store tile e.slot
          match s.hostReach o with
          | .failed => gone.loseStore tile e stPoisonConsumed
          | .asleep d => s.noteDom o d
          | .ok | .busy =>
          (e.bytes.foldl (fun (u : State) b => u.hostWrite (128 * e.line + b.1) [b.2]) gone).ackStore tile e)

/-- CISTERN_VICTIM_WRITEBACK (R256): the dirty victim of a full set is written back and its way is free. -/
def execCisternVictimWriteback (chan set : Nat) (s : State) : Host.Outcome State Fault Refusal :=
  .next (
    if s.domState (domOfChan chan) ≠ 0 ∨ s.domState (domOfStack chan) ≠ 0 then s.stir .noone (s.reachDoms [domOfChan chan, domOfStack chan])
    else
      let c := s.cistern chan
      if (c.lines.filter fun l => l.set = set).length < 16 then s
      else
        let p := pickVictim 16 c.lines set
        match p.2 with
        | some v =>
          if v.dirty then
            let s1 := s.writeBack v
            s1.setCistern chan { s1.cistern chan with lines := p.1 }
          else s
        | none => s)

/-! ## Channel controllers (R267 to R270) -/

/-- The requests that have no older request of their line before them (R268: the same line is never reordered). -/
def firstOfLine : List ChanReq → List Nat → List ChanReq
  | [], _ => []
  | r :: rs, seen => if r.line ∈ seen then firstOfLine rs seen else r :: firstOfLine rs (r.line :: seen)

/-- The requests that must go before the first class 3 request of a line, and how many they are: those of the line that came earlier. -/
def beforeThree (rs : List ChanReq) (line : Nat) : Option Nat :=
  let mine := rs.filter fun r => r.line = line
  if mine.any fun r => r.cls = 3 then some (mine.takeWhile fun r => r.cls ≠ 3).length else none

/-- The line whose class 3 request can have its slot soonest, with the slots it takes before (R268). -/
def guardLine (rs : List ChanReq) : Option (Nat × Nat) :=
  rs.foldl (fun (m : Option (Nat × Nat)) r =>
    match beforeThree rs r.line with
    | none => m
    | some k => match m with
      | some x => if x.2 ≤ k then m else some (r.line, k)
      | none => some (r.line, k)) none

/-- The line that the guard of R268 now needs the slot for, after `g` slots without class 3: where only a slot for it still gives class 3 one of 16,
the line whose bank is ready if one is in time, otherwise the soonest, whose bank the slot waits for. -/
def guardNeeds (rs : List ChanReq) (g : Nat) (ready : Nat → Bool) : Option Nat :=
  match guardLine rs with
  | none => none
  | some x =>
    if g + x.2 < 15 then none
    else
      match guardLine (rs.filter fun (r : ChanReq) => ready r.line) with
      | some y => if g + y.2 ≤ 15 then some y.1 else some x.1
      | none => some x.1

/-- The request that a slot goes to (R267, R268), of those that have no older request of their line before them: the first of the line that the
guard needs it for; otherwise, of those whose bank is ready, the oldest of the highest class that waits. -/
def slotWinner (rs : List ChanReq) (g : Nat) (ready : Nat → Bool) : Option ChanReq :=
  let f : List ChanReq := (firstOfLine rs []).filter fun r => ready r.line
  let guarded := (guardNeeds rs g ready).bind fun l => (firstOfLine rs []).find? fun (r : ChanReq) => r.line = l
  match guarded with
  | some r => some r
  | none =>
    match f.find? fun (r : ChanReq) => r.cls = 1 with
    | some r => some r
    | none =>
      match f.find? fun (r : ChanReq) => r.cls = 2 with
      | some r => some r
      | none => f.head?

/-- CHANNEL_SLOT_GRANT (R267, R268): the controller gives one slot of a pseudo-channel; which banks are ready is a free choice (log 9). -/
def execChannelSlotGrant (chan pc : Nat) (s : State) : Host.Outcome State Fault Refusal :=
  .next (
    if 2 ≤ pc then s
    else if s.domState (domOfStack chan) ≠ 0 then
      if (s.cistern chan).reqs = [] then s else s.stir .noone (s.reachDoms [domOfStack chan])
    else
      let c := s.cistern chan
      let mine := c.reqs.filter fun r => r.pc = pc
      let g := if pc = 0 then c.guard0 else c.guard1
      let s1 := { s with fresh := s.fresh + 1 }
      match slotWinner mine g (Config.bankReady s.fresh) with
      | none => s1
      | some r =>
        let waits := mine.any fun x => x.cls = 3
        let g1 := if r.cls = 3 ∨ waits = false then 0 else g + 1
        let c1 := { c with reqs := c.reqs.erase r }
        s1.setCistern chan (if pc = 0 then { c1 with guard0 := g1 } else { c1 with guard1 := g1 }))

/-- HBM_READ (R253, R255, R270, R271, R277, R387): the controller reads a line that its cistern does not hold whole; the line is
corrected, or poisoned in the cistern. -/
def execHbmRead (line : Nat) (ecc : Ecc) (s : State) : Host.Outcome State Fault Refusal :=
  .next (
    match s.lineHome line with
    | none => s
    | some (n, set, _) =>
      if s.hits line (List.range 128) then s
      else
        match s.reachLine .noone none line true with
        | .ok => s.fetchLine ⟨none, none, 0, none, true, 1⟩ n set line ecc
        | r => s.stir .noone r)

/-- HBM_WRITEBACK (R255, R258, R271): a dirty line is written to HBM by ECC word with its merges, and its cistern holds it clean. -/
def execHbmWriteback (line : Nat) (ecc : Ecc) (s : State) : Host.Outcome State Fault Refusal :=
  .next (
    match s.lineHome line with
    | none => s
    | some (n, _, _) =>
      match (s.cistern n).lineOf line with
      | none => s
      | some l =>
        if l.dirty = false then s
        else if s.reachLine .noone none line true ≠ .ok then s.stir .noone (s.reachLine .noone none line true)
        else
          let s1 := s.writeBackEcc l ecc
          let bad := s1.hbmPoison line && !s.hbmPoison line
          let c := s1.cistern n
          s1.setCistern n { c with lines := c.lines.map fun (x : CLine) =>
            if x.line = line then { x with dirty := false, poison := x.poison || bad } else x })

/-- SCRUB (R270): the scrub reads a line's words in class 3; a corrected word is written back, and an uncorrectable one poisons the
line in the cistern. SCRUB_H of 0 stops scrubbing. -/
def execScrub (line : Nat) (ecc : Ecc) (s : State) : Host.Outcome State Fault Refusal :=
  .next (
    match s.lineHome line with
    | none => s
    | some (n, set, _) =>
      if s.fld regCisErrCfg 40 8 = 0 then s
      else if s.reachLine .noone none line true ≠ .ok then s.stir .noone (s.reachLine .noone none line true)
      else
        let (ue, s1) := (s.queueChan n 3 line false).hbmJudge n line ecc
        if ue = false then s1
        else
          let c := s1.cistern n
          match c.lineOf line with
          | some _ =>
            s1.setCistern n { c with lines := c.lines.map fun (x : CLine) => if x.line = line then { x with poison := true } else x }
          | none =>
            s1.allocate ⟨none, none, 1, none, true, 3⟩ n set line (s1.fillBytes line []) false true (Tbl.getD s1.mem.tags line 0))

/-- HBM_REFRESH (R267, R269): refresh comes before every class and moves no data; nothing software sees changes. -/
def execHbmRefresh (_chan _bank : Nat) (s : State) : Host.Outcome State Fault Refusal := .next s

/-! ## Window registers (R263) -/

/-- A window's range. -/
def State.winRange (s : State) (w : Nat) : Nat × Nat := (s.fld (regCisWinBase w) 16 24, s.fld (regCisWinLimit w) 16 24)

/-- Whether a write that sets EN = 1 passes the checks of R263. -/
def State.winMayEnable (s : State) (w : Nat) (v : BitVec 64) : Bool :=
  let r := s.winRange w
  decide (r.1 < r.2) && decide (1 ≤ field v 3 4) && decide (field v 3 4 ≤ s.fld regCisCfg 25 4) &&
  (List.range 64).all fun x =>
    decide (x = w) || decide (s.fld (regCisWinCtrl x) 0 1 = 0) || decide (r.2 ≤ (s.winRange x).1) || decide ((s.winRange x).2 ≤ r.1)

/-- Every line of a window becomes normal in place (R263). -/
def State.winRelease (s : State) (w : Nat) : State :=
  { s with mem := { s.mem with cis := s.mem.cis.map fun n =>
      (n.1, { n.2 with lines := n.2.lines.map fun (l : CLine) => if l.persist ∧ l.win = w then { l with persist := false, win := 0 } else l }) } }

/-- A write of CIS_WIN_CTRL (R263): while EN is 1 only EN may change; EN = 0 releases the window's lines. -/
def State.winCtrl (s : State) (w : Nat) (v : BitVec 64) : State :=
  let old := s.reg (regCisWinCtrl w)
  let on := decide (field old 0 1 = 1)
  let same := decide (v.toNat / 2 = old.toNat / 2)
  if field v 0 1 = 0 then
    if on then
      let (bad, s1) := s.check detCisCfgReject 0 (!same)
      if bad ∧ same then s1 else (s1.setFld (regCisWinCtrl w) 0 1 0).winRelease w
    else
      let (bad, s1) := s.check detCisCfgReject 0 false
      if bad then s1 else s1.setReg (regCisWinCtrl w) v
  else
    let (bad, s1) := s.check detCisCfgReject 0 (!((!on || same) && s.winMayEnable w v))
    if bad then s1 else s1.setReg (regCisWinCtrl w) v

/-- A write of CIS_WIN_BASE or CIS_WIN_LIMIT (R263). -/
def State.winBound (s : State) (w : Nat) (limit : Bool) (v : BitVec 64) : State :=
  let (bad, s1) := s.check detCisCfgReject 0 (decide (s.fld (regCisWinCtrl w) 0 1 = 1))
  if bad then s1 else s1.setReg (if limit then regCisWinLimit w else regCisWinBase w) v

/-- CIS_WIN_CTRL_WRITE (R263). -/
def execCisWinCtrlWrite (w : Nat) (v : BitVec 64) (s : State) : Host.Outcome State Fault Refusal :=
  .next (if 64 ≤ w then s else s.regWrite (regCisWinCtrl w) v false fun t => t.winCtrl w v)

/-- CIS_WIN_RANGE_WRITE (R263). -/
def execCisWinRangeWrite (w : Nat) (limit : Bool) (v : BitVec 64) (s : State) : Host.Outcome State Fault Refusal :=
  .next (if 64 ≤ w then s
    else s.regWrite (if limit then regCisWinLimit w else regCisWinBase w) v false fun t => t.winBound w limit v)

end Sys2Proof.Machine
end

