-- ==== Sys2Proof/Machine/Desc.lean ====
section
/-!
DEFINITION. Tensor descriptors (06 R166 to R182): their fields, the checks of R171 to R173, element positions and delivery order, the
transforms in flight, and FP64 slicing (05 R151, R152, R156).
-/
namespace Sys2Proof.Machine

/-- A tensor descriptor: its 512 bits (Table 6.1). -/
abbrev TDesc := BitVec 512

/-- A field of a descriptor. -/
def tFld (d : TDesc) (lo n : Nat) : Nat := bitsOf d.toNat lo n

def tBase (d : TDesc) : Nat := tFld d 0 57
def tFmt (d : TDesc) : Nat := tFld d 57 4
def tNdim (d : TDesc) : Nat := tFld d 61 3
def tTid (d : TDesc) : Nat := tFld d 64 32
def tHint (d : TDesc) : Nat := tFld d 96 2
def tWinEn (d : TDesc) : Bool := tFld d 98 1 = 1
def tWin (d : TDesc) : Nat := tFld d 99 6
def tTrn (d : TDesc) : Bool := tFld d 105 1 = 1
def tUpk (d : TDesc) : Bool := tFld d 106 1 = 1
def tScl (d : TDesc) : Bool := tFld d 107 1 = 1
def tOfmt (d : TDesc) : Nat := tFld d 108 2
def tSlice (d : TDesc) : Nat := tFld d 110 4
def tScnt (d : TDesc) : Nat := tFld d 114 2
def tIdxEn (d : TDesc) : Bool := tFld d 116 1 = 1
def tIdxDim (d : TDesc) : Nat := tFld d 117 3
def tAdd (d : TDesc) : Bool := tFld d 120 1 = 1
def tLayout (d : TDesc) : Nat := tFld d 121 2
def tPfd (d : TDesc) : Nat := tFld d 123 4

/-- A slot of 64 bits. -/
def tSlot (d : TDesc) (k : Nat) : Nat := tFld d (128 + 64 * k) 64

/-- EXTENT of a dimension. -/
def tExt (d : TDesc) (k : Nat) : Nat := tFld d (128 + 64 * k) 32

/-- STRIDE of a dimension, in elements. -/
def tStr (d : TDesc) (k : Nat) : Int := sVal 32 (tFld d (160 + 64 * k) 32)

/-- SBASE of the auxiliary slot. -/
def tSbase (d : TDesc) : Nat := tFld d 384 57

/-- EW of the auxiliary slot. -/
def tEw (d : TDesc) : Int := sVal 16 (tFld d 384 16)

/-- IBASE of the index slot. -/
def tIbase (d : TDesc) : Nat := tFld d 448 57

/-- Whether slot 4 is the auxiliary slot (R167). -/
def tAux (d : TDesc) : Bool := isMx (tFmt d) || decide (tSlice d ≠ 0)

/-- The dimensions. -/
def tDims (d : TDesc) : List Nat := List.range (tNdim d)

/-- The memory dimension of delivered dimension `k` (R170). -/
def tDim (d : TDesc) (k : Nat) : Nat := if tTrn d then (if k = 0 then 1 else if k = 1 then 0 else k) else k

/-- The extent of delivered dimension `k`, 1 beyond the last. -/
def tDext (d : TDesc) (k : Nat) : Nat := if k < tNdim d then tExt d (tDim d k) else 1

/-- The number of elements. -/
def tTotal (d : TDesc) : Nat := (tDims d).foldl (fun p k => p * tExt d k) 1

/-- The request marks of a descriptor (R190). -/
def tReq (d : TDesc) (ctx : Nat) (quiet : Bool) : MemReq :=
  ⟨some ctx, none, tHint d, if tWinEn d then some (tWin d) else none, quiet, 2⟩

/-! ## Checks on acceptance (R171) -/

/-- Bits of an element as it is delivered (R175 to R177). -/
def tOutBits (d : TDesc) : Nat :=
  if tUpk d ∨ tSlice d ≠ 0 then 8
  else if tScl d then (if tOfmt d = 0 then 16 else 32)
  else memBits (tFmt d)

/-- Whether scale bytes are delivered. -/
def tScaled (d : TDesc) : Bool := isMx (tFmt d) && !tScl d

/-- Bytes of one delivered row: elements, then scale bytes or the inline exponent (Table 6.5). -/
def tRowBytes (d : TDesc) : Nat :=
  let n := tDext d 0
  n * tOutBits d / 8 + (if tScaled d then n / 32 else if tSlice d ≠ 0 then 2 else 0)

/-- RB: packed bytes of 32 delivered elements. -/
def tRb (d : TDesc) : Nat := 4 * tOutBits d

/-- Whether a BLOCK unit has an area (R178). -/
def tArea (d : TDesc) : Bool := tScaled d || decide (tSlice d ≠ 0)

/-- Reserved bits, unused fields, extents and slots (Table 6.4, first three rows). -/
def tFieldsOk (d : TDesc) (write : Bool) : Bool :=
  let n := tNdim d
  let slotOk := fun (k : Nat) =>
    decide (k < n) ||
    (if k = 4 ∧ tAux d then (if isMx (tFmt d) then decide (tFld d 441 7 = 0) else decide (tFld d 400 48 = 0))
     else if k = 5 ∧ tIdxEn d then decide (tFld d 505 7 = 0)
     else decide (tSlot d k = 0))
  decide (tFld d 127 1 = 0) && (List.range 6).all slotOk &&
  decide (tFmt d ≠ 14) && decide (n ≠ 0 ∧ n ≠ 7) && decide (tLayout d ≠ 3) && decide (tPfd d < 12) && decide (tSlice d < 10) &&
  (tWinEn d || decide (tWin d = 0)) && (decide (tSlice d ≠ 0) || decide (tScnt d = 0)) &&
  (tIdxEn d || decide (tIdxDim d = 0)) && (!write || decide (tPfd d = 0)) &&
  (tDims d).all (fun k => decide (tExt d k ≠ 0)) &&
  (!tAux d || decide (n ≤ 4)) && (!tIdxEn d || (decide (n ≤ 5) && decide (tIdxDim d < n) && decide (tIbase d % 4 = 0)))

/-- MX shape, transforms and role (Table 6.4). -/
def tShapeOk (d : TDesc) (write : Bool) : Bool :=
  let f := tFmt d
  let mx := isMx f
  (!mx || (decide (tExt d 0 % 32 = 0) && !(tIdxEn d && decide (tIdxDim d = 0)))) &&
  (!tUpk d || decide (f = 6)) && (!tScl d || (mx && !tUpk d)) &&
  (decide (tOfmt d = 0) || (tScl d && decide (tOfmt d = 1))) &&
  (decide (tSlice d = 0) || (decide (f = 12) && !tScl d && !tUpk d && decide (tSlice d ≤ tScnt d + 6) &&
    decide (-2048 ≤ tEw d) && decide (tEw d ≤ 2047))) &&
  (!tTrn d || decide (2 ≤ tNdim d)) &&
  (!write || (!tUpk d && !tScl d && decide (tSlice d = 0) && decide (tLayout d ≠ 1) && !(tTrn d && mx))) &&
  (!tAdd d || (write && decide (f = 15)))

/-- Layout and feed shape (Table 6.4). -/
def tLayoutOk (d : TDesc) (role : Nat) : Bool :=
  let f := tFmt d
  let read := decide (role < 2)
  (decide (f = 15) == decide (tLayout d = 2)) && (decide (tLayout d ≠ 2) || decide (tDext d 0 = 32)) &&
  !(read && isMx f && ((decide (tLayout d = 0) && tTrn d) || (decide (tLayout d = 1) && !tTrn d))) &&
  !(decide (role = 0) && decide (tLayout d = 0) && decide (tDext d 0 ≠ 64)) &&
  (decide (tLayout d ≠ 1) || (decide (tDext d 0 = 32) && decide (tDext d 1 = 64)))

/-- Scratch operands of FILL and SPILL (Table 6.4, R179). -/
def tScratchOk (d : TDesc) (role scr stride : Nat) : Bool :=
  decide (role % 2 = 0) ||
  (decide (scr % 32 = 0) && decide (stride % 32 = 0) && decide ((if tLayout d = 1 then tRb d else tRowBytes d) ≤ stride))

/-- The field checks of Table 6.4 for a role: 0 FEED, 1 FILL, 2 SINK, 3 SPILL. -/
def tCheck (d : TDesc) (role scr stride : Nat) : Bool :=
  let write := decide (2 ≤ role)
  tFieldsOk d write && tShapeOk d write && tLayoutOk d role && tScratchOk d role scr stride

/-- Base and stride widths in bytes (Table 6.3). -/
def tWidths (f : Nat) : Nat × Nat :=
  match f with
  | 2 | 3 | 7 => (32, 32)
  | 4 | 5 => (8, 24)
  | 6 => (16, 16)
  | 9 | 10 => (2, 2)
  | 11 | 13 => (4, 4)
  | 12 => (8, 8)
  | 15 => (32, 32)
  | _ => (1, 1)

/-- Alignment (R172). -/
def tAligned (d : TDesc) : Bool :=
  let w := tWidths (tFmt d)
  decide (tBase d % w.1 = 0) &&
  (tDims d).all fun k =>
    if isMx (tFmt d) ∧ k = 0 then decide (tStr d 0 = 1)
    else decide ((tStr d k * (memBits (tFmt d) : Nat)) % ((8 * w.2 : Nat) : Int) = 0)

/-- Insert a dimension in ascending order of magnitude of stride, ties in ascending number. -/
def insertDim (d : TDesc) : List Nat → Nat → List Nat
  | [], k => [k]
  | j :: js, k => if (tStr d k).natAbs < (tStr d j).natAbs then k :: j :: js else j :: insertDim d js k

/-- The test of R173 over dimensions in its order. -/
def tDisjointFrom (d : TDesc) : List Nat → Nat → Bool
  | [], _ => true
  | k :: ks, span =>
    let m := (tStr d k).natAbs
    decide (m ≠ 0) && decide (span ≤ m) && tDisjointFrom d ks (span + (tExt d k - 1) * m)

/-- Non-overlap of a write descriptor (R173). -/
def tDisjoint (d : TDesc) : Bool :=
  let last := if tIdxEn d then [tIdxDim d] else []
  let rest := (tDims d).filter fun k => !decide (k ∈ last)
  tDisjointFrom d (rest.foldl (insertDim d) [] ++ last) 1

/-! ## Positions (R169, R170) -/

/-- The delivered coordinates of element `n` of the delivery order. -/
def tCoords (d : TDesc) : Nat → Nat → List Nat
  | 0, _ => []
  | k + 1, n =>
    let e := tDext d (tNdim d - (k + 1))
    n % (max e 1) :: tCoords d k (n / max e 1)

/-- The coordinate in memory dimension `k` of element `n`. -/
def tCoord (d : TDesc) (n k : Nat) : Nat := (tCoords d (tNdim d) n).getD (tDim d k) 0

/-- The index-tensor position of element `n`, where the descriptor is indexed. -/
def tIdxPos (d : TDesc) (n : Nat) : Nat := tCoord d n (tIdxDim d)

/-- A number as an s64, which wraps (R9). -/
def s64 (x : Int) : Int := sVal 64 (wrapN 64 x)

/-- The element offset L of element `n` of the delivery order (R169), with the index values as read; none where it is skipped
(R180). -/
def tOffset (d : TDesc) (idx : Nat → BitVec 32) (n : Nat) : Option Int :=
  if tIdxEn d && decide (idx (tIdxPos d n) = 0x80000000#32) then none
  else some (s64 ((tDims d).foldl (fun (l : Int) k =>
    let c : Int := if tIdxEn d ∧ k = tIdxDim d then (idx (tIdxPos d n)).toInt else (tCoord d n k : Nat)
    l + c * tStr d k) 0))

/-- Whether a higher position of a scatter's index tensor holds the value of element `n`'s, so that the element is not written (R181). -/
def tHidden (d : TDesc) (idx : Nat → BitVec 32) (n : Nat) : Bool :=
  let j := tIdxPos d n
  tIdxEn d && !tAdd d && (List.range (tExt d (tIdxDim d) - (j + 1))).any fun k => idx (j + 1 + k) = idx j

/-- The first bit of an element at offset L, as an s64 (R169). -/
def tBit (d : TDesc) (l : Int) : Int := s64 (8 * (tBase d : Int) + l * (memBits (tFmt d) : Nat))

/-- The address of the first byte of an element, as 64 bits. -/
def tAddr (d : TDesc) (l : Int) : Nat := wrapN 64 (tBit d l / 8)

/-- Bits below the element in its first byte. -/
def tShift (d : TDesc) (l : Int) : Nat := (tBit d l % 8).toNat

/-- Bytes an element touches. -/
def tBytes (d : TDesc) (l : Int) : Nat := (tShift d l + memBits (tFmt d) + 7) / 8

/-- The address of the scale byte of an element (R169). -/
def tScaleAddr (d : TDesc) (l : Int) : Nat := wrapN 64 ((tSbase d : Int) + l / 32)

/-! ## Pieces of the delivery order -/

/-- The elements fetched or written together from element `n`: a BLOCK unit, a RECORD row, a row that is sliced, or up to 256
elements of a row. DESIGN CHOICE (log 48): a row to be sliced that has not 64 elements, which only a FILL can deliver, is one slice block. -/
def tPiece (d : TDesc) (n : Nat) : Nat :=
  let row := max (tDext d 0) 1
  if tLayout d = 1 then 2048
  else if tSlice d ≠ 0 then row
  else min 256 (row - n % row)

/-! ## Transforms (R175 to R177) -/

/-- An MX element with its scale, in OFMT (R176). -/
def sclElem (d : TDesc) (code scale : Nat) : Nat :=
  let f := if tOfmt d = 0 then fBF16 else fF32
  f.encode 0 false (scaledBy (arrElem (tFmt d) code) (if scale = 255 then none else some ((scale : Int) - 127)))

/-- An element as it is delivered, slicing apart. -/
def tTransform (d : TDesc) (code scale : Nat) : Nat :=
  if tUpk d then fE4M3.encode 0 false (fE2M1.decode code)
  else if tScl d then sclElem d code scale
  else code

/-! ## FP64 slicing (R151, R152, R156) -/

/-- A finite F64 as an integer count of 2^-1074, or none. -/
def f64Units (c : Nat) : Option Int :=
  match fF64.decode c with
  | .fin n m e => some (signedUnits (-1074) n m e)
  | _ => none

/-- The least x with every |a| below 2^x times 255/256, for a largest magnitude `m` in units of 2^-1074 (m not 0). -/
def sliceExp (m : Nat) : Int :=
  let k := bitLen m
  if 256 * m < 255 * 2 ^ k then (k : Int) - 1074 else (k : Int) + 1 - 1074

/-- Digit `i` of an element: `a` in units of 2^-(den), den at least 7 i (R151). -/
def sliceDigit (den : Nat) : Nat → Nat → Int → Int
  | 0, _, _ => 0
  | k + 1, j, r =>
    let dgt := (r * 2 ^ (7 * j + 1) + 2 ^ den) / 2 ^ (den + 1)
    if k = 0 then dgt else sliceDigit den k (j + 1) (r - dgt * 2 ^ (den - 7 * j))

/-- A slice block: digit `i` of each element as a byte, the inline exponent, and whether it counts in SPREAD. DESIGN CHOICE (log 48): a block that
holds a NaN or an infinity, which has no x and so no ratio of R156, does not count. -/
def sliceBlock (i : Nat) (ew : Int) (cs : List Nat) : List Nat × Nat × Bool :=
  let us := cs.map f64Units
  if us.any (·.isNone) then (cs.map fun _ => 0, 0x7FFF, false)
  else
    let as := us.map fun u => u.getD 0
    let m := as.foldl (fun m a => max m a.natAbs) 0
    if m = 0 then (cs.map fun _ => 0, wrapN 16 ew, false)
    else
      let x := sliceExp m
      let den := (x + 1074 + 64).toNat
      let least := as.foldl (fun m a => if a = 0 then m else min m a.natAbs) m
      let wide := decide (16 * least < 2 ^ (x + 1074).toNat)
      (as.map fun a => wrapN 8 (sliceDigit den i 1 (a * 2 ^ 64)), wrapN 16 x, wide)

end Sys2Proof.Machine
end

