-- ==== Sys2Proof/Machine/LaneCross.lean ====
section
/-!
DEFINITION. Cross-lane and special-register instructions (Table 2.9) and the random instructions (R221 to R223).
-/
namespace Sys2Proof.Machine

/-- The active lanes where the 32-bit register is not zero, as a mask. -/
def lanesNonzero (gr : Group) (r : Nat) : BitVec 32 :=
  gr.lanes.foldl (fun m l => if gr.rd l r = 0 then m else m ||| BitVec.ofNat 32 (2 ^ l)) 0

/-- The form of VOTE. DESIGN CHOICE (log 43): Table 2.9 has no FMT column; A and D are 32-bit, and the model accepts FMT 0 alone. -/
def formVote (i : Insn) : Form :=
  ⟨i.fmt == 0, decide (i.mod.toNat < 3), 0, 1, 1, 0, 0, 0⟩

/-- VOTE (Table 2.9): MOD[1:0] 0 any, 1 all, 2 ballot. -/
def execVote (g : GRef) (i : Insn) (s : State) : Host.Outcome State Fault Refusal :=
  .next (s.laneOp g i (formVote i) 1 fun gr _ =>
    let m := lanesNonzero gr (regNum i.a)
    match i.mod.toNat with
    | 0 => b2n (m ≠ 0)
    | 1 => b2n (m = gr.m)
    | _ => m.toNat)

/-- The form of BCAST and SHFL: D and A in the format, B a single register or IMM16. DESIGN CHOICE (log 43): Table 2.9 has no FMT column, so
every lane format 0x0 to 0x5 is accepted, which Table 2.5 calls valid in all lane classes, and B, of which five bits count, is a single
register of any number also in a 64-bit format. -/
def formShuffle (i : Insn) : Form := { formDAB [0, 1, 2, 3, 4, 5] i with b := 1 }

/-- BCAST (Table 2.9): A of lane B mod 32, B read once in the lowest active lane. -/
def execBcast (g : GRef) (i : Insn) (s : State) : Host.Outcome State Fault Refusal :=
  let n := regsOf i.fmt.toNat
  .next (s.laneOp g i (formShuffle i) n fun gr _ =>
    opVal gr (bVal gr i gr.first 1 (immSigned i.fmt.toNat) % 32) n i.a)

/-- SHFL (Table 2.9): A of lane B mod 32, B read in each lane. -/
def execShfl (g : GRef) (i : Insn) (s : State) : Host.Outcome State Fault Refusal :=
  let n := regsOf i.fmt.toNat
  .next (s.laneOp g i (formShuffle i) n fun gr l =>
    opVal gr (bVal gr i l 1 (immSigned i.fmt.toNat) % 32) n i.a)

/-- A special register but TCYC, by number (Table 2.9, R30). -/
def specialVal (g : GRef) (gr : Group) (b : Block) (num lane : Nat) : Nat :=
  match num with
  | 0 => lane
  | 1 => g.slot
  | 2 => gr.rank
  | 3 => b.groups
  | 4 => b.x
  | 5 => b.y
  | 6 => b.z
  | 7 => g.tile % 64
  | 8 => g.tile / 64
  | 9 => spurOfTile g.tile
  | 10 => crestOfTile g.tile
  | 12 => gr.l.toNat
  | 13 => gr.m.toNat
  | _ => gr.stack.length + gr.spilled

/-- The form of S2R. DESIGN CHOICE (log 48): a word with a reserved number (R56) is illegal. -/
def formS2r (i : Insn) : Form :=
  let num := (imm16 i).toNat
  ⟨decide (num ≤ 14 ∧ i.fmt.toNat = if num = 11 then 2 else 0), i.mod == 0, 0,
    if num = 11 then 2 else 1, 0, 0, 0, 2⟩

/-- S2R (Table 2.9): IMM = 1 and a number up to 14; 11 (TCYC) needs U64, the others U32. TCYC rises as tile-cycles occur: by
a free amount between reads (log 17). -/
def execS2r (g : GRef) (i : Insn) (s : State) : Host.Outcome State Fault Refusal :=
  let num := (imm16 i).toNat
  .next (s.issue g i (formS2r i) fun gr t =>
    match t.blockOf g gr with
    | none => t
    | some b =>
      if num = 11 then
        let (d, t1) := t.free
        let cyc := b.tcyc + d
        let tl := t1.tile g.tile
        let t2 := t1.setTile g.tile { tl with blocks := Tbl.put tl.blocks gr.block { b with tcyc := cyc } }
        t2.putGroup g (writeLanes gr (regNum i.d) 2 fun _ => cyc.toNat)
      else t.putGroup g (writeLanes gr (regNum i.d) 1 (specialVal g gr b num)))

/-! ## CG-412 -/

/-- One round of CG-412 on (x0, x1, x2, x3) with key words (k0, k1) (R221). -/
def cgRound (x0 x1 x2 x3 k0 k1 : BitVec 32) : BitVec 32 × BitVec 32 × BitVec 32 × BitVec 32 :=
  let p0 : BitVec 64 := 0xD3A2646D * x1.setWidth 64
  let p1 : BitVec 64 := 0xCA5A8267 * x3.setWidth 64
  (hi p1 + x0, rotl32 (lo p0) 9 ^^^ k0, hi p0 + x2, rotl32 (lo p1) 21 ^^^ k1)

/-- The rounds of CG-412; after the last, the key is added (R221). -/
def cgRounds : Nat → BitVec 32 → BitVec 32 → BitVec 32 → BitVec 32 → BitVec 32 → BitVec 32 → List (BitVec 32)
  | 0, x0, x1, x2, x3, k0, k1 => [x0 + k0, x1 + k1, x2 + k0, x3 + k1]
  | n + 1, x0, x1, x2, x3, k0, k1 =>
    let y := cgRound x0 x1 x2 x3 k0 k1
    cgRounds n y.1 y.2.1 y.2.2.1 y.2.2.2 (k0 + 0x9E3779B9) (k1 + 0x7F4A7C15)

/-- CG-412 (R221): o0 to o3 of a key and a counter. -/
def cg412 (key : BitVec 64) (c0 c1 c2 c3 : BitVec 32) : List (BitVec 32) :=
  cgRounds 12 c0 c1 c2 c3 (lo key) (hi key)

/-- CG-412 of an element, draw, identifier and step in the counter layout of R222. -/
def cgDraw (key : BitVec 64) (elem draw : Nat) (tid step : BitVec 32) : List (BitVec 32) :=
  cg412 key (BitVec.ofNat 32 elem) (BitVec.ofNat 32 (bitsOf elem 32 16 + draw % 65536 * 65536)) tid step

/-- The 128 bits RND writes in a lane: o0 to o3, or each as (o >> 8) x 2^-24 in F32 (Table 7.9). -/
def rndVal (gr : Group) (i : Insn) (l : Nat) : Nat :=
  let o := cgDraw gr.key (opVal gr l 2 i.a % 2 ^ 48) (opVal gr l 1 i.b) (gr.rd l (regNum i.c)) (gr.rd l (regNum i.c + 1))
  let v := fun (w : BitVec 32) => if i.fmt = 4 then fF32.encode 0 false (.fin false (w.toNat / 256) (-24)) else w.toNat
  o.foldr (fun w acc => v w + acc * 2 ^ 32) 0

/-- The form of RND. -/
def formRnd (i : Insn) : Form :=
  ⟨i.fmt == 0 || i.fmt == 4, i.mod == 0, 0, 4, 2, 1, 2, 0⟩

/-- RND (Table 7.9). -/
def execRnd (g : GRef) (i : Insn) (s : State) : Host.Outcome State Fault Refusal :=
  .next (s.laneOp g i (formRnd i) 4 fun gr l => rndVal gr i l)

/-- The form of RKEY. -/
def formRkey (i : Insn) : Form :=
  ⟨i.fmt == 2, i.mod == 0, 0, 0, 2, 0, 0, 0⟩

/-- RKEY (Table 7.9): the group key, from the lowest active lane. -/
def execRkey (g : GRef) (i : Insn) (s : State) : Host.Outcome State Fault Refusal :=
  .next (s.issue g i (formRkey i) fun gr t => t.putGroup g { gr.next with key := gr.rd64 gr.first (regNum i.a) })

end Sys2Proof.Machine
end

