-- ==== Sys2Proof/Machine/Command.lean ====
section
/-!
DEFINITION. Queue commands: fetch with its checks, start, completion, and the commands of the host interface itself (11 R318 to R326,
R329, R333; 09 R274; 02 R66, R67).
-/
namespace Sys2Proof.Machine

/-! ## Checks at submission (R321, R306, R329, R67) -/

/-- `n` bits from bit `lo`, set. -/
def ones (lo n : Nat) : Nat := (2 ^ n - 1) * 2 ^ lo

/-- The payload bits a command assigns (Tables 9.6, 11.18, 13.4, R235, R326, R352); none for an unassigned code. The commands whose
payloads are checked at their start (R207, R226) assign every bit here. -/
def payloadMask (opc : Nat) : Option Nat :=
  match opc with
  | 0x00 => some 0
  | 0x01 => some (ones 128 57 ||| ones 192 57 ||| ones 256 67 ||| ones 448 64)
  | 0x02 => some (ones 128 57 ||| ones 192 57 ||| ones 256 41)
  | 0x03 => some (ones 128 57 ||| ones 192 1 ||| ones 256 63)
  | 0x08 => some (ones 128 57 ||| ones 192 57 ||| ones 256 24)
  | 0x10 | 0x11 | 0x18 => some (ones 128 384)
  | 0x20 => some (ones 128 57)
  | 0x21 => some (ones 128 6 ||| ones 192 32)
  | 0x22 => some (ones 128 6)
  | 0x28 => some (ones 128 32 ||| ones 192 63)
  | 0x30 => some (ones 128 57 ||| ones 192 12 ||| ones 256 96 ||| ones 384 57 ||| ones 448 64)
  | 0x31 => some 0
  | 0x32 => some (ones 128 57 ||| ones 192 12 ||| ones 256 121)
  | _ => none

/-- The reserved bits of the header (Table 11.13). -/
def headerReserved : Nat := ones 12 4 ||| ones 27 5 ||| ones 121 7

/-- The reserved bits of the sync block (Table 11.14). -/
def syncReserved : Nat := ones 57 7 ||| ones 127 1 ||| ones 185 7 ||| ones 255 1 ||| ones 313 199

/-- The feature a command needs (Table 11.15). -/
def featureOf (opc : Nat) : Option Nat :=
  match opc with
  | 0x10 | 0x11 => some 7
  | 0x18 => some 6
  | 0x20 | 0x21 | 0x22 => some 5
  | 0x28 => some 3
  | 0x30 | 0x31 | 0x32 => some 4
  | _ => none

/-- Whether the addresses in a command's own payload keep their alignment (R321). -/
def payloadAligned (raw : Nat) : Bool :=
  let a := bitsOf raw 128 57
  match bitsOf raw 0 8 with
  | 0x01 | 0x03 => decide (a % 8 = 0)
  | 0x08 => decide (a % 128 = 0) && decide (bitsOf raw 192 57 % 128 = 0)
  | 0x20 => decide (a % 64 = 0)
  | 0x30 => decide (a % 16 = 0) && decide (bitsOf raw 384 57 % 8 = 0)
  | 0x32 => decide (a % 16 = 0) && decide (bitsOf raw 320 57 % 64 = 0)
  | _ => true

/-- Whether R321 lets a command through, with its sync block where it has one. -/
def commandOk (raw : Nat) (sync : Option Nat) : Bool :=
  let xptr := bitsOf raw 64 57
  let w := sync.getD 0
  decide (raw &&& headerReserved = 0) &&
  (match payloadMask (bitsOf raw 0 8) with
   | some m => decide (bitsOf raw 128 384 * 2 ^ 128 ||| m = m)
   | none => false) &&
  (sync.isSome || decide (xptr = 0)) && decide (bitsOf raw 16 11 ≤ 1024) && decide (xptr % 64 = 0) &&
  decide (w &&& syncReserved = 0) &&
  (!raw.testBit 11 || decide (bitsOf w 0 57 % 8 = 0)) && (!raw.testBit 10 || decide (bitsOf w 128 57 % 8 = 0)) &&
  (decide (bitsOf raw 16 11 = 0) || decide (bitsOf w 256 57 % 4 = 0)) && payloadAligned raw

/-- A launch's number of blocks. -/
def launchBlocks (raw : Nat) : Nat := bitsOf raw 256 16 * bitsOf raw 272 16 * bitsOf raw 288 16

/-- A launch's groups per block. -/
def launchGroups (raw : Nat) : Nat := bitsOf raw 304 5 + 1

/-- A launch's scratch on its tile, spill areas included. -/
def launchScratch (raw : Nat) : Nat := bitsOf raw 309 9 * 4096 + launchGroups raw * bitsOf raw 318 3 * 128

/-- Whether a launch keeps Table 2.13 (R67, R325). -/
def launchOk (raw : Nat) : Bool :=
  decide (0 < launchBlocks raw) && decide (bitsOf raw 309 9 ≤ 256) && decide (launchScratch raw ≤ 0x100000) &&
  (!raw.testBit 322 || decide (launchBlocks raw % 16 = 0))

/-- The TGT of an address, where its leaf is found. -/
def State.tgtOf (s : State) (ctx va : Nat) : Option Nat :=
  match (s.walk ctx va).1 with
  | .leaf e _ => some (field e 4 2)
  | _ => none

/-- Whether an event lies in host memory. -/
def State.inHost (s : State) (ctx va : Nat) : Bool := s.tgtOf ctx va == some 2

/-- The object a handle names, or the status of R329. -/
def CtxRun.handleObj (c : CtxRun) (h : Nat) : Nat ⊕ Nat :=
  let i := h % 65536
  let g := h / 65536 % 65536
  let e := Tbl.getD c.handles i ⟨0, none, none⟩
  if i < 2 ^ c.words.htLog2 then
    match e.obj with
    | some o =>
      if e.gen = g ∧ g ≠ 0 then .inl o
      else if g ≠ 0 ∧ e.gen ≠ 0 then .inr stObjectFreed else .inr stDescInvalid
    | none => if g ≠ 0 ∧ e.gen ≠ 0 ∧ e.gen ≠ g then .inr stObjectFreed else .inr stDescInvalid
  else .inr stDescInvalid

/-- The objects of handles, each once, or the status of the first that is not valid. -/
def CtxRun.handleObjs (c : CtxRun) : List Nat → List Nat ⊕ Nat
  | [] => .inl []
  | h :: hs =>
    match c.handleObj h with
    | .inr st => .inr st
    | .inl o =>
      match c.handleObjs hs with
      | .inr st => .inr st
      | .inl os => .inl (if o ∈ os then os else o :: os)

/-- The little-endian u32 values of bytes. -/
def u32s : Nat → List (BitVec 8) → List Nat
  | 0, _ => []
  | n + 1, bs => leVal (bs.take 4) :: u32s n (bs.drop 4)

/-! ## Fetch (R320, R321) -/

/-- A command enters its queue. -/
def State.enqueue (s : State) (r : CmdRef) (c : Cmd) : State :=
  match s.queue r.ctx r.queue with
  | some q => s.putQueue r.ctx r.queue { q with
      cmds := Tbl.put q.cmds r.id c, next := r.id + 1, fetched := if c.seq.isSome then q.fetched + 1 else q.fetched }
  | none => s

/-- The answer to a command that is not executed. -/
def refusedCmd (c : Cmd) (status : Nat) : Cmd := { c with phase := .finished status }

/-- The sync block a command names, if it names one (R321). -/
def State.syncBlock (s : State) (r : CmdRef) (raw : Nat) : Go (Option Nat) :=
  let xptr := bitsOf raw 64 57
  if (raw.testBit 10 ∨ raw.testBit 11 ∨ bitsOf raw 16 11 ≠ 0) ∧ xptr % 64 = 0 then
    (s.vKeep (.cmd r) r.ctx (plainReq (some r.ctx)) xptr 64).bind fun bs t => .ok (some (leVal bs)) t
  else .ok none s

/-- The WAIT and SIG of a sync block. -/
def withSync (c : Cmd) (w : Nat) : Cmd :=
  { c with
    wait := if c.raw.getLsbD 11 then some (BitVec.ofNat 64 (bitsOf w 0 57), BitVec.ofNat 64 (bitsOf w 64 63)) else none
    sig := if c.raw.getLsbD 10 ∧ bitsOf w 128 57 % 8 = 0 then
      some (BitVec.ofNat 64 (bitsOf w 128 57), BitVec.ofNat 64 (bitsOf w 192 63)) else none }

/-- The handles a command names, read from its list. -/
def State.handleList (s : State) (r : CmdRef) (raw : Nat) (sync : Option Nat) : Go (List Nat) :=
  let n := bitsOf raw 16 11
  if n = 0 then .ok [] s
  else (s.vKeep (.cmd r) r.ctx (plainReq (some r.ctx)) (bitsOf (sync.getD 0) 256 57) (4 * n)).bind fun bs t => .ok (u32s n bs) t

/-- The checks of a command of a live context, in order: R321, R67, R306, R329. -/
def State.submit (s : State) (r : CmdRef) (run : CtxRun) (c : Cmd) (sync : Option Nat) : Go State :=
  let raw := c.raw.toNat
  let opc := bitsOf raw 0 8
  let (bad, s1) := s.check detCmdInvalid 0 (!commandOk raw sync)
  let put := fun (t : State) (k : Cmd) => Go.ok ((t.boardDone (.cmd r)).enqueue r k) t
  if bad then put s1 (refusedCmd c stDescInvalid)
  else if opc = 1 ∧ launchOk raw = false then put s1 (refusedCmd c stDescInvalid)
  else
    let hostEvt := (match c.wait with | some w => s1.inHost r.ctx w.1.toNat | none => false) ||
      (match c.sig with | some w => s1.inHost r.ctx w.1.toNat | none => false)
    let absent := (match featureOf opc with | some f => !s1.accepted f | none => false) || (hostEvt && !s1.accepted 2)
    let (no, s2) := s1.check detFeatureAbsent 0 absent
    if no then put s2 (refusedCmd c stFeatureAbsent)
    else
      match s2.handleList r raw sync with
      | .stall t => .stall t
      | .lose code va t => .lose code va t
      | .ok hs t =>
        match run.handleObjs hs with
        | .inr st => put t (refusedCmd c st)
        | .inl os => put (os.foldl (fun (x : State) o => x.addRef o) t) { c with objs := os }

/-- Whether a context's queue may fetch (R307, R318, R320): enabled, a command available, fewer than 64 fetched and not completed, not being
removed. A context fetches nothing while its loss is settled or it is destroyed (R332, R334). -/
def State.mayFetch (s : State) (run : CtxRun) (q : Queue) : Bool :=
  decide (s.fld regHifCtrl 0 1 = 1) && decide (q.fetched ≠ q.tail) && !q.closing && !run.destroying && run.ending.isNone &&
  decide ((q.cmds.filter fun (k : Nat × Cmd) => k.2.seq.isSome).length < 64)

/-- Submit a command whose bits are read. A command of a lost context completes with CONTEXT_LOST without its handles being read. -/
def State.fetched (s : State) (r : CmdRef) (run : CtxRun) (q : Queue) (raw : BitVec 512) : State :=
  let c : Cmd := ⟨some q.fetched, raw, none, none, [], .submitted, [], 0⟩
  let lose := fun (t : State) (k : Cmd) (code va : Nat) =>
    ((t.boardDone (.cmd r)).enqueue r k).lose r.ctx code (BitVec.ofNat 64 va) (lostAt 4 0) (some r)
  match s.syncBlock r raw.toNat with
  | .stall t => t
  | .lose code va t =>
    if run.lost then (t.boardDone (.cmd r)).enqueue r (refusedCmd c stContextLost) else lose t c code va
  | .ok sync t =>
    let c1 := match sync with | some w => withSync c w | none => c
    if run.lost then (t.boardDone (.cmd r)).enqueue r (refusedCmd c1 stContextLost)
    else
      match t.submit r run c1 sync with
      | .ok u _ => u
      | .stall u => u
      | .lose code va u => lose u c1 code va

/-- COMMAND_FETCH (R320, R321, R329): the device fetches the queue's next command. -/
def execCommandFetch (ctx queue : Nat) (s : State) : Host.Outcome State Fault Refusal :=
  .next (
    match s.ctx ctx, s.queue ctx queue with
    | some run, some q =>
      if s.mayFetch run q = false then s
      else
        let r : CmdRef := ⟨ctx, queue, q.next⟩
        let a := q.ring.toNat + 64 * (q.fetched.toNat % 2 ^ q.log2n)
        match s.vKeep (.cmd r) ctx (plainReq (some ctx)) a 64 with
        | .stall t => t
        | .lose code va t => if run.lost then t else t.lose ctx code (BitVec.ofNat 64 va) (lostAt 4 0) none
        | .ok bs t => t.fetched r run q (BitVec.ofNat 512 (leVal bs))
    | _, _ => s)

/-! ## Start (R322, R333) -/

/-- Whether the order of a queue lets a command start (R322). -/
def Queue.turn (q : Queue) (id : Nat) (ovl : Bool) : Bool :=
  let before := q.cmds.filter fun (k : Nat × Cmd) => k.1 < id
  if ovl then
    match before.getLast? with
    | some k => k.2.phase != .submitted
    | none => true
  else before.isEmpty

/-- A context has a command running: its time figures go on (R314). -/
def State.markRan (s : State) (c : Nat) : State :=
  match s.ctx c with
  | some r => if r.ran then s else s.putCtx c { r with ran := true }
  | none => s

/-- A command starts. -/
def State.begin (s : State) (r : CmdRef) : State :=
  match s.cmd r with
  | some c => (s.putCmd r { c with phase := .started, progress := 0 }).markRan r.ctx
  | none => s

/-- COMMAND_START (R322, R333): first the order of the queue, then the WAIT event; a poisoned event completes the command with
FENCE_POISONED. A context that is not resident starts nothing (R312): the device only finds out whether an event of another module would let the
command start. -/
def execCommandStart (r : CmdRef) (s : State) : Host.Outcome State Fault Refusal :=
  .next (
    match s.ctx r.ctx, s.queue r.ctx r.queue, s.cmd r with
    | some run, some q, some c =>
      if c.phase ≠ .submitted ∨ q.turn r.id (c.raw.getLsbD 8) = false then s
      else if run.slot = none then
        match c.wait with
        | none => s
        | some w =>
          if (s.evPeek r.ctx w.1.toNat).isSome then s
          else
            Go.forCmd r (fun (v : BitVec 64) t =>
              if v.getLsbD 63 || decide (w.2.toNat ≤ v.toNat) then t.putCmd r { c with progress := 2 } else t) (s.evRead (.cmd r) r.ctx w.1.toNat)
      else
        match c.wait with
        | none => s.begin r
        | some w =>
          Go.forCmd r (fun (v : BitVec 64) t =>
            if v.getLsbD 63 then t.finish r stFencePoisoned
            else if w.2.toNat ≤ v.toNat then t.begin r else t) (s.evRead (.cmd r) r.ctx w.1.toNat)
    | _, _, _ => s)

/-! ## Completion (R91, R322, R323, R333) -/

/-- Whether every write a command made is performed (R91): no store of its context waits, no SCOPY of it is in flight, and no write of it to another
module is without an answer. -/
def State.writesDone (s : State) (r : CmdRef) : Bool :=
  (s.tiles.all fun t => (t.2.storeQ.all fun e => e.ctx ≠ r.ctx) && t.2.scopys.all fun x => x.gid.cmd ≠ r) &&
  !(s.ridge.reqs.any fun q => decide (q.ctx = r.ctx) && (match q.owner with
    | .store _ _ => true
    | .pump _ _ => true
    | .cmd k => decide (k = r)
    | _ => false))

/-- A command's SIG (R322, R333): signalled for OK, poisoned for every other status; it is done once. -/
def State.doSig (s : State) (r : CmdRef) (c : Cmd) (status : Nat) : Go Unit :=
  match c.sig with
  | none => .ok () s
  | some e =>
    if c.progress = 1 then .ok () s
    else if status = 0 then
      (s.signal (.cmd r) r.ctx e.1.toNat (.set e.2.toNat)).bind fun _ t => .ok () (t.putCmd r { c with progress := 1 })
    else (s.poisonGo (.cmd r) r.ctx e.1.toNat).bind fun _ t => .ok () (t.putCmd r { c with progress := 1 })

/-- A released command completes for the engine that released it (R229). -/
def State.releasedDone (s : State) (r : CmdRef) : State :=
  { s with eng := { s.eng with scheds := s.eng.scheds.map fun (x : SchedRun) =>
      { x with rel := x.rel.map fun (k : Released) => if k.r = r then { k with done := true } else k } } }

/-- Write a command's record in sequence and retire it (R322, R323). -/
def State.record (s : State) (r : CmdRef) (c : Cmd) (status : Nat) : Go Unit :=
  match s.queue r.ctx r.queue, c.seq with
  | some q, some n =>
    (s.vWrite (.cmd r) r.ctx (plainReq (some r.ctx)) (q.cqAddr n) (cqBytes q r.queue n status (cmdFld c 32 32))).bind fun _ t =>
      .ok () (t.retireCmd r c)
  | _, _ => .ok () ((s.releasedDone r).retireCmd r c)

/-- A command of a lost context completes (R332): its SIG event is poisoned and its record written, each left out where it does not translate. -/
def State.completeLost (s : State) (r : CmdRef) (c : Cmd) (status : Nat) : State :=
  match State.poisonAll (.ending r.ctx) r.ctx (if c.progress = 1 then [] else (c.sig.map fun x => x.1.toNat).toList) s with
  | ([], t) =>
    match (t.putCmd r { c with progress := 1 }).recordLost r c status with
    | .ok _ u => (u.boardDone (.ending r.ctx)).adminSettle
    | .lose _ _ u => (u.boardDone (.ending r.ctx)).adminSettle
    | .stall u => u
  | (_, t) => t

/-- COMMAND_COMPLETE (R91, R322, R323, R329, R333): a finished command whose earlier records are written performs its SIG and then its
record. A loss that is being settled goes on instead (R332). -/
def execCommandComplete (r : CmdRef) (s : State) : Host.Outcome State Fault Refusal :=
  .next (
    match s.queue r.ctx r.queue, s.cmd r with
    | some q, some c =>
      if (s.ctx r.ctx).any (fun (x : CtxRun) => x.ending.isSome) then s.settleCtx r.ctx
      else
      match c.phase with
      | .finished status =>
        if c.seq.any (fun n => n ≠ q.done) ∨ s.writesDone r = false then s
        else if (s.ctx r.ctx).any (fun (x : CtxRun) => x.lost) then s.completeLost r c status
        else
          Go.forCmd r (fun _ (t : State) => (t.boardDone (.cmd r)).adminSettle)
            ((s.doSig r c status).bind fun _ t => t.record r ((t.cmd r).getD c) status)
      | _ => s
    | _, _ => s)

/-! ## Commands of the host interface -/

/-- A started command of a code. -/
def State.started (s : State) (r : CmdRef) (opc : Nat) : Option Cmd :=
  match s.cmd r with
  | some c => if c.phase = .started ∧ cmdFld c 0 8 = opc then some c else none
  | none => none

/-- NOP_COMMAND (Table 11.15). -/
def execNopCommand (r : CmdRef) (s : State) : Host.Outcome State Fault Refusal :=
  .next (if (s.started r 0x00).isSome then s.finish r 0 else s)

/-- Whether a block of a command is resident on some tile. -/
def State.hasBlock (s : State) (r : CmdRef) : Bool := s.tiles.any fun t => t.2.blocks.any fun b => b.2.cmd = r

/-- LAUNCH (R325): the first time it opens its grid; it ends when every block has been placed and has left, with every unit it used
complete. -/
def execLaunchCmd (r : CmdRef) (s : State) : Host.Outcome State Fault Refusal :=
  .next (
    match s.started r 0x01 with
    | none => s
    | some c =>
      if c.progress = 0 then s.putCmd r { c with progress := 1 }
      else if c.placed.length = launchBlocks c.raw.toNat ∧ s.hasBlock r = false then s.finish r 0
      else s)

/-- The tiles on which an SCOPY launch places blocks together, in the order of their numbers, or the one tile of any other (R325). -/
def launchTiles (scopy : Bool) (tile : Nat) : List Nat :=
  if scopy then (List.range 16).map (tileOfSpur (spurOfTile tile)) else [tile]

/-- Whether a tile lies in a partition's rectangle (R283). -/
def PartEnt.hasTile (p : PartEnt) (t : Nat) : Bool :=
  let sx := spurOfTile t % 16
  let sy := spurOfTile t / 16
  decide (t < 4096) && decide (p.sx0 ≤ sx) && decide (sx < p.sx0 + p.sw) && decide (p.sy0 ≤ sy) && decide (sy < p.sy0 + p.sh)

/-- Scratch a resident block takes: visible and spill areas. -/
def Block.extent (b : Block) : Nat := b.visible + b.groups * b.spillUnits * 128

/-- Whether a block of a launch fits on a tile in these slots at this scratch base (R66, Table 2.13). -/
def Tile.fits (t : Tile) (raw base : Nat) (slots : List Nat) : Bool :=
  decide (slots.length = launchGroups raw) && slots.all (fun k => decide (k < 32) && (Tbl.find t.groups k).isNone) && decide slots.Nodup &&
  decide (t.blocks.length < 8) && decide (base + launchScratch raw ≤ 0x100000) &&
  (t.blocks.all fun b => decide (base + launchScratch raw ≤ b.2.base) || decide (b.2.base + b.2.extent ≤ base)) &&
  (!raw.testBit 321 || t.claim.isNone)

/-- A group at its start (R325): PC at CODE, every lane active and live, v0, v1 and v2:v3 set and every other register zero. -/
def startGroup (raw blk rank : Nat) : Group :=
  let regs := (List.range 32).foldl (fun (a : Tbl (BitVec 32)) l =>
    Tbl.set 0 (Tbl.set 0 (Tbl.set 0 (Tbl.set 0 a (l * 128) (BitVec.ofNat 32 (bitsOf raw 448 32)))
      (l * 128 + 1) (BitVec.ofNat 32 (bitsOf raw 480 32)))
      (l * 128 + 2) (BitVec.ofNat 32 (bitsOf raw 192 32))) (l * 128 + 3) (BitVec.ofNat 32 (bitsOf raw 224 25))) []
  ⟨rank, blk, BitVec.ofNat 64 (bitsOf raw 128 57), 0xFFFFFFFF, 0xFFFFFFFF, [], 0, regs, 0, .ready⟩

/-- Put a block number on a tile: its groups, its scratch and its claim (R66, R106); the instruction cache gives up its code (R49):
LAUNCH bounds no code, so that any line of the context may hold it (DEDUCED, log 43). -/
def Tile.place (t : Tile) (r : CmdRef) (raw num base : Nat) (slots : List Nat) : Tile :=
  let key := (t.blocks.map fun b => b.1 + 1).foldl max 0
  let gx := bitsOf raw 256 16
  let gy := bitsOf raw 272 16
  let b : Block := ⟨r, num, num % gx, num / gx % gy, num / gx / gy, launchGroups raw, base, bitsOf raw 309 9 * 4096, bitsOf raw 318 3,
    raw.testBit 321, [], false, 0, 0⟩
  { t with
    blocks := Tbl.put t.blocks key b
    groups := (slots.zip (List.range slots.length)).foldl (fun (a : Tbl Group) (e : Nat × Nat) => Tbl.put a e.1 (startGroup raw key e.2)) t.groups
    icache := t.icache.filter fun l => l.1 ≠ r.ctx
    claim := if raw.testBit 321 then some (Claim.fresh key) else t.claim
    timers := t.timers.filter fun e => !decide (e.1 ∈ slots) }

/-- Whether the tiles of a placement can take a launch's blocks, each at a scratch base and in slots of its own (R66); a tile holds one
block of an SCOPY launch (R67). -/
def State.canPlace (s : State) (r : CmdRef) (raw : Nat) (ts : List Nat) (places : List (Nat × List Nat)) : Bool :=
  decide (places.length = ts.length) && (ts.zip places).all (fun e => (s.tile e.1).fits raw e.2.1 e.2.2) &&
  (!raw.testBit 322 || ts.all fun k => (s.tile k).blocks.all fun b => b.2.cmd ≠ r)

/-- BLOCK_RESIDENT (R66, R67, R325): the scheduler places a block of a started launch, or the sixteen blocks of a spur of an SCOPY
launch together, where every resource fits. The operands give each tile's scratch base and slots. -/
def execBlockResident (r : CmdRef) (blk tile : Nat) (base : List Nat) (slots : List (List Nat)) (s : State) :
    Host.Outcome State Fault Refusal :=
  let places := base.zip slots
  .next (
    match s.started r 0x01, s.ctx r.ctx with
    | some c, some run =>
      let raw := c.raw.toNat
      let ts := launchTiles (raw.testBit 322) tile
      let first := if raw.testBit 322 then blk / 16 * 16 else blk
      if c.progress ≠ 1 ∨ run.slot = none ∨ launchBlocks raw ≤ blk ∨ first ∈ c.placed then s
      else if (s.part run.words.part).any (fun (p : PartEnt) => ts.all p.hasTile) = false then s
      else if s.domState (domOfTile tile) ≠ 0 then s.stir (.cmd r) (s.reachDoms [domOfTile tile])
      else if s.canPlace r raw ts places = false then s
      else
        let s1 := ((ts.zip places).zip (List.range ts.length)).foldl (fun (t : State) (e : (Nat × (Nat × List Nat)) × Nat) =>
          t.setTile e.1.1 ((t.tile e.1.1).place r raw (first + e.2) e.1.2.1 e.1.2.2)) s
        s1.putCmd r { c with placed := c.placed ++ (List.range ts.length).map (first + ·) }
    | _, _ => s)

/-- Copy pieces of at most 128 bytes from where a command stands (R326): `k` pieces at most. -/
def State.copyFrom : Nat → State → CmdRef → Nat → Nat → Nat → Nat → Go Nat
  | 0, s, _, _, _, _, done => .ok done s
  | k + 1, s, r, src, dst, n, done =>
    if n ≤ done then .ok done s
    else
      let m := min (n - done) (128 - (src + done) % 128)
      let q := plainReq (some r.ctx)
      let keep := fun (t : State) => match t.cmd r with | some c => t.putCmd r { c with progress := done } | none => t
      match s.vRead (.cmd r) r.ctx q (src + done) m with
      | .stall t => .stall (keep t)
      | .lose c va t => .lose c va t
      | .ok bs t =>
        match t.vWrite (.cmd r) r.ctx q (dst + done) bs with
        | .stall u => .stall (keep u)
        | .lose c va u => .lose c va u
        | .ok _ u => State.copyFrom k u r src dst n (done + m)

/-- COPY (R326). -/
def execCopyCmd (r : CmdRef) (s : State) : Host.Outcome State Fault Refusal :=
  .next (
    match s.started r 0x02 with
    | none => s
    | some c =>
      let src := cmdFld c 128 57
      let dst := cmdFld c 192 57
      let n := cmdFld c 256 41
      if n = 0 ∨ 2 ^ 40 < n ∨ (src < dst + n ∧ dst < src + n) then s.finish r stDescInvalid
      else Go.forCmd r (fun _ (t : State) => t.finish r 0) (State.copyFrom (n / 64 + 2) s r src dst n c.progress))

/-- Signal an event for EVT_SIGNAL (R306, R326, R331, Table 14.4). -/
def State.evtSignal (s : State) (r : CmdRef) (c : Cmd) (op : EvOp) : State :=
  let a := cmdFld c 128 57
  if s.inHost r.ctx a ∧ s.accepted 2 = false then (s.note detFeatureAbsent 0).finish r stFeatureAbsent
  else
    match s.span r.ctx a 8 .write with
    | .ok x s1 =>
      if x.tgt = 0 ∧ tagDenied (s1.reqTag (some r.ctx)) (s1.lineTag (x.addr / 128)) then (s1.note detSecTagDeny (s1.chanOf x.addr)).finish r stDescInvalid
      else Go.forCmd r (fun _ (t : State) => t.finish r 0) (s1.signal (.cmd r) r.ctx a op)
    | .stall s1 => s1
    | .lose code va s1 => s1.loseCmd r code va

/-- EVT_SIGNAL_SET (R326). -/
def execEvtSignalSet (r : CmdRef) (s : State) : Host.Outcome State Fault Refusal :=
  .next (
    match s.started r 0x03 with
    | some c => if cmdFld c 192 1 = 0 then s.evtSignal r c (.set (cmdFld c 256 63)) else s
    | none => s)

/-- EVT_SIGNAL_INC (R326). -/
def execEvtSignalInc (r : CmdRef) (s : State) : Host.Outcome State Fault Refusal :=
  .next (
    match s.started r 0x03 with
    | some c => if cmdFld c 192 1 = 1 then s.evtSignal r c (.inc (cmdFld c 256 63)) else s
    | none => s)

/-- Whether an object holds a device line. -/
def Obj.hasLine (o : Obj) (line : Nat) : Bool := o.extents.any fun e => decide (e.1 * 512 ≤ line) && decide (line < (e.1 + e.2) * 512)

/-- The device lines that OBJ_REPAIR writes, in order, read-only mappings included (R274); none where an address is in no device
memory. -/
def State.repairLines : Nat → State → Nat → Nat → Go (Option (List Nat))
  | 0, s, _, _ => .ok (some []) s
  | n + 1, s, ctx, va =>
    match s.span ctx va 128 .read with
    | .stall s1 => .stall s1
    | .lose code v s1 => if causeStatus code = stPageFault then .ok none s1 else .lose code v s1
    | .ok x s1 =>
      if x.tgt ≠ 0 then .ok none s1
      else (State.repairLines n s1 ctx (va + 128)).bind fun r s2 => .ok (r.map fun ls => x.addr / 128 :: ls) s2

/-- Copy clean lines over lines from line `i` on (R274). -/
def State.repairFrom : List Nat → State → CmdRef → Nat → Nat → Go Unit
  | [], s, _, _, _ => .ok () s
  | l :: ls, s, r, src, i =>
    let keep := fun (t : State) => match t.cmd r with | some c => t.putCmd r { c with progress := i } | none => t
    match s.vRead (.cmd r) r.ctx (plainReq (some r.ctx)) (src + 128 * i) 128 with
    | .stall t => .stall (keep t)
    | .lose c va t => .lose c va t
    | .ok bs t =>
      match t.reachLine (.cmd r) (some r.ctx) l false with
      | .failed => .lose stPoisonConsumed 0 t
      | .asleep d => .stall ((keep t).noteDom (.cmd r) d)
      | .busy => .stall ((keep t).takeTurn (.cmd r) (some r.ctx) [l])
      | .ok =>
        if t.writeWaits l then .stall ((keep t).takeTurn (.cmd r) (some r.ctx) [l])
        else
          let w := (t.leaveTurn (.cmd r) (some r.ctx) [l]).cisWrite (plainReq (some r.ctx)) l (bytesAt 0 bs)
          if w.poison then .lose stPoisonConsumed 0 w.st else State.repairFrom ls w.st r src (i + 1)

/-- OBJ_REPAIR (R271, R274). -/
def execObjRepair (r : CmdRef) (s : State) : Host.Outcome State Fault Refusal :=
  .next (
    match s.started r 0x08 with
    | none => s
    | some c =>
      let dst := cmdFld c 128 57
      let src := cmdFld c 192 57
      let n := cmdFld c 256 24
      if n = 0 then s.finish r stDescInvalid
      else
        Go.forCmd r (fun (ls : Option (List Nat)) (t : State) =>
          match ls with
          | none => t.finish r stDescInvalid
          | some lines =>
            if t.hif.objs.any (fun o => decide (o.2.creator = r.ctx) && lines.all o.2.hasLine) then
              Go.forCmd r (fun _ (u : State) => u.finish r 0) (State.repairFrom (lines.drop c.progress) t r src c.progress)
            else t.finish r stDescInvalid) (State.repairLines n s r.ctx dst))

end Sys2Proof.Machine
end

