-- ==== Sys2Proof/Machine/Teardown.lean ====
section
/-!
DEFINITION. What ends with a context, a partition or the whole host side: writes that checkpoint protection held, the failure of a
checkpoint (13 R372), collectives, key slots, and the destruction of a context with and without records (11 R334, R335; 14 R389).
-/
namespace Sys2Proof.Machine

/-! ## Checkpoint protection ends (R362, R364, R372) -/

/-- Every page returns to NONE and staging slots are free; the writes that stalled take their turns when they are presented again
(Table 13.3, R254). -/
def State.freePages (s : State) : State :=
  ({ s with mem := { s.mem with cis := s.mem.cis.map fun (e : Nat × Cistern) => (e.1, { e.2 with pages := [] }) } }).setReg regCkpStaged 0

/-- The checkpoint that runs fails with a cause of CKP_STATUS.FAIL (R372); an object that only it held is released, with its record unless the host is
gone (R335). -/
def State.ckptFailAs (s : State) (record : Bool) (cause : Nat) : State :=
  match s.eng.ckpt with
  | none => s
  | some k =>
    let s1 := { s with eng := { s.eng with ckpt := none, qps := s.eng.qps.map fun (q : Nat × Qp) => (q.1, { q.2 with unacked := [], retries := 0 }) } }.freePages
    let s2 := if k.cevt = 0 then s1 else s1.poisonEvent k.ctx k.cevt.toNat
    let s3 := (s2.setFld regCkpStatus 0 3 0).setFld regCkpStatus 20 3 cause
    (((k.set.map (·.obj)).eraseDups).foldl (fun (t : State) i => t.unrefObj record i)
      ((s3.note detCkpFail 0).logRec 9 detCkpFail cause 0 k.ctx 0 false)).wipe

/-- As `ckptFailAs`, while the host is there. -/
def State.ckptFail (s : State) (cause : Nat) : State := s.ckptFailAs true cause

/-! ## Destruction of a context (R334, R335) -/

/-- Fail the running checkpoint where it is the context's (R372). -/
def State.ckptFailOf (s : State) (c cause : Nat) : State :=
  match s.eng.ckpt with
  | some k => if k.ctx = c then s.ckptFail cause else s
  | none => s

/-- Mark a context as one that goes once it is quiet. -/
def State.markDestroyed (s : State) (c : Nat) : State :=
  match s.ctx c with
  | some r => s.putCtx c { r with destroying := true }
  | none => s

/-- Destroy a context (R334): it is first lost with CONTEXT_LOST where it is not lost yet; it is released once every unit has stopped and every
record is written. -/
def State.destroyCtx (s : State) (c cause : Nat) : State :=
  (((s.lose c stContextLost 0 0 none).ckptFailOf c cause).markDestroyed c).adminSettle

/-- The PLIST events of a context, read without waiting (log 47): an entry in device memory is read where it lies, unless its domain is FAILED or
its line poisoned; one in another module, whose answer comes after the context is gone, is not. -/
def State.plistNow (s : State) (c : Nat) (w : Ctx) : List Nat × State :=
  (List.range w.plcnt).foldl (fun (r : List Nat × State) i =>
    match r.2.span c (w.plist.toNat + 8 * i) 8 .read with
    | .ok x t =>
      match x.tgt with
      | 0 =>
        if t.reachLine .noone none (x.addr / 128) true = .failed then (r.1, t)
        else
          let d := t.cisRead (plainReq (some c)) (x.addr / 128) (offsOf x.addr 8)
          (if d.poison then r.1 else r.1 ++ [t.devVal x.addr 8], d.st)
      | 1 => (r.1, t)
      | _ => (if t.hostCut then r.1 else r.1 ++ [leVal (Memory.reads t.mem.host x.addr 8)], t)
    | .stall t => (r.1, t)
    | .lose _ _ t => (r.1, t)) ([], s)

/-- Destroy a context at once, at a load that replaces the image (R296): what is left of its loss is done without waiting (log 47). -/
def State.destroyNow (s : State) (c cause : Nat) : State :=
  let s1 := (s.lose c stContextLost 0 0 none).ckptFailOf c cause
  match s1.ctx c with
  | none => s1
  | some r =>
    let s2 := match r.ending with
      | none => s1
      | some e =>
        let (l, t) := if e.plist then s1.plistNow c r.words else ([], s1)
        let t1 := (e.evs ++ l).foldl (fun (u : State) a => u.poisonEvent c a) t
        let t2 := (t1.openCmds c).foldl (fun (u : State) (k : CmdRef × Cmd) =>
          match u.recordLost k.1 k.2 (if e.owner = some k.1 then e.code else stContextLost) with
          | .ok _ v => v
          | .lose _ _ v => v
          | .stall v => v.retireCmd k.1 k.2) t1
        let t3 := t2.putEnding c none
        if e.report then (t3.evr 1 e.code c e.va e.info).logRec 1 ((lossDet e.code).getD 0xFF) e.code (e.info.toNat % 4096) c e.va.toNat e.inj
        else t3
    (s2.releaseCtx c).adminSettle

/-- Poison an event unless it lies in host memory (R335). -/
def State.poisonBoardSide (s : State) (ctx va : Nat) : State := if s.inHost ctx va then s else s.poisonEvent ctx va

/-- As `poisonRemote`, where nothing may wait (log 47). -/
def State.remoteNow (s : State) (r : CmdRef) (c : Cmd) : State :=
  let s1 := s.poisonRemote r c
  let own := s1.ridge.sigs.filter fun q => decide (q.r.ctx = r.ctx) && q.poison && decide (q.f.dst.toNat = s1.node)
  own.foldl (fun (t : State) q =>
    { t with ridge := { t.ridge with sigs := t.ridge.sigs.filter fun x => x.tag ≠ q.tag } }.poisonSlot (frameArg q.f 0 12)) s1

/-- Destroy a context under a reset (R335): events in device memory are poisoned, no record is written and no event in host memory is
touched. Of a context whose loss is being settled, what is left is poisoned. -/
def State.resetCtx (s : State) (c : Nat) : State :=
  match s.ctx c with
  | none => s
  | some r =>
    let cmds := s.openCmds c
    let s0 := s.stopCtx c
    let evs := (r.ending.map Ending.evs).getD (cmds.filterMap fun k => k.2.sig.map fun x => x.1.toNat)
    let (l, s1) := if r.lost && !r.ending.any Ending.plist then ([], s0) else s0.plistNow c r.words
    let s2 := (evs ++ l).foldl (fun (t : State) a => t.poisonBoardSide c a) s1
    let s3 := if r.lost then s2 else (remotesOf cmds).foldl (fun (t : State) k => t.remoteNow k.1 k.2) s2
    { s3 with
      worked := s3.worked.filter fun x => x ≠ c
      hif := { s3.hif with ctxs := Tbl.del s3.hif.ctxs c }
      eng := { s3.eng with
        colls := s3.eng.colls.filter fun (e : Nat × Coll) => e.2.ctx ≠ c
        evDue := s3.eng.evDue.filter fun (e : Nat × Nat × Nat) => e.1 ≠ c } }.dropKey r.keySlot

/-- Every object goes without a record; confidential lines are written zero with tag 0 first (R335, R389). -/
def State.resetObjs (s : State) : State :=
  let s1 := s.hif.objs.foldl (fun (t : State) (o : Nat × Obj) =>
    if o.2.tag = 0 then t else (extentLines o.2.extents).foldl (fun (u : State) l => u.zeroLine 0 l) t) s
  let gens := s.hif.objs.foldl (fun (g : Tbl Nat) (o : Nat × Obj) => Tbl.set 0 g o.1 ((o.2.gen + 1) % 4096)) s.hif.objGens
  { s1 with hif := { s1.hif with objs := [], objGens := gens } }

end Sys2Proof.Machine
end

