-- ==== Sys2Proof/Machine/Update.lean ====
section
/-!
DEFINITION. The update engines (07 R197 to R220): the tables in memory, UPD_RUN and UPD_SET_STEP, the rules in F32, and the narrow orders
with stochastic rounding (05 R157).
-/
namespace Sys2Proof.Machine

/-! ## F32 arithmetic (R210) -/

/-- An exact value rounded once to F32 to nearest-even. -/
def f32Of (v : FVal) : Nat := fF32.encode 0 false v

/-- The value of an F32 code. -/
def f32Val (c : Nat) : FVal := fF32.decode c

/-- The exact quotient of two values, for one rounding (IEEE 754 division). -/
def fDiv : FVal → FVal → FVal
  | .nan, _ => .nan
  | _, .nan => .nan
  | .inf _, .inf _ => .nan
  | .inf a, .fin n _ _ => .inf (a != n)
  | .fin n _ _, .inf b => .fin (n != b) 0 0
  | .fin n1 m1 e1, .fin n2 m2 e2 =>
    if m2 = 0 then (if m1 = 0 then .nan else .inf (n1 != n2))
    else if m1 = 0 then .fin (n1 != n2) 0 0
    else divVal (n1 != n2) m1 m2 (e1 - e2)

/-- The square root of a value, for one rounding (IEEE 754 squareRoot). -/
def fSqrt : FVal → FVal
  | .nan => .nan
  | .inf n => if n then .nan else .inf false
  | .fin n m e =>
    if m = 0 then .fin n 0 0
    else if n then .nan
    else
      let q := sqrtDy m e
      let exact := fEq (fMul q.toF q.toF) (.fin false m e)
      if exact then q.toF else .fin false (2 * q.i.natAbs + 1) (q.e - 1)

/-- Sum, product, quotient and fused multiply-add of F32 codes. -/
def f32Mul (a b : Nat) : Nat := f32Of (fMul (f32Val a) (f32Val b))
def f32Div (a b : Nat) : Nat := f32Of (fDiv (f32Val a) (f32Val b))
def f32Sub (a b : Nat) : Nat := f32Of (fAdd 0 (f32Val a) (fNeg (f32Val b)))
def f32Sqrt (a : Nat) : Nat := f32Of (fSqrt (f32Val a))
def f32Fma (a b c : Nat) : Nat := f32Of (fAdd 0 (fMul (f32Val a) (f32Val b)) (f32Val c))

/-- The code with its sign inverted. -/
def f32Neg (a : Nat) : Nat := f32Of (fNeg (f32Val a))

/-- 1.0. -/
def f32One : Nat := 0x3F800000

/-- sumx (R210): the exact sum of F32 codes. -/
def sumx (cs : List Nat) : FVal := cs.foldl (fun a c => fAdd 0 a (f32Val c)) (.fin false 0 0)

/-- sumsq (R210): the exact sum of the squares of F32 codes. -/
def sumsq (cs : List Nat) : FVal := cs.foldl (fun a c => fAdd 0 a (fMul (f32Val c) (f32Val c))) (.fin false 0 0)

/-- sgn (R210). -/
def f32Sgn (c : Nat) : Nat :=
  match f32Val c with
  | .nan => fF32.nanCode
  | .inf n => if n then 0xBF800000 else f32One
  | .fin n m _ => if m = 0 then 0 else if n then 0xBF800000 else f32One

/-- Whether an F32 code is NaN or infinite. -/
def f32NonFinite (c : Nat) : Bool :=
  match f32Val c with
  | .fin _ _ _ => false
  | _ => true

/-- Whether an F32 code is finite and not below zero. -/
def f32NonNeg (c : Nat) : Bool := !f32NonFinite c && !fLt (f32Val c) (.fin false 0 0)

/-- Whether an F32 code is zero of either sign. -/
def f32Zero (c : Nat) : Bool := fEq (f32Val c) (.fin false 0 0)

/-! ## The update table and the layer record (R205, R206) -/

/-- A layer record: its 1,024 bits (Table 7.3). -/
abbrev LRec := BitVec 1024

/-- A field of a layer record. -/
def lFld (l : LRec) (lo n : Nat) : Nat := bitsOf l.toNat lo n

def lWbase (l : LRec) : Nat := lFld l 0 57
def lGbase (l : LRec) : Nat := lFld l 64 57
def lGraw (l : LRec) : Bool := lFld l 121 4 = 15
def lNmajor (l : LRec) : Bool := lFld l 125 1 = 1
def lMbase (l : LRec) : Nat := lFld l 128 57
def lRbase (l : LRec) : Nat := lFld l 192 57
def lCbase (l : LRec) : Nat := lFld l 256 57
def lKbase (l : LRec) : Nat := lFld l 320 57
def lOfmt (l : LRec) : Nat := lFld l 377 4
def lNbase (l : LRec) : Nat := lFld l 384 57
def lKsbase (l : LRec) : Nat := lFld l 448 57
def lNsbase (l : LRec) : Nat := lFld l 512 57
def lK (l : LRec) : Nat := lFld l 576 32
def lN (l : LRec) : Nat := lFld l 608 32
def lKtid (l : LRec) : Nat := lFld l 640 32
def lNtid (l : LRec) : Nat := lFld l 672 32
def lRule (l : LRec) : Nat := lFld l 704 3
def lSexp (l : LRec) : Int := sVal 16 (lFld l 720 16)
def lGsexp (l : LRec) : Int := sVal 16 (lFld l 736 16)
def lB1 (l : LRec) : Nat := lFld l 768 32
def lB2 (l : LRec) : Nat := lFld l 800 32
def lEps (l : LRec) : Nat := lFld l 832 32
def lLam (l : LRec) : Nat := lFld l 864 32
def lDclip (l : LRec) : Nat := lFld l 896 32
def lP2 (l : LRec) : Nat := lFld l 928 32
def lLast (l : LRec) : Nat := lFld l 960 32

/-- LOOK, NFSKIP and CLIP. -/
def lLook (l : LRec) : Bool := lFld l 707 1 = 1
def lNfskip (l : LRec) : Bool := lFld l 708 1 = 1
def lClip (l : LRec) : Bool := lFld l 709 1 = 1

/-- Whether the rule is U-FAC or U-FACM. -/
def lFactored (l : LRec) : Bool := lRule l = 1 || lRule l = 2

/-- Whether the rule keeps a first moment (Table 7.5). -/
def lMoment (l : LRec) : Bool := lRule l ≠ 1

/-- The number of elements. -/
def lElems (l : LRec) : Nat := lK l * lN l

/-- The reserved bits of a layer record. -/
def layerReserved : Nat :=
  [(57, 7), (127, 1), (185, 7), (249, 7), (313, 7), (381, 3), (441, 7), (505, 7), (569, 7), (710, 10), (752, 16), (1000, 24)].foldl
    (fun (a : Nat) (p : Nat × Nat) => a ||| ones p.1 p.2) 0

/-- The fields that a rule leaves zero (Table 7.5). -/
def layerZeros (l : LRec) : Nat :=
  let f := fun (b : Bool) (m : Nat) => if b then m else 0
  f (!lMoment l) (ones 128 57 ||| ones 768 32) |||
  f (!lFactored l) (ones 192 57 ||| ones 256 57 ||| ones 832 32 ||| ones 928 32 ||| ones 709 1) |||
  f (decide (lRule l = 0)) (ones 800 32) ||| f (decide (lRule l ≠ 0)) (ones 707 1) |||
  f (!(lFactored l && lClip l)) (ones 896 32) ||| f (!isMx (lOfmt l)) (ones 448 57 ||| ones 512 57)

/-- Whether a decay lies in [0, 1). -/
def decayOk (c : Nat) : Bool := f32NonNeg c && fLt (f32Val c) (f32Val f32One)

/-- The alignment of a record's addresses (R206). -/
def layerAligned (l : LRec) : Bool :=
  let b := (tWidths (lOfmt l)).1
  decide (lWbase l % 4 = 0) && decide (lMbase l % 4 = 0) && decide (lRbase l % 4 = 0) && decide (lCbase l % 4 = 0) &&
  decide (lGbase l % (if lGraw l then 32 else 4) = 0) && decide (lKbase l % b = 0) && decide (lNbase l % b = 0) &&
  decide (lKsbase l % b = 0) && decide (lNsbase l % b = 0)

/-- Whether a layer record is valid (R206), its ETA apart. -/
def layerOk (l : LRec) : Bool :=
  let v := l.toNat
  decide (v &&& layerReserved = 0) && decide (v &&& layerZeros l = 0) && decide (lRule l < 4) &&
  decide (lFld l 121 4 = 11 ∨ lFld l 121 4 = 15) && decide (lOfmt l ≤ 10) && decide (0 < lElems l) && decide (lElems l ≤ 2 ^ 48) &&
  (!lFactored l || decide ((if lNmajor l then lN l else lK l) ≤ 65536)) &&
  (!isMx (lOfmt l) || (decide (lK l % 32 = 0) && decide (lN l % 32 = 0) && decide (lSexp l = 0))) && layerAligned l &&
  (!lMoment l || decayOk (lB1 l)) && (decide (lRule l = 0) || decayOk (lB2 l)) &&
  f32NonNeg (lEps l) && f32NonNeg (lLam l) && f32NonNeg (lDclip l) && (!lFactored l || !f32Zero (lEps l)) &&
  (!lClip l || !f32Zero (lDclip l)) &&
  (!lFactored l || (f32NonNeg (lP2 l) && !f32Zero (lP2 l) && !fLt (f32Val f32One) (f32Val (lP2 l))))

/-! ## The rules (R210) -/

/-- The buffers of a layer as read: gradients scaled and rounded as pass 1, pass 2 and the last pass read them, masters, first moments (all in
K-major order), row and column statistics. -/
structure LBufs where
  g1 : List Nat
  g2 : List Nat
  g : List Nat
  w : List Nat
  m : List Nat
  r : List Nat
  c : List Nat
deriving DecidableEq, Repr, Inhabited

/-- A gradient element read exactly (R210): an F32, or a raw record with its flags; times 2^GSEXP, rounded once. DESIGN CHOICE
(log 48): reserved bits of a raw record are ignored. -/
def gradOf (l : LRec) (v : Nat) : Nat :=
  let sc := fun (x : FVal) => match x with
    | .fin n m e => FVal.fin n m (e + lGsexp l)
    | y => y
  if lGraw l then
    let r := RawRec.ofNat v
    let a := { r.acc with ovf := false }
    match drainVal a r.base 0 0 (.fin false 0 0) with
    | .val x => f32Of (sc x)
    | _ => 0
  else f32Of (sc (f32Val v))

/-- The elements of a list that stand in N-major order, in K-major order, or the other way round with K and N exchanged. -/
def transposed (k n : Nat) (xs : List Nat) : List Nat :=
  (List.range (k * n)).map fun i => xs.getD (n * (i % k) + i / k) 0

/-- What pass 1 leaves: row and column statistics, P2 and den (R210). -/
def passOne (l : LRec) (b : LBufs) : List Nat × List Nat × Nat × Nat :=
  let k := lK l
  let n := lN l
  let c2 := f32Sub f32One (lB2 l)
  let q := b.g1.map fun x => f32Fma x x (lEps l)
  let upd := fun (old : Nat) (sum : FVal) (d : Nat) => f32Fma (lB2 l) old (f32Mul c2 (f32Of (fDiv sum (ofInt d))))
  let r := (List.range k).map fun i => upd (b.r.getD i 0) (sumx ((List.range n).map fun j => q.getD (i + k * j) 0)) n
  let c := (List.range n).map fun j => upd (b.c.getD j 0) (sumx ((List.range k).map fun i => q.getD (i + k * j) 0)) k
  let p2 := f32Mul (lB2 l) (lP2 l)
  (r, c, p2, f32Mul (f32Of (fDiv (sumx r) (ofInt k))) (f32Sub f32One p2))

/-- The values h of U-FAC and U-FACM for gradients as a pass reads them (R210). -/
def factored (l : LRec) (g r c : List Nat) (den : Nat) : List Nat :=
  g.zipIdx.map fun p =>
    f32Div p.1 (f32Sqrt (f32Div (f32Mul (r.getD (p.2 % lK l) 0) (c.getD (p.2 / lK l) 0)) den))

/-- The clipping factor of pass 2 (R210). -/
def clipFactor (l : LRec) (h : List Nat) : Nat :=
  if lClip l then
    let cf := f32Div (f32Sqrt (f32Of (fDiv (sumsq h) (ofInt (lElems l))))) (lDclip l)
    if fLt (f32Val cf) (f32Val f32One) then f32One else cf
  else f32One

/-- The last pass on one element: the new w and m (R210). -/
def lastPass (l : LRec) (eta a : Nat) (g h cf w m : Nat) : Nat × Nat :=
  let wd := f32Mul a w
  let c1 := f32Sub f32One (lB1 l)
  let um : Nat × Nat :=
    match lRule l with
    | 0 =>
      let m1 := f32Fma (lB1 l) m g
      (if lLook l then f32Fma (lB1 l) m1 g else m1, m1)
    | 1 => (f32Div h cf, m)
    | 2 =>
      let m1 := f32Fma (lB1 l) m (f32Mul c1 (f32Div h cf))
      (m1, m1)
    | _ =>
      (f32Sgn (f32Fma (lB1 l) m (f32Mul c1 g)), f32Fma (lB2 l) m (f32Mul (f32Sub f32One (lB2 l)) g))
  (f32Fma (f32Neg eta) um.1 wd, um.2)

/-- The new buffers of a layer and its P2, for a step size (R210). -/
def layerStep (l : LRec) (eta : Nat) (b : LBufs) : LBufs × Nat :=
  let a := f32Fma (f32Neg eta) (lLam l) f32One
  let p := if lFactored l then passOne l b else (b.r, b.c, lP2 l, 0)
  let h := if lFactored l then factored l b.g p.1 p.2.1 p.2.2.2 else b.g
  let cf := clipFactor l (if lFactored l then factored l b.g2 p.1 p.2.1 p.2.2.2 else [])
  let wm := b.w.zipIdx.map fun x =>
    lastPass l eta a (b.g.getD x.2 0) (h.getD x.2 0) cf x.1 (b.m.getD x.2 0)
  (⟨b.g1, b.g2, b.g, wm.map (·.1), wm.map (·.2), p.1, p.2.1⟩, p.2.2.1)

/-! ## Stochastic rounding and the narrow orders (R157, R218, R219) -/

/-- Whether the draw takes the neighbour of larger magnitude, for a magnitude q + r / d. -/
def stochUp (neg : Bool) (r d u : Nat) : Bool :=
  if r = 0 then false
  else if neg then !decide (u < (d - r) * 2 ^ 32 / d) else decide (u < r * 2 ^ 32 / d)

/-- The magnitude code of a value rounded stochastically on a format's grid. -/
def stochCode (f : Fmt) (neg : Bool) (m : Nat) (e : Int) (u : Nat) : Nat :=
  if m = 0 then 0
  else
    let le := max (leadExp m e) f.emin
    let (q, r, d) := scaleNat m (e - (le - f.mb))
    (le - f.emin).toNat * 2 ^ f.mb + q + b2n (stochUp neg r d u)

/-- The integer a value is rounded to stochastically. -/
def stochInt (neg : Bool) (m : Nat) (e : Int) (u : Nat) : Int :=
  let (q, r, d) := scaleNat m e
  let n := q + b2n (stochUp neg r d u)
  if neg then -(n : Int) else (n : Int)

/-- A master element in a per-tensor format with its statistics (R157, R218): beyond the largest finite it saturates, NaN is the
canonical NaN. -/
def stochElem (fmt : Nat) (v : FVal) (u : Nat) : Nat × ElemStat :=
  match memFmt fmt with
  | some f =>
    match v with
    | .nan => floatElem f ⟨f.nanCode, false, true⟩ false
    | .inf n => floatElem f ⟨f.signBit n + f.maxCode, true, false⟩ false
    | .fin n m e =>
      let c := stochCode f n m e u
      floatElem f ⟨f.signBit n + min c f.maxCode, decide (f.maxCode < c), false⟩ false
  | none =>
    match v with
    | .nan => intElem 8 0 false
    | .inf n => intElem 8 (if n then -128 else 127) true
    | .fin n m e =>
      let i := stochInt n m e u
      intElem 8 (clampI (-128) 127 i) (decide (i < -128 ∨ 127 < i))

/-- An element of an MX block of scale exponent X (R219). -/
def stochMx (fmt : Nat) (x : Int) (v : FVal) (u : Nat) : Nat × ElemStat :=
  match v with
  | .fin n m e =>
    if fmt = 7 then
      let i := stochInt n m (e - x + 6) u
      (wrapN 8 (clampI (-127) 127 i), ⟨decide (i = 0), decide (i < -127 ∨ 127 < i), false, some x⟩)
    else
      match memFmt fmt with
      | some f =>
        let c := stochCode f n m (e - x) u
        (f.signBit n + min c f.maxCode, ⟨decide (c = 0), decide (f.maxCode < c), false, some x⟩)
      | none => (0, ⟨true, false, false, some x⟩)
  | _ => (0, ⟨false, false, true, none⟩)

/-- A block of 32 masters with their draws (R147, R219): its scale byte, and its elements with their statistics. -/
def stochBlock (fmt : Nat) (vs : List (FVal × Nat)) : Nat × List (Nat × ElemStat) :=
  let scale := (mxBlock fmt (vs.map fun p => Drained.val p.1)).1
  (scale, vs.map fun p =>
    if scale = 255 then (0, ⟨false, false, true, none⟩) else stochMx fmt ((scale : Int) - 127) p.1 p.2)

/-- Groups of 32. -/
def blocks32 {α : Type} : Nat → List α → List (List α)
  | 0, _ => []
  | n + 1, xs => xs.take 32 :: blocks32 n (xs.drop 32)

/-- What statistics one order adds: ZEROS, SATS, NONFIN, ELEMS and MAXEXP (Table 5.7). -/
def orderStat (es : List ElemStat) : List Nat × Option Int :=
  let a := es.foldl (fun (a : StatAdd) e => a.plus (StatAdd.ofElem e)) StatAdd.none
  ([a.zeros, a.sats, a.nonfin, a.elems], a.maxexp)

/-- One narrow order: its bytes, its scale bytes, and what it adds to its statistics record. -/
structure Narrow where
  data : List (BitVec 8)
  scales : List (BitVec 8)
  stat : List Nat × Option Int
deriving DecidableEq, Repr, Inhabited

/-- One order from masters and draws in its own order (R218, R219). -/
def narrowOf (l : LRec) (vs : List (FVal × Nat)) : Narrow :=
  let f := lOfmt l
  if isMx f then
    let bs := (blocks32 (vs.length / 32) vs).map (stochBlock f)
    ⟨packElems (memBits f) (bs.flatMap fun b => b.2.map (·.1)), bs.map fun b => BitVec.ofNat 8 b.1,
     orderStat (bs.flatMap fun b => b.2.map (·.2))⟩
  else
    let es := vs.map fun p => stochElem f (match p.1 with | .fin n m e => .fin n m (e - lSexp l) | y => y) p.2
    ⟨packElems (memBits f) (es.map (·.1)), [], orderStat (es.map (·.2))⟩

/-- Both orders of masters in K-major order, for a key and a step (R218). -/
def narrowOrders (l : LRec) (key : BitVec 64) (step : Nat) (w : List Nat) : Narrow × Narrow :=
  let vs := w.zipIdx.map fun p =>
    (f32Val p.1, ((cgDraw key p.2 0 (BitVec.ofNat 32 (lKtid l)) (BitVec.ofNat 32 step)).headD 0).toNat)
  let ns := (List.range (lElems l)).map fun i => vs.getD (i / lN l + lK l * (i % lN l)) (.nan, 0)
  (narrowOf l vs, narrowOf l ns)

/-! ## Commands (R207, R208) -/

/-- Whether a payload of an update command and its table's header pass R207; `mask` are its assigned bits. -/
def updOk (raw hdr mask : Nat) : Bool :=
  let count := bitsOf raw 224 32
  decide ((raw >>> 128) * 2 ^ 128 ||| mask = mask) && decide (bitsOf raw 128 57 % 64 = 0) &&
  decide (hdr &&& (ones 96 32 ||| ones 185 327) = 0) && decide (bitsOf hdr 128 57 % 8 = 0) && decide (count ≠ 0) &&
  decide (bitsOf raw 192 32 + count ≤ bitsOf hdr 64 32)

/-- Read the header of the table a command names (Table 7.2). -/
def State.updHeader (s : State) (r : CmdRef) (o : Owner) (c : Cmd) : Go Nat :=
  (s.vKeep o r.ctx (engReq r.ctx) (cmdFld c 128 57) 64).bind fun bs t => .ok (leVal bs) t

/-- A started UPD_RUN enters its engines' list, or completes with DESCRIPTOR_INVALID (R207, R209). -/
def State.updStart (s : State) (r : CmdRef) (c : Cmd) (ok : Bool) : State :=
  if s.eng.upds.any (fun u => u.r = r) then s
  else if bitsOf c.raw.toNat 128 57 % 64 ≠ 0 then s.finish r stDescInvalid
  else
    Go.forCmd r (fun (h : Nat) (t : State) =>
      let t := t.boardDone (.cmd r)
      if ok && updOk c.raw.toNat h (ones 128 57 ||| ones 192 97) then
        { t with eng := { t.eng with upds := t.eng.upds ++ [UpdRun.mk r 0 0 false []] } }
      else t.finish r stDescInvalid) (s.updHeader r (.cmd r) c)

/-- UPD_RUN (R207, R209): in update mode the step is not 0. -/
def execUpdRun (r : CmdRef) (s : State) : Host.Outcome State Fault Refusal :=
  .next (
    match s.started r 0x10 with
    | some c => if cmdFld c 288 1 = 0 then s.updStart r c (decide (cmdFld c 256 32 ≠ 0)) else s
    | none => s)

/-- UPD_RUN_REFRESH (R207, R220): in refresh mode STEP is 0. -/
def execUpdRunRefresh (r : CmdRef) (s : State) : Host.Outcome State Fault Refusal :=
  .next (
    match s.started r 0x10 with
    | some c => if cmdFld c 288 1 = 1 then s.updStart r c (decide (cmdFld c 256 32 = 0)) else s
    | none => s)

/-- The bytes of the step entries that UPD_SET_STEP writes (R208, Table 7.4). -/
def stepBytes (step : Nat) (etas : List Nat) : List (BitVec 8) := etas.flatMap fun e => leBytes 8 (e + step * 2 ^ 32)

/-- UPD_SET_STEP (R207, R208). -/
def execUpdSetStep (r : CmdRef) (s : State) : Host.Outcome State Fault Refusal :=
  .next (
    match s.started r 0x11 with
    | none => s
    | some c =>
      let raw := c.raw.toNat
      let src := cmdFld c 320 57
      let n := cmdFld c 224 32
      if cmdFld c 128 57 % 64 ≠ 0 then s.finish r stDescInvalid
      else
        Go.forCmd r (fun (h : Nat) (t : State) =>
          if updOk raw h (ones 128 57 ||| ones 192 96 ||| ones 320 57) && decide (cmdFld c 256 32 ≠ 0) && decide (src % 4 = 0) then
            Go.forCmd r (fun _ (u : State) => (u.boardDone (.cmd r)).finish r 0)
              ((t.vKeep (.cmd r) r.ctx (engReq r.ctx) src (4 * n)).bind fun bs u =>
                u.vWrite (.cmd r) r.ctx (engReq r.ctx) (bitsOf h 128 57 + 8 * cmdFld c 192 32)
                  (stepBytes (cmdFld c 256 32) (u32s n bs)))
          else (t.boardDone (.cmd r)).finish r stDescInvalid) (s.updHeader r (.cmd r) c))

/-! ## A layer (R204, R209, R212, R214, R216, R220) -/

/-- Whether a spur lies in a partition. -/
def PartEnt.hasSpur (p : PartEnt) (spur : Nat) : Bool := p.hasTile (tileOfSpur spur 0)

/-- Whether a CKP_BEGIN of a partition waits for its instant (R216, R363): it has started and is held. -/
def State.ckptPending (s : State) (part : Nat) : Bool :=
  s.hif.ctxs.any fun (e : Nat × CtxRun) => decide (e.2.words.part = part) &&
    e.2.queues.any fun (q : Nat × Queue) => q.2.cmds.any fun (k : Nat × Cmd) =>
      decide (k.2.phase = .started) && decide (cmdFld k.2 0 8 = 0x30) && decide (k.2.progress = 1)

/-- The address of a run's layer record. -/
def State.layerVa (s : State) (r : CmdRef) (i : Nat) : Nat :=
  match s.cmd r with
  | some c => cmdFld c 128 57 + 64 + 128 * i
  | none => 0

/-- Whether an engine of a partition runs the layer record at an address of a context, by whatever address it reached it (R214). -/
def State.recordBusy (s : State) (part ctx va : Nat) : Bool :=
  s.eng.spurs.any fun (e : Nat × UpdEng) =>
    (decide (e.2.r.ctx = ctx) && decide (e.2.va = va)) ||
    ((s.ctx e.2.r.ctx).any (fun (r : CtxRun) => r.words.part = part) && (s.place ctx va).isSome &&
      s.place e.2.r.ctx e.2.va == s.place ctx va)

/-- The layer of a running command that a spur's engine is at: the one it has taken, or else the lowest-numbered one that none has (R204). -/
def UpdRun.nextFor (u : UpdRun) (c : Cmd) (spur : Nat) : Option Nat :=
  match Tbl.find u.held spur with
  | some i => some i
  | none => if u.taken < cmdFld c 224 32 then some (cmdFld c 192 32 + u.taken) else none

/-- The runs in start order as an engine looks at them: one of which it holds a layer comes first. -/
def State.updsFor (s : State) (spur : Nat) : List UpdRun :=
  (s.eng.upds.filter fun u => (Tbl.find u.held spur).isSome) ++ s.eng.upds.filter fun u => (Tbl.find u.held spur).isNone

/-- The first running command that has a layer for a spur's engine: its context is resident and its partition holds the spur, no CKP_BEGIN of
the partition waits, and no engine of the partition runs the same record (R204, R214, R216). -/
def State.nextLayer (s : State) (spur : Nat) : Option (UpdRun × Cmd × Nat) :=
  (s.updsFor spur).findSome? fun (u : UpdRun) =>
    match s.ctx u.r.ctx, s.cmd u.r with
    | some run, some c =>
      match u.nextFor c spur with
      | none => none
      | some i =>
        if run.slot.isSome ∧ (s.part run.words.part).any (fun (p : PartEnt) => p.hasSpur spur) ∧
          s.ckptPending run.words.part = false ∧ s.recordBusy run.words.part u.r.ctx (s.layerVa u.r i) = false then some (u, c, i) else none
    | _, _ => none

/-- Whether a spur's engine has a layer: it works on one, or has taken one that waits. -/
def State.engineBusy (s : State) (spur : Nat) : Bool :=
  (Tbl.find s.eng.spurs spur).isSome || s.eng.upds.any fun u => (Tbl.find u.held spur).isSome

/-- Whether a spur's engine has taken the layer it is at, or is the free one of lowest index of its context's partition that has a layer to take
(R204). -/
def State.engineTurn (s : State) (spur : Nat) : Bool :=
  match s.nextLayer spur with
  | none => true
  | some (u, _, _) =>
    (Tbl.find u.held spur).isSome || (List.range spur).all fun k =>
      (s.ctx u.r.ctx).all (fun run => (s.part run.words.part).all fun (p : PartEnt) => !p.hasSpur k) || s.engineBusy k || (s.nextLayer k).isNone

/-- Change a running UPD_RUN. -/
def State.setUpd (s : State) (r : CmdRef) (f : UpdRun → UpdRun) : State :=
  { s with eng := { s.eng with upds := s.eng.upds.map fun u => if u.r = r then f u else u } }

/-- An engine takes a layer, unless it has done so. -/
def UpdRun.take (u : UpdRun) (spur : Nat) : UpdRun :=
  if (Tbl.find u.held spur).isSome then { u with held := Tbl.del u.held spur } else { u with taken := u.taken + 1 }

/-- An engine takes a layer that it cannot read yet: no other one takes it. -/
def State.holdLayer (s : State) (spur : Nat) (u : UpdRun) (i : Nat) : State :=
  if (Tbl.find u.held spur).isSome then s
  else s.setUpd u.r fun x => { x with taken := x.taken + 1, held := Tbl.put x.held spur i }

/-- An engine takes a layer and has made its writes; STATUS follows (R209). -/
def State.takeLayer (s : State) (spur : Nat) (u : UpdRun) (e : UpdEng) : State :=
  let s1 := (s.boardDone (.spur spur)).setUpd u.r fun x => { x.take spur with bad := x.bad || decide (e.status = 4) }
  { s1 with eng := { s1.eng with spurs := Tbl.put s1.eng.spurs spur e } }

/-- Read `n` numbers of `w` bytes from an address, keeping another module's answers. -/
def State.vNums (s : State) (o : Owner) (ctx hint va n w : Nat) : Go (List Nat) :=
  (s.vKeep o ctx ⟨some ctx, none, hint, none, false, 2⟩ va (n * w)).bind fun bs t =>
    .ok ((List.range n).map fun i => leVal ((bs.drop (w * i)).take w)) t

/-- One pass over the gradient (Table 7.7): its elements in K-major order, scaled and rounded. With GDISC its reads carry hint 11. -/
def State.gradPass (s : State) (o : Owner) (ctx : Nat) (l : LRec) : Go (List Nat) :=
  (s.vNums o ctx (if lFld l 126 1 = 1 then 3 else 0) (lGbase l) (lElems l) (if lGraw l then 32 else 4)).bind fun g s1 =>
    .ok ((if lNmajor l then transposed (lK l) (lN l) g else g).map (gradOf l)) s1

/-- The first pass over the gradient, where there is one before the last: pass 1 of U-FAC and U-FACM, or the scan of NFSKIP (R212). -/
def State.scanPass (s : State) (o : Owner) (ctx : Nat) (l : LRec) : Go (List Nat) :=
  if lFactored l || lNfskip l then s.gradPass o ctx l else .ok [] s

/-- The buffers that the passes after the first read (R209, Table 7.7): the gradient again in each pass. -/
def State.layerBufs (s : State) (o : Owner) (ctx : Nat) (l : LRec) (g1 : List Nat) : Go LBufs :=
  let e := lElems l
  (if lFactored l && lClip l then s.gradPass o ctx l else Go.ok [] s).bind fun g2 s0 =>
  (s0.gradPass o ctx l).bind fun g s1 =>
  (s1.vNums o ctx 0 (lWbase l) e 4).bind fun w s2 =>
  (s2.vNums o ctx 0 (lMbase l) (if lMoment l then e else 0) 4).bind fun m s3 =>
  (s3.vNums o ctx 0 (lRbase l) (if lFactored l then lK l else 0) 4).bind fun r s4 =>
  (s4.vNums o ctx 0 (lCbase l) (if lFactored l then lN l else 0) 4).bind fun c s5 =>
    .ok ⟨g1, g2, g, w, m, r, c⟩ s5

/-- Numbers as bytes. -/
def numBytes (w : Nat) (xs : List Nat) : List (BitVec 8) := xs.flatMap fun x => leBytes w x

/-- Write several ranges, each with its hint, all or none of them where anything has to be waited for. -/
def State.vWrites (s : State) (o : Owner) (ctx : Nat) (ws : List (Nat × Nat × List (BitVec 8))) : Go Unit :=
  let ws := ws.filter fun (w : Nat × Nat × List (BitVec 8)) => w.2.2 ≠ []
  let go := fun (acc : Go (List (Nat × List (Span × List (BitVec 8))))) (w : Nat × Nat × List (BitVec 8)) =>
    acc.bind fun l t => (t.spans ctx w.1 w.2.2.length .write).bind fun sp t1 => .ok (l ++ [(w.2.1, zipSpans sp w.2.2)]) t1
  (ws.foldl go (.ok [] s)).bind fun l s1 =>
    match s1.reachAll o (some ctx) (l.flatMap fun x => x.2.map (·.1)) false true with
    | .failed => .lose stPoisonConsumed 0 s1
    | .asleep d => .stall (s1.noteDom o d)
    | .busy => .stall (s1.takeTurn o (some ctx) (devLines (l.flatMap fun x => x.2.map (·.1))))
    | .ok => l.foldl (fun (g : Go Unit) (x : Nat × List (Span × List (BitVec 8))) =>
        g.bind fun _ t => t.writeSpans o ctx ⟨some ctx, none, x.1, none, false, 2⟩ x.2) (.ok () s1)

/-- The writes of both narrow orders, with hint 11, and what they add to statistics (R218). -/
def orderWrites (l : LRec) (p : Narrow × Narrow) : List (Nat × Nat × List (BitVec 8)) :=
  [(lKbase l, 3, p.1.data), (lKsbase l, 3, p.1.scales), (lNbase l, 3, p.2.data), (lNsbase l, 3, p.2.scales)]

/-- The additions of both orders. -/
def orderAdds (l : LRec) (p : Narrow × Narrow) : List (Nat × List Nat × Option Int) :=
  [(lKtid l, p.1.stat.1, p.1.stat.2), (lNtid l, p.2.stat.1, p.2.stat.2)]

/-- Refresh a layer (R220). -/
def State.refreshLayer (s : State) (spur : Nat) (u : UpdRun) (i va : Nat) (l : LRec) (key : BitVec 64) : Go Unit :=
  let o := Owner.spur spur
  (s.vNums o u.r.ctx 0 (lWbase l) (lElems l) 4).bind fun w s1 =>
    let p := narrowOrders l key (lLast l) w
    (s1.vWrites o u.r.ctx (orderWrites l p)).bind fun _ s2 => .ok () (s2.takeLayer spur u ⟨u.r, i, va, 5, orderAdds l p⟩)

/-- Run the passes of a layer for step `t` (R209, R210, R212, R213): the scan decides before anything else is read. -/
def State.updateLayer (s : State) (spur : Nat) (u : UpdRun) (i va : Nat) (l : LRec) (key : BitVec 64) (eta t : Nat) : Go Unit :=
  let o := Owner.spur spur
  (s.scanPass o u.r.ctx l).bind fun g1 s1 =>
    let (skip, s2) := if lNfskip l then s1.judge detUpdNonfinite spur (g1.any f32NonFinite) else (false, s1)
    if skip then .ok () ((s2.det detUpdNonfinite).takeLayer spur u ⟨u.r, i, va, 3, []⟩)
    else
      (s2.layerBufs o u.r.ctx l g1).bind fun b s2 =>
      let (n, p2) := layerStep l eta b
      let p := narrowOrders l key t n.w
      let f := lFactored l
      (s2.vWrites o u.r.ctx ([(lWbase l, 0, numBytes 4 n.w), (lMbase l, 0, if lMoment l then numBytes 4 n.m else []),
        (lRbase l, 0, if f then numBytes 4 n.r else []), (lCbase l, 0, if f then numBytes 4 n.c else []),
        (va + 116, 0, if f then leBytes 4 p2 else [])] ++ orderWrites l p)).bind fun _ s3 =>
      .ok () (s3.takeLayer spur u ⟨u.r, i, va, 1, orderAdds l p⟩)

/-- The checks of a layer and its passes (R206, R209): an invalid record, a step applied before, an old step entry. A wait leaves nothing
counted. DESIGN CHOICE (log 48): an invalid record is judged first and counts no stale step. -/
def State.runLayer (s : State) (spur : Nat) (u : UpdRun) (c : Cmd) (i va : Nat) (l : LRec) (hdr entry : Nat) : Go Unit :=
  let refresh := decide (cmdFld c 288 1 = 1)
  let t := cmdFld c 256 32
  let eta := entry % 2 ^ 32
  let key := BitVec.ofNat 64 hdr
  let (bad, s1) := s.check detUpdInvalid spur (!(layerOk l && (refresh || f32NonNeg eta)))
  if bad then .ok () (s1.takeLayer spur u ⟨u.r, i, va, 4, []⟩)
  else if refresh then s1.refreshLayer spur u i va l key
  else
    let (_, s2) := s1.check detUpdStaleStep spur (decide (entry / 2 ^ 32 ≠ t))
    let (rep, s3) := s2.check detUpdRepeat spur (decide (t ≤ lLast l))
    if rep then .ok () (s3.takeLayer spur u ⟨u.r, i, va, 2, []⟩)
    else s3.updateLayer spur u i va l key eta t

/-- UPD_LAYER (R204, R209, R214, R216, R220): the free engine of lowest index takes the next layer and runs its passes. A pass that has to wait is
presented again, with nothing counted or written; the engine has then taken the layer. -/
def execUpdLayer (spur : Nat) (s : State) : Host.Outcome State Fault Refusal :=
  .next (
    if (Tbl.find s.eng.spurs spur).isSome ∨ s.engineTurn spur = false then s
    else
      match s.nextLayer spur with
      | none => s
      | some (u, c, i) =>
        let o := Owner.spur spur
        let va := s.layerVa u.r i
        let read :=
          (s.updHeader u.r o c).bind fun hdr s1 =>
          (s1.vNums o u.r.ctx 0 va 1 128).bind fun lr s2 =>
          (if cmdFld c 288 1 = 1 then Go.ok [0] s2 else s2.vNums o u.r.ctx 0 (bitsOf hdr 128 57 + 8 * i) 1 8).bind fun ent s3 =>
            .ok (hdr, lr.headD 0, ent.headD 0) s3
        match read with
        | .stall t => t.holdLayer spur u i
        | .lose code va t => (t.boardDone o).loseCmd u.r code va
        | .ok (hdr, lr, ent) t =>
          match t.runLayer spur u c i va (BitVec.ofNat 1024 lr) hdr ent with
          | .ok _ t1 => t1
          | .stall t1 => ({ t with ridge := t1.ridge, fresh := t1.fresh, out := t1.out }.keepTurns t1).holdLayer spur u i
          | .lose code va t1 => (t1.boardDone o).loseCmd u.r code va)

/-- An addition of an engine as a statistics addition. -/
def addOf (a : List Nat × Option Int) : StatAdd :=
  ⟨a.1.getD 0 0, a.1.getD 1 0, a.1.getD 2 0, 0, 0, a.1.getD 3 0, a.2⟩

/-- Make an engine's additions in order; those left are kept where one has to wait. In a context without a table all of them are one
operation's, and count once (R161). -/
def State.updStats : List (Nat × List Nat × Option Int) → State → Nat → UpdEng → Go Unit
  | [], s, _, _ => .ok () s
  | a :: as, s, spur, e =>
    if (s.statVa e.r.ctx a.1).isNone then .ok () (s.note detStatDropped 0x10000)
    else
      match s.statAdd (.spur spur) e.r.ctx a.1 (addOf a.2) with
      | .ok _ t => State.updStats as t spur e
      | .stall t => .stall { t with eng := { t.eng with spurs := Tbl.put t.eng.spurs spur { e with adds := a :: as } } }
      | .lose code va t => .lose code va t

/-- The engine's layer is done: the command ends with its last layer (R209). -/
def State.layerEnd (s : State) (spur : Nat) (e : UpdEng) : State :=
  let s1 := ({ s with eng := { s.eng with spurs := Tbl.del s.eng.spurs spur } }).setUpd e.r fun x => { x with done := x.done + 1 }
  match s1.eng.upds.find? (fun u => u.r = e.r), s1.cmd e.r with
  | some u, some c =>
    if cmdFld c 224 32 ≤ u.done then
      ({ s1 with eng := { s1.eng with upds := s1.eng.upds.filter fun x => x.r ≠ e.r } }).finish e.r (if u.bad then stDescInvalid else 0)
    else s1
  | _, _ => s1

/-- UPD_LAYER_DONE (R209, R212, R220): once every write of the layer is performed, the engine writes LASTSTEP and STATUS in one 8-byte
write, or STATUS alone. -/
def execUpdLayerDone (spur : Nat) (s : State) : Host.Outcome State Fault Refusal :=
  .next (
    match Tbl.find s.eng.spurs spur with
    | none => s
    | some e =>
      match State.updStats e.adds s spur e with
      | .stall t => t
      | .lose code va t => t.loseCmd e.r code va
      | .ok _ t =>
        let t := { t with eng := { t.eng with spurs := Tbl.put t.eng.spurs spur { e with adds := [] } } }
        if t.boardBusy (.spur spur) then t
        else
          let step := match t.cmd e.r with | some c => cmdFld c 256 32 | none => 0
          let w := if e.status = 1 ∨ e.status = 3 then (e.va + 120, leBytes 8 (step + e.status * 2 ^ 32)) else (e.va + 124, leBytes 1 e.status)
          match t.vWrite (.cmd e.r) e.r.ctx (engReq e.r.ctx) w.1 w.2 with
          | .ok _ t1 => t1.layerEnd spur e
          | .stall t1 => t1
          | .lose code va t1 => t1.loseCmd e.r code va)

end Sys2Proof.Machine
end

