-- ==== Sys2Proof/Machine/Coll.lean ====
section
/-!
DEFINITION. Collectives (08 R232 to R246, 09 R276, 12 R353, R354): descriptors, exact sums on the wire, holders with their two slots and
ledgers, results, ALL_GATHER and BARRIER, and the queue commands COLL_OPEN, COLL_RUN and COLL_CLOSE.
-/
namespace Sys2Proof.Machine

/-! ## The descriptor (Table 8.3) -/

/-- A field of a collective descriptor. -/
def cFld (d : BitVec 512) (lo n : Nat) : Nat := bitsOf d.toNat lo n

def cSrc (d : BitVec 512) : Nat := cFld d 0 57
def cIfmt (d : BitVec 512) : Nat := cFld d 57 4
def cKind (d : BitVec 512) : Nat := cFld d 61 3
def cDst (d : BitVec 512) : Nat := cFld d 64 57
def cOfmt (d : BitVec 512) : Nat := cFld d 121 4
def cTree (d : BitVec 512) : Bool := cFld d 125 1 = 1
def cCarry (d : BitVec 512) : Bool := cFld d 126 1 = 1
def cWork (d : BitVec 512) : Nat := cFld d 128 57
def cCensus (d : BitVec 512) : Nat := cFld d 192 57
def cCount (d : BitVec 512) : Nat := cFld d 256 48
def cBeta (d : BitVec 512) : Int := sVal 16 (cFld d 304 16)
def cNum (d : BitVec 512) : Nat := cFld d 322 6
def cGroup (d : BitVec 512) : Nat := cFld d 328 8
def cDsexp (d : BitVec 512) : Int := sVal 16 (cFld d 336 16)
def cDeadline (d : BitVec 512) : Nat := cFld d 352 32
def cTid (d : BitVec 512) : Nat := cFld d 384 32

/-- The wire width in bits. -/
def cWw (d : BitVec 512) : Nat := 64 * (cFld d 320 2 + 1)

/-- Whether the collective sums. -/
def cReduces (d : BitVec 512) : Bool := cKind d < 2

/-- The group a collective runs in, as this module sees it (Table 12.6). -/
structure Geo where
  d : BitVec 512
  node : Nat
  e : GroupEnt
deriving DecidableEq, Repr, Inhabited

/-- Whether this module is the root of a tree (R354). -/
def Geo.root (g : Geo) : Bool := g.e.tree && decide (g.e.parent = g.node)

/-- The contributors a holder awaits: every member, or under TREE its children and itself (R240). -/
def Geo.members (g : Geo) : List Nat := if g.e.tree then g.e.list ++ [g.node] else g.e.list

/-- Every other member that messages go to. -/
def Geo.others (g : Geo) : List Nat := g.e.list.filter fun m => m ≠ g.node

/-- The first element of a member's shard (R233). -/
def Geo.start (g : Geo) (r : Nat) : Nat := cCount g.d * r / g.e.n

/-- The number of elements of a member's shard (R233). -/
def Geo.shard (g : Geo) (r : Nat) : Nat := g.start (r + 1) - g.start r

/-- The rank of a member of a DIRECT group. -/
def Geo.rankOf (g : Geo) (node : Nat) : Nat := g.e.list.idxOf node

/-- The elements this module holds (R233). -/
def Geo.held (g : Geo) : Nat := if g.e.tree then cCount g.d else g.shard g.e.rank

/-- Parts of 256 elements. -/
def partsIn (n : Nat) : Nat := (n + 255) / 256

/-- The size of a slot of the work area (R234). -/
def Geo.slotBytes (g : Geo) : Nat :=
  let e := if g.e.tree then cCount g.d else (cCount g.d + g.e.n - 1) / g.e.n
  (64 + e * cWw g.d / 8 + 63) / 64 * 64

/-- The address of a slot. -/
def Geo.slotVa (g : Geo) (j : Nat) : Nat := cWork g.d + j * g.slotBytes

/-- The group of a collective, where the image in effect defines it with the right links (R235, R354). -/
def State.geo (s : State) (d : BitVec 512) : Option Geo :=
  (s.groupEnt (cGroup d) (cTree d)).map fun e => ⟨d, s.node, e⟩

/-- Input formats, and output formats (Table 8.3). -/
def inFmtOk (f : Nat) : Bool := [9, 10, 11, 12, 15].contains f
def outFmtOk (f : Nat) : Bool := [0, 1, 8, 9, 10, 11, 12, 13, 15].contains f

/-- The checks of a descriptor (R232, R233, R235), the group apart. -/
def descOk (d : BitVec 512) : Bool :=
  let k := cKind d
  let moves := decide (k ≠ 3)
  decide (d.toNat &&& (ones 127 1 ||| ones 185 7 ||| ones 249 7 ||| ones 416 96) = 0) &&
  inFmtOk (cIfmt d) && outFmtOk (cOfmt d) && decide (k < 4) && decide (cFld d 320 2 ≠ 3) &&
  decide (-4096 ≤ cBeta d) && decide (cBeta d ≤ 4095) && decide (cWork d % 64 = 0) && decide (cCensus d % 8 = 0) &&
  (if moves then decide (1 ≤ cCount d) && decide (cCount d ≤ 2 ^ 40) && decide (cSrc d % (tWidths (cIfmt d)).1 = 0) &&
      decide (cDst d % (tWidths (cOfmt d)).1 = 0)
   else decide (cSrc d = 0) && decide (cDst d = 0) && decide (cCount d = 0) && decide (cCensus d = 0) && decide (cWork d = 0)) &&
  (decide (k ≠ 2) || decide (cOfmt d = cIfmt d)) && (decide (k < 2) || (decide (cDeadline d = 0) && !cCarry d)) &&
  (!cTree d || decide (k = 0) || decide (k = 3))

/-! ## Exact sums on the wire (R236, R237) -/

/-- MARK. -/
def wireMark (ww : Nat) : Int := -(2 ^ (ww - 1) : Nat)

/-- The largest wire integer. -/
def wireMax (ww : Nat) : Int := (2 ^ (ww - 1) - 1 : Nat)

/-- An element on the wire, whether it breaks the bound, and whether it is cut or saturated (R236). -/
def toWire (d : BitVec 512) (code : Nat) : Int × Bool × Bool :=
  let ww := cWw d
  let r := RawRec.ofNat code
  let raw := decide (cIfmt d = 15)
  let v : FVal :=
    if raw then (if r.acc.nan || r.acc.pinf || r.acc.ninf then .nan else intVal r.acc.x.toInt (r.base - 95))
    else match memFmt (cIfmt d) with | some f => f.decode code | none => .nan
  match v with
  | .fin n m e =>
    let (q, rem, _) := scaleNat m (e + (ww : Int) - 32 - cBeta d)
    let t : Int := if n then -(q : Int) else q
    let c := if raw && r.acc.ovf then (if n then -wireMax ww else wireMax ww) else clampI (-wireMax ww) (wireMax ww) t
    (c, breaks (cBeta d) v, decide (rem ≠ 0) || decide (c ≠ t))
  | _ => (wireMark ww, false, false)

/-- Add two wire integers; the Boolean says that the sum saturates (R236). -/
def satAdd (ww : Nat) (a t : Int) : Int × Bool :=
  if a = wireMark ww ∨ t = wireMark ww then (wireMark ww, false)
  else if wireMax ww < a + t then (wireMax ww, true)
  else if a + t < -wireMax ww then (-wireMax ww, true)
  else (a + t, false)

/-- A wire sum in OFMT with its statistics (R237); none for raw records. -/
def fromWire (d : BitVec 512) (x : Int) : Nat × Option ElemStat :=
  let ww := cWw d
  let mark := decide (x = wireMark ww)
  let sat := !mark && decide (x.natAbs = (wireMax ww).natAbs)
  if cOfmt d = 15 then
    (RawRec.toNat ⟨⟨BitVec.ofInt 192 x, mark, false, false, sat⟩, cBeta d - ww + 127, false⟩, none)
  else
    let v : FVal := if mark then .nan else intVal x (cBeta d - ww + 32 - cDsexp d)
    let (c, st) := drainElem (cOfmt d) false (.val v)
    (c, some (if sat then { st with sat := !st.nonfin } else st))

/-- Add an element's statistics to the counters ZEROS, SATS, NONFIN, TRUNC, ELEMS and MAXEXP. -/
def addStat (a : List Nat × Option Int) (e : ElemStat) : List Nat × Option Int :=
  ([a.1.getD 0 0 + b2n e.zero, a.1.getD 1 0 + b2n e.sat, a.1.getD 2 0 + b2n e.nonfin, a.1.getD 3 0, a.1.getD 4 0 + 1],
   maxOpt a.2 e.exp)

/-- Wire integers as bytes, and back. -/
def wireBytes (ww : Nat) (xs : List Int) : List (BitVec 8) := xs.flatMap fun x => leBytes (ww / 8) (wrapN ww x)
def wiresOf (ww : Nat) (bs : List (BitVec 8)) : List Int :=
  (List.range (bs.length / (ww / 8))).map fun i => sVal ww (leVal ((bs.drop (i * (ww / 8))).take (ww / 8)))

/-! ## Frames (Table 12.4) -/

/-- The bytes of a whole part of a frame type. -/
def Geo.partBytes (g : Geo) (typ : BitVec 4) : Nat := if typ = 8 then 32 * cWw g.d else 32 * memBits (cOfmt g.d)

/-- A list in pieces of `k`. -/
def piecesOf {α : Type} (k : Nat) : Nat → List α → List (List α)
  | 0, _ => []
  | n + 1, xs => if xs = [] then [] else xs.take k :: piecesOf k n (xs.drop k)
termination_by structural n => n

/-- A collective frame; its tag comes when it is sent. -/
def State.collFrame (s : State) (g : Geo) (typ : BitVec 4) (dst step first : Nat) (payload : List (BitVec 8)) : Frame :=
  s.mkFrame typ dst 0 (cGroup g.d + cNum g.d * 2 ^ 8 + step % 2 ^ 32 * 2 ^ 32 + g.e.rank * 2 ^ 64 + first * 2 ^ 96) payload

/-- The frames that carry whole parts: as many in each as fit (Table 12.4). -/
def State.partFrames (s : State) (g : Geo) (typ : BitVec 4) (dst step : Nat) (data : List (BitVec 8)) : List Frame :=
  let pb := g.partBytes typ
  let k := max 1 (8192 / pb)
  (piecesOf (k * pb) (data.length + 1) data).zipIdx.map fun p => s.collFrame g typ dst step (p.2 * k) p.1

/-- The step a collective frame carries. -/
def frameStep (f : Frame) : Nat := frameArg f 32 32

/-- An open collective. -/
def State.coll (s : State) (num : Nat) : Option Coll := Tbl.find s.eng.colls num

/-- Set a collective. -/
def State.putColl (s : State) (num : Nat) (c : Coll) : State := { s with eng := { s.eng with colls := Tbl.put s.eng.colls num c } }

/-- Send a collective's frame, and keep it by its tag for a NAK; one that finds no route is dropped (R345). -/
def State.collSend (s : State) (num : Nat) (f : Frame) : State :=
  let (t, s1) := s.newTag
  let f := { f with tag := t }
  match s1.send true f with
  | (some _, s2) => s2.note detRdgNakSent 0xFFFF
  | (none, s2) =>
    match s2.coll num with
    | some c => s2.putColl num { c with sent := (c.sent.filter fun x => frameStep f ≤ frameStep x + 2) ++ [f] }
    | none => s2

/-- The unit at which a partition's collective engines are judged: its lowest spur (log 25). -/
def State.collUnit (s : State) (ctx : Nat) : Nat :=
  match (s.ctx ctx).bind fun r => s.part r.words.part with
  | some p => p.sx0 + 16 * p.sy0
  | none => 0

/-! ## A holder (R234, R240 to R242, R276) -/

/-- A slot that holds nothing. -/
def CollSlot.empty : CollSlot := ⟨0, 0, [], [], 0, [], [], []⟩

/-- A holder at work: its collective, the sums of both slots, the open and the last closed step, what it adds to the ledger (CLOSED, SHORT,
CARRIED, DROPPED, FARLATE, EARLY), sums saturated, contributions given up, frames to send, bytes to write to DST, and the slots
to write, and a free number for what no frame tells. -/
structure Hold where
  c : Coll
  sums0 : List Int
  sums1 : List Int
  op : Nat
  closed : Nat
  led : List Nat
  ovr : Nat
  lostParts : Nat
  out : List Frame
  dst : List (Nat × List (BitVec 8))
  wrote : List Nat
  fr : Nat
deriving DecidableEq, Repr, Inhabited

/-- A holder's slot and its sums. -/
def Hold.slot (h : Hold) (j : Nat) : CollSlot := if j = 0 then h.c.slot0 else h.c.slot1
def Hold.sums (h : Hold) (j : Nat) : List Int := if j = 0 then h.sums0 else h.sums1

/-- Set a slot. -/
def Hold.putSlot (h : Hold) (j : Nat) (v : CollSlot) : Hold :=
  { h with c := if j = 0 then { h.c with slot0 := v } else { h.c with slot1 := v }, wrote := if j ∈ h.wrote then h.wrote else j :: h.wrote }

/-- Set a slot's sums. -/
def Hold.putSums (h : Hold) (j : Nat) (v : List Int) : Hold := if j = 0 then { h with sums0 := v } else { h with sums1 := v }

/-- Count in the ledger. -/
def Hold.count (h : Hold) (i : Nat) : Hold := { h with led := h.led.set i (h.led.getD i 0 + 1) }

/-- Open slot `u` mod 2 for step `u`, all sums 0, unless it is open for it. -/
def Hold.openSlot (g : Geo) (h : Hold) (u : Nat) : Hold :=
  if (h.slot (u % 2)).step = u ∧ (h.slot (u % 2)).state = 1 then h
  else (h.putSlot (u % 2) ⟨u, 1, [], [], 0, [], [], []⟩).putSums (u % 2) (List.replicate g.held 0)

/-- Add a part's wire integers into a slot. -/
def Hold.addPart (g : Geo) (h : Hold) (j part : Nat) (xs : List Int) : Hold :=
  let ss := h.sums j
  let rs := ((ss.drop (256 * part)).take xs.length).zip xs |>.map fun p => satAdd (cWw g.d) p.1 p.2
  { h.putSums j (ss.take (256 * part) ++ rs.map (·.1) ++ ss.drop (256 * part + rs.length)) with
    ovr := h.ovr + (rs.filter (·.2)).length }

/-- The members of whom a slot has any part. -/
def CollSlot.givers (c : CollSlot) : List Nat := (c.got.flatMap (·.2)).eraseDups

/-- How many members the contributions of some givers stand for: one each, and for a child under TREE what its partial sum includes. -/
def CollSlot.standFor (c : CollSlot) (ms : List Nat) : Nat := (ms.map fun m => Tbl.getD c.kids m 1).sum

/-- INCL of a slot: the smallest number of members over its parts (R276). -/
def CollSlot.count (c : CollSlot) (parts : Nat) : Nat :=
  (List.range parts).foldl (fun m p => min m (c.standFor (Tbl.getD c.got p []))) (c.standFor c.givers)

/-- Whether every awaited contribution is in (R240). -/
def Geo.full (g : Geo) (c : CollSlot) : Bool :=
  (List.range (partsIn g.held)).all fun p => g.members.all fun m => m ∈ Tbl.getD c.got p []

/-- Whether the collective has no deadline: every step then includes every member and nothing is carried (R238). -/
def Geo.exact (g : Geo) : Bool := decide (cDeadline g.d = 2 ^ 32 - 1)

/-- The members that a holder's slot includes (R234, R243): the whole group at a root that has every contribution and no deadline (R238). -/
def Geo.inCount (g : Geo) (c : CollSlot) : Nat :=
  if g.root ∧ g.exact ∧ g.full c then g.e.n else c.count (partsIn g.held)

/-- A child's partial sum begins to reach a slot: how many members it includes is in no frame, and free, from 1 to what the rest of the group leaves
(log 25). -/
def Geo.kidIn (g : Geo) (c : CollSlot) (m fr : Nat) : CollSlot :=
  if g.e.tree = false ∨ m = g.node ∨ (Tbl.find c.kids m).isSome then c
  else
    let rest := g.e.n - 1 - (c.kids.map (·.2)).sum - (g.e.list.filter fun k => decide (k ≠ m) && (Tbl.find c.kids k).isNone).length
    { c with kids := Tbl.put c.kids m (1 + fr % max 1 rest) }

/-- A result in OFMT. -/
def Geo.resultOf (g : Geo) (sums : List Int) : List (BitVec 8) × (List Nat × Option Int) :=
  let es := sums.map (fromWire g.d)
  (packElems (memBits (cOfmt g.d)) (es.map (·.1)),
   es.foldl (fun a e => match e.2 with | some st => addStat a st | none => a) ([0, 0, 0, 0, 0], none))

/-- The byte of DST at which a member's shard of the result begins (R233). -/
def Geo.dstAt (g : Geo) (node : Nat) : Nat :=
  cDst g.d + (if g.e.tree ∨ cKind g.d = 1 then 0 else g.start (g.rankOf node)) * memBits (cOfmt g.d) / 8

/-- Add counters of statistics. -/
def plusCounts (a b : List Nat) : List Nat := a.zipWith (· + ·) b

/-- The result of this module's own holder enters DST, where its own COLL_RUN of that step runs (R242). -/
def Hold.selfResult (g : Geo) (h : Hold) (j : Nat) : Hold :=
  let sl := h.slot j
  match h.c.run with
  | some r =>
    if r.step = sl.step ∧ Tbl.find r.parts g.node = none then
      let (bs, st) := g.resultOf (h.sums j)
      let r1 := { r with
        parts := Tbl.put r.parts g.node (List.range (partsIn g.held)), incl := min r.incl sl.incl,
        carried := max r.carried sl.carried.length, counts := plusCounts r.counts st.1, maxexp := maxOpt r.maxexp st.2 }
      { h with c := { h.c with run := some r1 }, dst := h.dst ++ [(g.dstAt g.node, bs)] }
    else h
  | none => h

/-- The codes in OFMT that a saturated sum or an overflow gives (R237). -/
def satCodes (d : BitVec 512) : List Nat :=
  [false, true].flatMap fun n =>
    [(fromWire d (if n then -wireMax (cWw d) else wireMax (cWw d))).1, (drainElem (cOfmt d) false (.val (.fin n 1 8192))).1]

/-- The statistics a member adds for a part it receives in OFMT (R237). An infinity came from an overflow, and a NaN counts in NONFIN alone
(R159); a finite code that a saturated sum or an overflow gives, and an exact sum may give as well, is a saturation or none: the number of them is
free (log 25). -/
def partStats (d : BitVec 512) (bs : List (BitVec 8)) (fr : Nat) : List Nat × Option Int :=
  if cOfmt d = 15 then ([0, 0, 0, 0, 0], none)
  else
    let w := memBits (cOfmt d)
    let cs := codesOf w (bs.length / (w / 8)) bs
    let st := cs.foldl (fun a c =>
      match memFmt (cOfmt d) with
      | some f =>
        match f.decode c with
        | .inf n => addStat a (drainElem (cOfmt d) false (.val (.fin n 1 8192))).2
        | v =>
          let nf := match v with | .fin _ _ _ => false | _ => true
          addStat a ⟨fEq v (.fin false 0 0), false, nf, expOf v⟩
      | none =>
        let i := sVal w c
        addStat a ⟨decide (i = 0), false, false, if i = 0 then none else some (Nat.log2 i.natAbs : Nat)⟩) ([0, 0, 0, 0, 0], none)
    let open_ := (cs.filter fun c => decide (c ∈ satCodes d) && !(match memFmt (cOfmt d) with
      | some f => match f.decode c with | .fin _ _ _ => false | _ => true
      | none => false)).length
    (st.1.set 1 (st.1.getD 1 0 + fr % (open_ + 1)), st.2)

/-- The parts of a sender that are settled. -/
def CollRun.has (r : CollRun) (m : Nat) : List Nat := Tbl.getD r.parts m []

/-- Parts of a sender become settled. -/
def CollRun.add (r : CollRun) (m : Nat) (ps : List Nat) : CollRun := { r with parts := Tbl.put r.parts m ((ps ++ r.has m).eraseDups) }

/-- What a running reduction notes of parts written into DST from a holder elsewhere: no frame tells INCL and CARRIED, so that they are free but
without a deadline, and nothing is carried under DROP (log 25). -/
def Geo.noteParts (g : Geo) (r : CollRun) (m : Nat) (ps : List Nat) (bs : List (BitVec 8)) (fr fi fc : Nat) : CollRun :=
  let r1 := r.add m ps
  let st := partStats g.d bs fr
  let n := g.e.n
  { r1 with incl := min r1.incl (if g.exact then n else fi % (n + 1)), carried := max r1.carried (if g.exact || !cCarry g.d then 0 else fc % (n + 1)),
            counts := plusCounts r1.counts st.1, maxexp := maxOpt r1.maxexp st.2 }

/-- The result that has come down the tree enters DST for this module's own COLL_RUN of that step, which came late (R242). -/
def Hold.ownResult (g : Geo) (h : Hold) (j : Nat) : Hold :=
  let sl := h.slot j
  match h.c.run with
  | some r =>
    if r.step = sl.step then
      let eb := memBits (cOfmt g.d) / 8
      sl.result.foldl (fun (x : Hold) p =>
        let ps := (List.range (partsIn (p.2.length / eb))).map (p.1 + ·)
        match x.c.run with
        | some r => if ps.all (fun i => i ∈ r.has g.e.parent) then x else
            { x with c := { x.c with run := some (g.noteParts r g.e.parent ps p.2 x.fr (x.fr / 2 ^ 20) (x.fr / 2 ^ 40)) },
                     dst := x.dst ++ [(g.dstAt g.e.parent + p.1 * 32 * memBits (cOfmt g.d), p.2)] }
        | none => x) h
    else h
  | none => h

/-- Deliver a closed slot's result to a contributor (R242): a REDUCE_SCATTER's stays with its holder; below the root of a tree it is what
has come down. -/
def Hold.deliver (s : State) (g : Geo) (h : Hold) (j m : Nat) : Hold :=
  let sl := h.slot j
  if g.e.tree ∧ g.root = false then
    if m = g.node then h.ownResult g j
    else { h with out := h.out ++ sl.result.map fun p => s.collFrame g 9 m sl.step p.1 p.2 }
  else if m = g.node then h.selfResult g j
  else if cKind g.d = 1 then h
  else { h with out := h.out ++ s.partFrames g 9 m sl.step (g.resultOf (h.sums j)).1 }

/-- The contributions, up to the step that closes, of which a part was asked for once more and has not come: their sender's context has been lost
(R276, log 25). -/
def Hold.unanswered (h : Hold) (o : Nat) : List (Nat × Nat) :=
  ((h.c.asked.filter fun a => decide (a.1 ≤ o) && decide (o ≤ a.1 + 1) && !decide (a ∈ h.c.dealt) && !decide ((a.1, a.2.1) ∈ h.c.gone)).map
    fun a => (a.1, a.2.1)).eraseDups

/-- Close the open step (R240): its slot, the ledger, the result or the partial sum, and the next open step; which closes at once where
every contribution for it is in. `k` bounds the steps. -/
def Hold.close (s : State) (g : Geo) : Nat → Hold → Hold
  | 0, h => h
  | k + 1, h =>
    let o := h.op
    let j := o % 2
    let sl := h.slot j
    let full := g.full sl
    let h1 := (h.putSlot j { sl with state := 2, incl := g.inCount sl }).count 0
    let h2 := if full then h1 else h1.count 1
    let no := h2.unanswered o
    let h2 := { h2 with lostParts := h2.lostParts + no.length, c := { h2.c with gone := no ++ h2.c.gone } }
    let h3 := if g.e.tree ∧ g.root = false then
        { h2 with out := h2.out ++ s.partFrames g 8 g.e.parent o (wireBytes (cWw g.d) (h2.sums j)) }
      else sl.givers.foldl (fun (x : Hold) m => x.deliver s g j m) h2
    let nx := h3.slot ((o + 1) % 2)
    let begun := decide (nx.step = o + 1) && decide (nx.state = 1) && !nx.got.isEmpty
    let c := h3.c
    let h4 := { h3 with op := o + 1, closed := o, c := { c with
      since := if begun then some s.ms else none, asked := c.asked.filter fun a => o < a.1,
      gone := c.gone.filter fun a => o ≤ a.1, dealt := c.dealt.filter fun a => o ≤ a.1 } }
    if begun && g.full nx then Hold.close s g k h4 else h4

/-- Count a contribution once, at its first part that is not on time. -/
def Hold.once (h : Hold) (u m : Nat) (is : List Nat) : Hold :=
  if (u, m) ∈ h.c.late ∨ is = [] then h
  else is.foldl (fun (x : Hold) i => x.count i) { h with c := { h.c with late := (u, m) :: h.c.late } }

/-- A late contributor also receives the result its step's slot still holds, once, and what of it still comes down the tree (R242). -/
def Hold.lateResult (s : State) (g : Geo) (u m : Nat) (h : Hold) : Hold :=
  let sl := h.slot (u % 2)
  if sl.step = u ∧ sl.state = 2 ∧ m ∉ sl.late then
    (h.deliver s g (u % 2) m).putSlot (u % 2) { sl with late := m :: sl.late }
  else h

/-- A part is noted as dealt with: it is never added twice (R241). -/
def Hold.note (h : Hold) (u m part : Nat) : Hold := { h with c := { h.c with dealt := (u, m, part) :: h.c.dealt } }

/-- A part of a contribution of member `m` for step `u` (Table 8.4). -/
def Hold.part (s : State) (g : Geo) (h : Hold) (m u part : Nat) (xs : List Int) : Hold :=
  let o := h.op
  if (u, m, part) ∈ h.c.dealt then h
  else if u = o ∨ u = o + 1 then
    let h1 := (h.note u m part).openSlot g u
    let sl := h1.slot (u % 2)
    if m ∈ Tbl.getD sl.got part [] then h
    else
      let sl1 := g.kidIn sl m h.fr
      let h2 := (h1.addPart g (u % 2) part xs).putSlot (u % 2) { sl1 with got := Tbl.put sl.got part (m :: Tbl.getD sl.got part []) }
      let h3 := h2.once u m (if u = o then [] else [5])
      if u = o then
        let h4 := if h3.c.since.isSome then h3 else { h3 with c := { h3.c with since := some s.ms } }
        if g.full (h4.slot (u % 2)) then Hold.close s g 2 h4 else h4
      else h3
  else if u + 1 = o ∧ cCarry g.d then
    let h1 := ((h.note u m part).once u m [2]).lateResult s g u m
    let h2 := h1.openSlot g o
    let sl := h2.slot (o % 2)
    (h2.addPart g (o % 2) part xs).putSlot (o % 2) { sl with carried := if m ∈ sl.carried then sl.carried else m :: sl.carried }
  else ((if u + 1 = o then h.note u m part else h).once u m (if u + 1 = o then [3] else [3, 4])).lateResult s g u m

/-- The parts of a frame, in order: a poisoned one is asked for once more, and a second failure takes the contribution as not arrived
(R276). -/
def Hold.parts (s : State) (g : Geo) (m u : Nat) (poison : Bool) : List (List Int) → Nat → Hold → Hold
  | [], _, h => h
  | xs :: rest, part, h =>
    let h1 :=
      if (u, m) ∈ h.c.gone then h
      else if poison then
        if (u, m, part) ∈ h.c.asked then { h with c := { h.c with gone := (u, m) :: h.c.gone }, lostParts := h.lostParts + 1 }
        else { h with c := { h.c with asked := (u, m, part) :: h.c.asked } }
      else h.part s g m u part xs
    Hold.parts s g m u poison rest (part + 1) h1

/-! ## A holder's work area and ledger (R234, R246) -/

/-- Read the sums of a slot that is in use. -/
def State.slotSums (s : State) (num : Nat) (g : Geo) (ctx j : Nat) (sl : CollSlot) : Go (List Int) :=
  if sl.state = 0 then .ok (List.replicate g.held 0) s
  else (s.vKeep (.coll num) ctx (engReq ctx) (g.slotVa j + 64) (g.held * (cWw g.d / 8))).bind fun bs t =>
    .ok (wiresOf (cWw g.d) bs) t

/-- A holder as it stands. -/
def State.holdLoad (s : State) (num : Nat) (g : Geo) (c : Coll) : Go Hold :=
  let led := s.reg (regRdgLdgStep num)
  let (fr, s) := s.free
  if cReduces g.d then
    (s.slotSums num g c.ctx 0 c.slot0).bind fun a s1 =>
    (s1.slotSums num g c.ctx 1 c.slot1).bind fun b s2 =>
      .ok ⟨c, a, b, field led 0 32, field led 32 32, [0, 0, 0, 0, 0, 0], 0, 0, [], [], [], fr.toNat⟩ s2
  else .ok ⟨c, [], [], field led 0 32, field led 32 32, [0, 0, 0, 0, 0, 0], 0, 0, [], [], [], fr.toNat⟩ s

/-- The 64 bytes of a slot's header (R234). -/
def Geo.header (g : Geo) (sl : CollSlot) : List (BitVec 8) :=
  let n := if sl.state = 2 then sl.incl else g.inCount sl
  leBytes 64 (sl.step % 2 ^ 32 + n * 2 ^ 32 + sl.carried.length * 2 ^ 64 + sl.state * 2 ^ 96)

/-- Write back what a holder did: slots, results, ledger and counters; then send its frames. -/
def State.holdStore (s : State) (num : Nat) (g : Geo) (h : Hold) : Go Unit :=
  let ws := h.wrote.map fun j => (g.slotVa j, 0, g.header (h.slot j) ++ wireBytes (cWw g.d) (h.sums j))
  (s.vWrites (.coll num) h.c.ctx (ws ++ h.dst.map fun w => (w.1, 0, w.2))).bind fun _ s1 =>
    let u := s1.collUnit h.c.ctx
    let s2 := (s1.putColl num h.c).setReg (regRdgLdgStep num) (BitVec.ofNat 64 (h.op + h.closed * 2 ^ 32))
    let s3 := (List.range 6).foldl (fun (t : State) i => t.bumpFld (regRdgLdgCount num i) 0 64 (h.led.getD i 0)) s2
    let (b, s4) := s3.judge detCollOverflow u (decide (h.ovr ≠ 0))
    let s5 := s4.detN detCollOverflow (max h.ovr (b2n b))
    let (b2, s6) := s5.judge detCollPoison u (decide (h.lostParts ≠ 0))
    let s7 := s6.detN detCollPoison (max h.lostParts (b2n b2))
    .ok () (h.out.foldl (fun (t : State) f => t.collSend num f) (s7.boardDone (.coll num)))

/-- The parts of a CONTRIB payload, where it holds whole parts that lie in what this module holds. -/
def Geo.wireParts (g : Geo) (f : Frame) : Option (List (List Int)) :=
  let first := frameArg f 96 32
  let xs := wiresOf (cWw g.d) f.payload
  if f.payload ≠ [] ∧ f.payload.length % (cWw g.d / 8) = 0 ∧ 256 * first + xs.length ≤ g.held ∧
      (xs.length % 256 = 0 ∨ 256 * first + xs.length = g.held) then some (piecesOf 256 (xs.length + 1) xs)
  else none

/-- A CONTRIB frame at its holder (R241): a NAK code where it is refused. -/
def State.contribIn (s : State) (num : Nat) (g : Geo) (c : Coll) (f : Frame) : Go (Option Nat) :=
  let u := frameStep f
  let m := f.src.toNat
  match g.wireParts f with
  | none => .ok (some 1) s
  | some ps =>
    if cReduces g.d = false ∨ m ∉ g.members then .ok none s
    else
      let o0 := s.fld (regRdgLdgStep num) 0 32
      let o := if o0 = 0 then u else o0
      if o + 2 ≤ u then .ok (some 8) s
      else
        (s.holdLoad num g c).bind fun h s1 =>
          (s1.holdStore num g (Hold.parts s1 g m u f.poisoned ps (frameArg f 96 32) { h with op := o })).bind fun _ s2 => .ok none s2

/-! ## Results at a member (R242, R244) -/

/-- The parts a sender's RESULT covers, where its payload holds whole parts of that sender's `n` elements. -/
def Geo.resultParts (g : Geo) (f : Frame) (n : Nat) : Option (List Nat) :=
  let first := frameArg f 96 32
  let eb := memBits (cOfmt g.d) / 8
  let k := f.payload.length / eb
  if f.payload ≠ [] ∧ f.payload.length % eb = 0 ∧ 256 * first + k ≤ n ∧ (k % 256 = 0 ∨ 256 * first + k = n) then
    some ((List.range (partsIn k)).map (first + ·))
  else none

/-- A RESULT frame whose parts do not arrive whole: each is asked for once more, and a second failure gives it up and counts one (R244, R276). -/
def State.resultPoison (s : State) (num : Nat) (c : Coll) (r : CollRun) (m : Nat) (ps : List Nat) : State :=
  let due := ps.filter fun p => !decide (p ∈ r.has m)
  let gone := due.filter fun p => decide ((m, p) ∈ r.asked)
  let ask := due.filter fun p => !decide ((m, p) ∈ r.asked)
  let r1 := if gone = [] then r else { r.add m gone with lost := true }
  (s.putColl num { c with run := some { r1 with asked := ask.map (fun p => (m, p)) ++ r.asked } }).detN detCollPoison gone.length

/-- A RESULT frame's bytes enter DST, where this module's COLL_RUN of that step runs (R242, R244). -/
def State.resultWrite (s : State) (num : Nat) (g : Geo) (c : Coll) (r : CollRun) (f : Frame) (ps : List Nat) : Go Unit :=
  let m := f.src.toNat
  if ps.all (fun p => p ∈ r.has m) then .ok () s
  else if f.poisoned then .ok () (s.resultPoison num c r m ps)
  else
    let at' := g.dstAt m + frameArg f 96 32 * 32 * memBits (cOfmt g.d)
    (s.vWrite (.coll num) c.ctx (engReq c.ctx) at' f.payload).bind fun _ s1 =>
      let (fr, s2) := s1.free
      let (fi, s3) := s2.free
      let (fc, s4) := s3.free
      let r2 := if cKind g.d = 2 then r.add m ps else g.noteParts r m ps f.payload fr.toNat fi.toNat fc.toNat
      .ok () (s4.putColl num { c with run := some r2 })

/-- A result comes down the tree (R242, R354): it is kept with its slot and passed on to the children that contributed, in time or late. -/
def State.resultDown (s : State) (num : Nat) (g : Geo) (c : Coll) (f : Frame) : State × Coll :=
  let u := frameStep f
  let sl := if u % 2 = 0 then c.slot0 else c.slot1
  if g.e.tree ∧ g.root = false ∧ sl.step = u ∧ sl.state = 2 ∧ f.poisoned = false then
    let sl1 := { sl with result := Tbl.put sl.result (frameArg f 96 32) f.payload }
    let c1 := if u % 2 = 0 then { c with slot0 := sl1 } else { c with slot1 := sl1 }
    let s1 := s.putColl num c1
    let s2 := (((sl.givers ++ sl.late).eraseDups).filter fun m => m ≠ g.node).foldl (fun (t : State) m =>
      t.collSend num (s.collFrame g 9 m u (frameArg f 96 32) f.payload)) s1
    (s2, (s2.coll num).getD c1)
  else (s, c)

/-- A RESULT frame of a collective that moves data: a NAK code where it is refused. -/
def State.resultIn (s : State) (num : Nat) (g : Geo) (c : Coll) (f : Frame) : Go (Option Nat) :=
  let m := f.src.toNat
  let u := frameStep f
  let from' := if g.e.tree then decide (m = g.e.parent) && !g.root else decide (m ∈ g.others)
  match g.resultParts f (if g.e.tree || !from' then cCount g.d else g.shard (g.rankOf m)) with
  | none => .ok (some 1) s
  | some ps =>
    if from' = false then .ok none s
    else
      match c.run with
      | some r =>
        if r.step = u then
          (s.resultWrite num g c r f ps).bind fun _ s1 => .ok none (s1.resultDown num g ((s1.coll num).getD c) f).1
        else if cKind g.d = 2 ∧ r.step < u then .ok (some 8) s
        else .ok none (s.resultDown num g c f).1
      | none => if cKind g.d = 2 ∧ c.last < u then .ok (some 8) s else .ok none (s.resultDown num g c f).1

/-! ## Barriers (R239, R353) -/

/-- Whether every child has reported step `t` or above. -/
def Geo.kidsAt (g : Geo) (c : Coll) (t : Nat) : Bool := g.e.list.all fun m => decide (t ≤ Tbl.getD c.barrier m 0)

/-- Whether a barrier awaits nothing any more for step `t`. -/
def Geo.barrierDone (g : Geo) (c : Coll) (t : Nat) : Bool :=
  if g.e.tree then (if g.root then g.kidsAt c t else decide (t ≤ Tbl.getD c.barrier g.e.parent 0))
  else g.others.all fun m => decide (t ≤ Tbl.getD c.barrier m 0)

/-- The barrier messages of this module's running step as they stand: to every other member; to the parent, or down from the root, once
every child has reported. -/
def State.barrierFrames (s : State) (g : Geo) (c : Coll) (t : Nat) : List Frame :=
  if g.e.tree then
    if g.kidsAt c t = false then []
    else if g.root then g.e.list.map fun m => s.collFrame g 9 m t 0 []
    else [s.collFrame g 7 g.e.parent t 0 []]
  else g.others.map fun m => s.collFrame g 7 m t 0 []

/-- Send frames of a collective. -/
def State.collSendAll (s : State) (num : Nat) (fs : List Frame) : State := fs.foldl (fun (t : State) f => t.collSend num f) s

/-- A BARRIER frame, or a RESULT frame without parts from the parent: the highest step of each sender is recorded, and what waited for it
goes on. -/
def State.barrierIn (s : State) (num : Nat) (g : Geo) (c : Coll) (f : Frame) : State :=
  let m := f.src.toNat
  let u := frameStep f
  let down := decide (f.typ = 9)
  let ok := if down then g.e.tree && !g.root && decide (m = g.e.parent) else decide (m ∈ g.others)
  if ok = false ∨ u ≤ Tbl.getD c.barrier m 0 then s
  else
    let c1 := { c with barrier := Tbl.put c.barrier m u }
    let s1 := s.putColl num c1
    if down then s1.collSendAll num (g.e.list.map fun k => s.collFrame g 9 k u 0 [])
    else
      match c.run with
      | some r => if g.e.tree && !g.kidsAt c r.step && g.kidsAt c1 r.step then s1.collSendAll num (s.barrierFrames g c1 r.step) else s1
      | none => s1

/-! ## Frames as they arrive -/

/-- A BARRIER, CONTRIB or RESULT frame for this module (R241, R244, R353): a NAK code of Table 12.7 where it is refused. -/
def State.collIn (s : State) (f : Frame) : Go (Option Nat) :=
  let num := frameArg f 8 6
  match s.coll num with
  | none => .ok (some 8) s
  | some c =>
    if cGroup c.desc ≠ frameArg f 0 8 ∨ (s.ctx c.ctx).any (fun r => r.lost) then .ok (some 8) s
    else
      match s.geo c.desc with
      | none => .ok (some 8) s
      | some g =>
        if cKind c.desc = 3 then (if f.typ = 8 ∨ f.payload ≠ [] then .ok (some 1) s else .ok none (s.barrierIn num g c f))
        else if f.typ = 8 then s.contribIn num g c f
        else if f.typ = 9 then s.resultIn num g c f
        else .ok none s

/-- A contribution of this module to itself; one not accepted yet is kept to be sent again (R241). -/
def State.selfContrib (s : State) (num : Nat) (fs : List Frame) : Go Unit :=
  fs.foldl (fun (g : Go Unit) f => g.bind fun _ t =>
    (t.collIn f).bind fun r t1 =>
      match r, t1.coll num with
      | some _, some c => .ok () (t1.putColl num { c with resend := c.resend ++ [f] })
      | _, _ => .ok () t1) (.ok () s)

/-! ## COLL_OPEN and COLL_CLOSE (R235) -/

/-- The checks of COLL_OPEN that the state decides. -/
def State.openOk (s : State) (d : BitVec 512) : Bool :=
  descOk d && (s.coll (cNum d)).isNone &&
  (match s.geo d with
   | some g => decide (g.e.rank < g.e.n) && (g.e.tree || decide (g.e.n ≤ 64))
   | none => false)

/-- COLL_OPEN (R235). -/
def execCollOpen (r : CmdRef) (s : State) : Host.Outcome State Fault Refusal :=
  .next (
    match s.started r 0x20 with
    | none => s
    | some c =>
      Go.forCmd r (fun (bs : List (BitVec 8)) (t : State) =>
        let d : BitVec 512 := BitVec.ofNat 512 (leVal bs)
        match t.openOk d, t.geo d with
        | true, some g =>
          let num := cNum d
          let ws := if cReduces d then [(g.slotVa 0, 0, leBytes 64 0), (g.slotVa 1, 0, leBytes 64 0)] else []
          Go.forCmd r (fun _ (u : State) =>
            let u1 := c.objs.foldl (fun (x : State) o => x.addRef o) (u.boardDone (.cmd r))
            let u2 := (List.range 7).foldl (fun (x : State) i => x.setReg (regRdgLdgCount num i) 0) (u1.setReg (regRdgLdgStep num) 0)
            (u2.putColl num ⟨d, r.ctx, c.objs, 0, none, CollSlot.empty, CollSlot.empty, none, [], [], [], [], [], [], []⟩).finish r 0)
            (t.vWrites (.cmd r) r.ctx ws)
        | _, _ => (t.boardDone (.cmd r)).finish r stDescInvalid)
        (s.vKeep (.cmd r) r.ctx (plainReq (some r.ctx)) (cmdFld c 128 57) 64))

/-- COLL_CLOSE (R235, R329). -/
def execCollClose (r : CmdRef) (s : State) : Host.Outcome State Fault Refusal :=
  .next (
    match s.started r 0x22 with
    | none => s
    | some c =>
      let num := cmdFld c 128 6
      match s.coll num with
      | none => s.finish r stDescInvalid
      | some k =>
        if k.ctx ≠ r.ctx then s.finish r stDescInvalid
        else if k.run.isSome then s
        else (({ s with eng := { s.eng with colls := Tbl.del s.eng.colls num } }).unrefs k.objs).finish r 0)

/-! ## COLL_RUN (R235, R236, R243, R244, R353) -/

/-- A COLL_RUN of step `t` with nothing settled. -/
def CollRun.begin (r : CmdRef) (t n : Nat) : CollRun := ⟨r, t, [], n, 0, false, [0, 0, 0, 0, 0], none, []⟩

/-- A BARRIER of step `t` begins for command `r` (R353). -/
def State.barrierStart (s : State) (num : Nat) (g : Geo) (c : Coll) (r : CmdRef) (t : Nat) : State :=
  let c1 := { c with run := some (CollRun.begin r t g.e.n), last := t }
  (s.putColl num c1).collSendAll num (s.barrierFrames g c1 t)

/-- An ALL_GATHER begins (R244): the own shard enters DST and goes to every other member. -/
def State.gatherStart (s : State) (num : Nat) (g : Geo) (c : Coll) (r : CmdRef) (t : Nat) : Go Unit :=
  let n := g.shard g.e.rank
  let run := (CollRun.begin r t g.e.n).add g.node (List.range (partsIn n))
  (s.vKeep (.coll num) c.ctx (engReq c.ctx) (cSrc g.d) (n * memBits (cIfmt g.d) / 8)).bind fun bs s1 =>
    (s1.vWrites (.coll num) c.ctx [(g.dstAt g.node, 0, bs)]).bind fun _ s2 =>
      .ok () (((s2.boardDone (.coll num)).putColl num { c with run := some run, last := t }).collSendAll num
        (g.others.flatMap fun m => s.partFrames g 9 m t bs))

/-- A reduction begins (R233, R236): every element is converted, and each shard goes to its holder; under TREE all of it stays with this module's
own holder. -/
def State.reduceStart (s : State) (num : Nat) (g : Geo) (c : Coll) (r : CmdRef) (t : Nat) : Go Unit :=
  let n := cCount g.d
  let w := memBits (cIfmt g.d)
  (s.vKeep (.coll num) c.ctx (engReq c.ctx) (cSrc g.d) (n * w / 8)).bind fun bs s1 =>
    let xs := (codesOf w n bs).map (toWire g.d)
    let u := s1.collUnit c.ctx
    let cut := (xs.filter fun x => x.2.2).length
    let run := { CollRun.begin r t g.e.n with counts := [0, 0, 0, cut, 0] }
    let bytesOf := fun (k : Nat) => wireBytes (cWw g.d) (((xs.drop (g.start k)).take (g.shard k)).map (·.1))
    let mine := if g.e.tree then wireBytes (cWw g.d) (xs.map (·.1)) else bytesOf g.e.rank
    let s2 := s1.putColl num { c with run := some run, last := t }
    (s2.selfContrib num (s.partFrames g 8 g.node t mine)).bind fun _ s3 =>
      let s4 := (s3.check detCollBound u (xs.any fun x => x.2.1)).2
      let s5 := (s4.check detCollTrunc u (decide (cut ≠ 0))).2
      let out := if g.e.tree then [] else g.others.flatMap fun m => s.partFrames g 8 m t (bytesOf (g.rankOf m))
      .ok () ((s5.boardDone (.coll num)).collSendAll num out)

/-- A state to which a COLL_RUN that waits goes back: what it asked of other modules stays asked, and its turns stay taken (log 3). -/
def State.keepAsked (s t : State) : State :=
  { s with
    ridge := { s.ridge with reqs := t.ridge.reqs, tag := t.ridge.tag, held := t.ridge.held, ports := t.ridge.ports }
    fresh := t.fresh
    out := t.out }.keepTurns t

/-- COLL_RUN (R235, R236, R244, R353): at most one runs on a collective; another waits for it. -/
def execCollRun (r : CmdRef) (s : State) : Host.Outcome State Fault Refusal :=
  .next (
    match s.started r 0x21 with
    | none => s
    | some c =>
      let num := cmdFld c 128 6
      let t := cmdFld c 192 32
      match s.coll num with
      | none => s.finish r stDescInvalid
      | some k =>
        if k.run.any (fun x => x.r = r) then s
        else if k.ctx ≠ r.ctx ∨ t = 0 ∨ t ≤ k.last then s.finish r stDescInvalid
        else if k.run.isSome then s
        else
          match s.geo k.desc with
          | none => s.finish r stDescInvalid
          | some g =>
            if cKind k.desc = 3 then s.barrierStart num g k r t
            else
              match (if cKind k.desc = 2 then s.gatherStart num g k r t else s.reduceStart num g k r t) with
              | .ok _ u => u
              | .stall u => s.keepAsked u
              | .lose code va u => u.loseCmd r code va)

/-- Whether every frame of a step that carries a contribution, or under ALL_GATHER the own shard, is accepted: none is to be sent again, and none
waits to leave (R243, R244). -/
def State.sentAll (s : State) (c : Coll) (t : Nat) : Bool :=
  let mine := fun (f : Frame) => decide (frameStep f = t) && decide (f.typ = if cKind c.desc = 2 then 9 else 8)
  !c.resend.any mine &&
  !(s.ridge.held.any fun h => h.own && c.sent.any fun f => mine f && decide (f.tag = h.f.tag) && decide (h.f.typ = f.typ))

/-- Whether a part of a reduction's result is not settled for the step (R243). -/
def Geo.lacks (g : Geo) (r : CollRun) : Bool :=
  let no := fun (m n : Nat) => !((List.range (partsIn n)).all fun p => p ∈ r.has m)
  cReduces g.d &&
    (if g.e.tree then no (if g.root then g.node else g.e.parent) (cCount g.d)
     else if cKind g.d = 1 then no g.node (g.shard g.e.rank)
     else g.e.list.any fun m => no m (g.shard (g.rankOf m)))

/-- Whether any part of DST was not written for the step (R243, R244). -/
def Geo.missing (g : Geo) (r : CollRun) : Bool := r.lost || g.lacks r

/-- Whether a COLL_RUN's parts are settled (R243, R244). Without a deadline a holder keeps a result until this module's next contribution, so that
every part comes. Else a part that a holder elsewhere no longer holds is known by nothing that arrives: the command's completion stands for
it (log 25). -/
def Geo.settled (g : Geo) (c : Coll) (r : CollRun) (op : Nat) : Bool :=
  match cKind g.d with
  | 3 => g.barrierDone c r.step
  | 2 => g.others.all fun m => (List.range (partsIn (g.shard (g.rankOf m)))).all fun p => p ∈ r.has m
  | _ =>
    if g.exact then !g.lacks r
    else if g.e.tree ∧ g.root = false then true
    else
      let sl := if r.step % 2 = 0 then c.slot0 else c.slot1
      decide (g.held = 0) || (Tbl.find r.parts g.node).isSome || (decide (r.step < op) && !(decide (sl.step = r.step) && decide (sl.state = 2)))

/-- COLL_RUN_COMPLETE (R243, R244, R353): additions to statistics, the census word, and the end of the command. -/
def execCollRunComplete (r : CmdRef) (s : State) : Host.Outcome State Fault Refusal :=
  .next (
    match s.started r 0x21 with
    | none => s
    | some cmd =>
      let num := cmdFld cmd 128 6
      match s.coll num with
      | none => s
      | some c =>
        match c.run, s.geo c.desc with
        | some run, some g =>
          if run.r ≠ r ∨ (cKind g.d ≠ 3 ∧ s.sentAll c run.step = false) ∨ g.settled c run (s.fld (regRdgLdgStep num) 0 32) = false ∨
              s.boardBusy (.coll num) then s
          else if cKind g.d = 3 then (s.putColl num { c with run := none }).finish r 0
          else
            let miss := g.missing run
            let n := fun (i : Nat) => run.counts.getD i 0
            let add : StatAdd := ⟨n 0, n 1, n 2, n 3, 0, n 4, run.maxexp⟩
            let incl := if miss then 2 ^ 32 - 1 else if cKind g.d = 2 then g.e.n else run.incl
            let go :=
              (if add = StatAdd.none then Go.ok () s else s.statAdd (.cmd r) r.ctx (cTid g.d) add).bind fun _ s1 =>
                let s1 := s1.putColl num { c with run := some { run with counts := [0, 0, 0, 0, 0], maxexp := none } }
                match s1.vWrite (.cmd r) r.ctx (engReq r.ctx) (cCensus g.d) (leBytes 8 (incl + run.carried * 2 ^ 32)) with
                | .ok _ s2 => Go.ok () (s2.putColl num { c with run := none })
                | x => x
            Go.forCmd r (fun _ (t : State) => (if miss then t.bumpFld (regRdgLdgCount num 6) 0 64 1 else t).finish r 0) go
        | _, _ => s)

/-! ## Deadlines and sending again (R240, R241, R244, R353) -/

/-- COLL_DEADLINE (R240): the open step of a holder closes where its DEADLINE can have passed. -/
def execCollDeadline (num : Nat) (shard : Nat) (s : State) : Host.Outcome State Fault Refusal :=
  .next (
    match s.coll num with
    | none => s
    | some c =>
      match c.since, s.geo c.desc with
      | some t0, some g =>
        let us := if cDeadline g.d = 0 then 5000 else cDeadline g.d
        if shard ≠ (if g.e.tree then 0 else g.e.rank) ∨ cDeadline g.d = 2 ^ 32 - 1 ∨ (s.ms + 1 - t0) * 1000 ≤ us ∨
            (s.ctx c.ctx).any (fun r => r.lost) then s
        else
          match (s.holdLoad num g c).bind fun h s1 => s1.holdStore num g (Hold.close s1 g 2 h) with
          | .ok _ t => t
          | .stall t => t
          | .lose code va t => t.lose c.ctx code (BitVec.ofNat 64 va) (lostAt 3 0) none
      | _, _ => s)

/-- CONTRIB_RESEND (R241, R244, R345): what was not accepted is sent again. -/
def execContribResend (num : Nat) (s : State) : Host.Outcome State Fault Refusal :=
  .next (
    match s.coll num with
    | none => s
    | some c =>
      let own := c.resend.filter fun f => f.dst.toNat = s.node
      let far := c.resend.filter fun f => f.dst.toNat ≠ s.node
      match (s.putColl num { c with resend := [] }).selfContrib num own with
      | .ok _ t => t.collSendAll num far
      | .stall t => s.keepAsked t
      | .lose code va t => t.lose c.ctx code (BitVec.ofNat 64 va) (lostAt 3 0) none)

/-- BARRIER_RESEND (R353): the latest message of a running BARRIER goes again. -/
def execBarrierResend (num : Nat) (s : State) : Host.Outcome State Fault Refusal :=
  .next (
    match s.coll num with
    | none => s
    | some c =>
      match c.run, s.geo c.desc with
      | some run, some g => if cKind g.d = 3 then s.collSendAll num (s.barrierFrames g c run.step) else s
      | _, _ => s)

end Sys2Proof.Machine
end

