-- ==== Sys2Proof/Machine/Sched.lean ====
section
/-!
DEFINITION. The step-schedule engine (08 R225 to R231), and REMOTE_SIGNAL (12 R352).
-/
namespace Sys2Proof.Machine

/-! ## Descriptor and state record (Tables 8.1 and 8.2) -/

def sState (d : BitVec 512) : Nat := cFld d 0 57
def sFcmd (d : BitVec 512) : Nat := cFld d 64 57
def sBcmd (d : BitVec 512) : Nat := cFld d 128 57
def sFin (d : BitVec 512) : Nat := cFld d 192 57
def sBin (d : BitVec 512) : Nat := cFld d 256 57
def sP (d : BitVec 512) : Nat := cFld d 320 8
def sS (d : BitVec 512) : Nat := cFld d 328 8
def sB (d : BitVec 512) : Nat := cFld d 336 12
def sQueue (d : BitVec 512) : Nat := cFld d 348 4
def sSbar (d : BitVec 512) : Nat := cFld d 352 6
def sSbarEn (d : BitVec 512) : Bool := cFld d 358 1 = 1

/-- The checks of a state record (R225, R226). -/
def schedRecOk (rec : Nat) : Bool := decide (rec &&& (ones 83 13 ||| ones 128 384) = 0)

/-- The checks of a descriptor (R225, R226). -/
def schedOk (d : Nat) : Bool :=
  let v : BitVec 512 := BitVec.ofNat 512 d
  decide (d &&& (ones 57 7 ||| ones 121 7 ||| ones 185 7 ||| ones 249 7 ||| ones 313 7 ||| ones 359 153) = 0) &&
  decide (sState v % 64 = 0) && decide (sFcmd v % 64 = 0) && decide (sBcmd v % 64 = 0) &&
  decide (1 ≤ sP v) && decide (sS v < sP v) && decide (1 ≤ sB v) &&
  (decide (sFin v = 0) == decide (sS v = 0)) && (decide (sBin v = 0) == decide (sS v + 1 = sP v))

/-- The warm-up forwards (R228). -/
def SchedRun.warm (x : SchedRun) : Nat := min (sP x.desc - 1 - sS x.desc) (sB x.desc)

/-- The release at position `k` of R228: forward or backward, and its micro-batch. -/
def SchedRun.at (x : SchedRun) (k : Nat) : Bool × Nat :=
  let w := x.warm
  let b := sB x.desc
  if k < w then (true, k)
  else if k < w + 2 * (b - w) then
    let j := k - w
    if j % 2 = 0 then (true, w + j / 2) else (false, j / 2)
  else (false, k - w - 2 * (b - w) + (b - w))

/-- PHASE at the next release (R229, Table 8.2). -/
def SchedRun.phase (x : SchedRun) : Nat :=
  let k := x.nf + x.nb
  if k < x.warm then 1 else if k < x.warm + 2 * (sB x.desc - x.warm) then 2 else 3

/-- Bits [127:0] of the state record, with a phase and LASTSTEP. -/
def SchedRun.bits (x : SchedRun) (phase last : Nat) : Nat :=
  x.step + x.nf * 2 ^ 32 + x.nb * 2 ^ 44 + x.nfc * 2 ^ 56 + x.nbc * 2 ^ 68 + phase * 2 ^ 80 + last * 2 ^ 96

/-- Write a running step's record (R229). -/
def State.schedWrite (s : State) (x : SchedRun) (phase last : Nat) : Go Unit :=
  s.vWrite (.cmd x.r) x.r.ctx (engReq x.r.ctx) (sState x.desc) (leBytes 16 (x.bits phase last))

/-- Change the running SCHED_RUN of a command. -/
def State.putSched (s : State) (x : SchedRun) : State :=
  { s with eng := { s.eng with scheds := s.eng.scheds.map fun y => if y.r = x.r then x else y } }

/-- The running SCHED_RUN of a command. -/
def State.sched (s : State) (r : CmdRef) : Option SchedRun := s.eng.scheds.find? fun x => x.r = r

/-- A SCHED_RUN ends with a status. A barrier that still runs for it ends with it, and counts as not run: the step's next SCHED_RUN begins it
again (R227, R231). -/
def State.schedEnd (s : State) (r : CmdRef) (status : Nat) : State :=
  { s with eng := { s.eng with
    scheds := s.eng.scheds.filter fun y => y.r ≠ r
    colls := s.eng.colls.map fun (k : Nat × Coll) => (k.1, match k.2.run with
      | some x => if x.r = r then { k.2 with run := none, last := x.step - 1 } else k.2
      | none => k.2) } }.finish r status

/-- A schedule fails (R227, R230): PHASE = 5 is written, and the command completes. -/
def State.schedFail (s : State) (x : SchedRun) (status : Nat) : State :=
  Go.forCmd x.r (fun _ (t : State) => (t.boardDone (.cmd x.r)).schedEnd x.r status) (s.schedWrite x 5 x.last)

/-! ## SCHED_RUN (R226, R227, R231) -/

/-- The SCHED_RUNs that run in a partition. -/
def State.schedsIn (s : State) (part : Nat) : Nat :=
  (s.eng.scheds.filter fun x => (s.ctx x.r.ctx).any fun r => r.words.part = part).length

/-- The checks of R226 and R227 that the module's state decides. -/
def State.schedAllowed (s : State) (r : CmdRef) (d : BitVec 512) : Bool :=
  decide (sQueue d ≠ r.queue) && (s.queue r.ctx (sQueue d)).isSome &&
  (!sSbarEn d || (s.coll (sSbar d)).any fun c => decide (c.ctx = r.ctx) && decide (cKind c.desc = 3))

/-- SCHED_RUN acts on its state record (R231). -/
def State.schedBegin (s : State) (r : CmdRef) (t : Nat) (d : BitVec 512) (rec : Nat) : State :=
  let last := bitsOf rec 96 32
  let phase := bitsOf rec 80 3
  let same := decide (bitsOf rec 0 32 = t)
  let (rep, s1) := s.check detSchedRepeat 0 (decide (t ≤ last) || (same && decide (phase = 4)))
  if rep then (s1.boardDone (.cmd r)).finish r 0
  else
    let resume := same && decide (phase = 1 ∨ phase = 2 ∨ phase = 3 ∨ phase = 5)
    let nfc := if resume then bitsOf rec 56 12 else 0
    let nbc := if resume then bitsOf rec 68 12 else 0
    let x : SchedRun := ⟨r, d, t, last, nfc, nbc, nfc, nbc, [], !sSbarEn d || decide (0 < nfc + nbc), false⟩
    Go.forCmd r (fun _ (u : State) =>
      { u.boardDone (.cmd r) with eng := { (u.boardDone (.cmd r)).eng with scheds := u.eng.scheds ++ [x] } }) (s1.schedWrite x x.phase last)

/-- SCHED_RUN (R226, R227, R231): the descriptor is judged before the state record is read. Up to 16 run in a partition; another waits. -/
def execSchedRun (r : CmdRef) (s : State) : Host.Outcome State Fault Refusal :=
  .next (
    match s.started r 0x18, s.ctx r.ctx with
    | some c, some run =>
      let raw := c.raw.toNat
      let a := cmdFld c 128 57
      let t := cmdFld c 192 32
      if (s.sched r).isSome then s
      else if (raw >>> 128) * 2 ^ 128 &&& (ones 128 57 ||| ones 192 32) ≠ (raw >>> 128) * 2 ^ 128 ∨ a % 64 ≠ 0 ∨ t = 0 then
        s.finish r stDescInvalid
      else if 16 ≤ s.schedsIn run.words.part then s
      else
        Go.forCmd r (fun (ds : List (BitVec 8)) (u : State) =>
          let d := leVal ds
          let v : BitVec 512 := BitVec.ofNat 512 d
          if schedOk d && u.schedAllowed r v then
            Go.forCmd r (fun (rs : List (BitVec 8)) (w : State) =>
              if schedRecOk (leVal rs) then w.schedBegin r t v (leVal rs) else (w.boardDone (.cmd r)).finish r stDescInvalid)
              (u.vKeep (.cmd r) r.ctx (engReq r.ctx) (sState v) 64)
          else (u.boardDone (.cmd r)).finish r stDescInvalid)
          (s.vKeep (.cmd r) r.ctx (plainReq (some r.ctx)) a 64)
    | _, _ => s)

/-! ## Releases (R227, R228, R230) -/

/-- The barrier of SBAR at the step, before its first release (Table 8.1): the engine runs it as a COLL_RUN, waits for it, and takes it off. A
collective that has run the step already needs none. -/
def State.schedBarrier (s : State) (x : SchedRun) : State :=
  let num := sSbar x.desc
  match s.coll num with
  | none => s
  | some c =>
    match c.run, s.geo c.desc with
    | none, some g =>
      if x.step ≤ c.last then s.putSched { x with barred := true } else s.barrierStart num g c x.r x.step
    | some run, some g =>
      if run.r = x.r ∧ g.barrierDone c run.step then (s.putColl num { c with run := none }).putSched { x with barred := true } else s
    | _, _ => s

/-- Whether the forward of a micro-batch has completed (R228): counted, or released and complete. -/
def SchedRun.fwdDone (x : SchedRun) (i : Nat) : Bool :=
  decide (i < x.nfc) || x.rel.any fun k => k.fwd && decide (k.i = i) && k.done

/-- A released command joins its queue (R228, R322): the template's bits with the micro-batch and the step, submitted by the context as any command,
without a sequence number. -/
def State.releaseTo (s : State) (r' : CmdRef) (run : CtxRun) (raw : BitVec 512) : Go State :=
  let c : Cmd := ⟨none, raw, none, none, [], .submitted, [], 0⟩
  (s.syncBlock r' raw.toNat).bind fun sync t =>
    t.submit r' run (match sync with | some w => withSync c w | none => c) sync

/-- Release the next command (R228): its template is read, it joins QUEUE, and the record is written. -/
def State.release (s : State) (x : SchedRun) (run : CtxRun) (q : Queue) : State :=
  let (fwd, i) := x.at (x.nf + x.nb)
  let r' : CmdRef := ⟨x.r.ctx, sQueue x.desc, q.next⟩
  let y : SchedRun := { x with
    nf := if fwd then x.nf + 1 else x.nf, nb := if fwd then x.nb else x.nb + 1, rel := x.rel ++ [Released.mk r' fwd i false] }
  let go :=
    (s.vKeep (.cmd x.r) x.r.ctx (engReq x.r.ctx) (if fwd then sFcmd x.desc else sBcmd x.desc) 64).bind fun bs s1 =>
    (s1.releaseTo r' run (BitVec.ofNat 512 (setBits (setBits (leVal bs) 448 32 i) 480 32 x.step))).bind fun u _ =>
    (u.schedWrite y y.phase y.last).bind fun _ u1 => .ok () ((u1.boardDone (.cmd x.r)).putSched y)
  match go with
  | .ok _ t => t
  | .stall t => { s with
      out := t.out
      fresh := t.fresh
      ridge := { t.ridge with answers := s.ridge.answers ++ (t.ridge.answers.filter fun a => a ∉ s.ridge.answers) } }.keepTurns t
  | .lose code va t => t.loseCmd x.r code va

/-- SCHED_RELEASE (R227, R228, R230): the next release, once its conditions hold. -/
def execSchedRelease (r : CmdRef) (s : State) : Host.Outcome State Fault Refusal :=
  .next (
    match s.sched r, s.ctx r.ctx with
    | some x, some run =>
      match s.queue r.ctx (sQueue x.desc) with
      | none => s.schedFail x stDescInvalid
      | some q =>
        if x.closed ∨ q.closing then s.schedFail x stDescInvalid
        else if x.barred = false then s.schedBarrier x
        else if 2 * sB x.desc ≤ x.nf + x.nb ∨ 64 ≤ q.cmds.length ∨ run.lost then s
        else
          let (fwd, i) := x.at (x.nf + x.nb)
          let ev := if fwd then sFin x.desc else sBin x.desc
          let need := (x.step - 1) * sB x.desc + i + 1
          if fwd = false ∧ x.fwdDone i = false then s
          else if ev = 0 then s.release x run q
          else
            Go.forCmd r (fun (v : BitVec 64) t =>
              if v.getLsbD 63 then t.schedFail x stFencePoisoned
              else if need ≤ v.toNat then t.release x run q else t) (s.evRead (.cmd r) r.ctx ev)
    | _, _ => s)

/-! ## Counting completions (R229) -/

/-- Count the first `k` released commands. -/
def SchedRun.count : Nat → SchedRun → SchedRun
  | 0, x => x
  | k + 1, x =>
    match x.rel with
    | [] => x
    | a :: rest => SchedRun.count k { x with
        rel := rest, nfc := if a.fwd then x.nfc + 1 else x.nfc, nbc := if a.fwd then x.nbc else x.nbc + 1 }

/-- SCHED_COMPLETION_COUNT (R229): released commands 0 to `i` of those not counted yet have completed, and count in their order; with the last the
step ends. A step whose QUEUE was destroyed fails instead (R227). -/
def execSchedCompletionCount (r : CmdRef) (i : Nat) (s : State) : Host.Outcome State Fault Refusal :=
  .next (
    match s.sched r with
    | none => s
    | some x =>
      if x.closed then s.schedFail x stDescInvalid
      else if x.rel.length ≤ i ∨ (x.rel.take (i + 1)).all (·.done) = false then s
      else
        let y := SchedRun.count (i + 1) x
        let b := sB x.desc
        if y.nfc = b ∧ y.nbc = b then
          Go.forCmd r (fun _ (t : State) => (t.boardDone (.cmd r)).schedEnd r 0) (s.schedWrite y 4 x.step)
        else Go.forCmd r (fun _ (t : State) => t.putSched y) (s.schedWrite y y.phase y.last))

/-! ## REMOTE_SIGNAL (R345, R352) -/

/-- The SIGNAL frame of a REMOTE_SIGNAL. -/
def State.signalOf (s : State) (c : Cmd) (tag : BitVec 16) : Frame :=
  s.mkFrame 5 (cmdFld c 128 20) tag (cmdFld c 148 12 + cmdFld c 192 63 * 2 ^ 64) []

/-- A REMOTE_SIGNAL to this module itself: its frame is delivered here (R343, R351). -/
def State.signalSelf (s : State) (r : CmdRef) (f : Frame) : State :=
  if s.slotRefuses (frameArg f 0 12) s.node then (s.note detRdgNakSent 0xFFFF).finish r stDescInvalid
  else
    match s.slotSignal (.cmd r) f with
    | .done _ u => u.finish r 0
    | .poison _ u => (u.note detRdgNakSent 0xFFFF).finish r stDescInvalid
    | .wait u => u

/-- REMOTE_SIGNAL (R343, R345, R352): its frame leaves, and the command waits for the answer; a frame that finds no route completes it with
DESCRIPTOR_INVALID, and one to this module is delivered here. -/
def execRemoteSignal (r : CmdRef) (s : State) : Host.Outcome State Fault Refusal :=
  .next (
    match s.started r 0x28 with
    | none => s
    | some c =>
      if s.ridge.sigs.any (fun q => q.r = r) then s
      else
        let (t, s1) := s.newTag
        let f := s1.signalOf c t
        if f.dst.toNat = s.node then s1.signalSelf r f
        else
        match s1.send true f with
        | (some _, s2) => (s2.note detRdgNakSent 0xFFFF).finish r stDescInvalid
        | (none, s2) => { s2 with ridge := { s2.ridge with sigs := s2.ridge.sigs ++ [SigReq.mk r t f s.ms false] } })

/-- REMOTE_SIGNAL_RESEND (R352): the frame goes again; after RSP_TIMEOUT the command completes with DESCRIPTOR_INVALID. -/
def execRemoteSignalResend (r : CmdRef) (s : State) : Host.Outcome State Fault Refusal :=
  .next (
    match s.ridge.sigs.find? (fun q => decide (q.r = r) && !q.poison) with
    | none => s
    | some q =>
      let drop := fun (t : State) => ({ t with ridge := { t.ridge with sigs := t.ridge.sigs.filter fun x => x.tag ≠ q.tag } } : State).unfence q.tag
      if s.fld regRdgCfg 0 16 < s.ms + 1 - q.since then ((drop s).note detRdgTimeout 0xFFFF).finish r stDescInvalid
      else
        match s.send true q.f with
        | (some _, s1) => ((drop s1).note detRdgNakSent 0xFFFF).finish r stDescInvalid
        | (none, s1) => s1)

end Sys2Proof.Machine
end

