-- ==== Sys2Proof/Machine/Checkpoint.lean ====
section
/-!
DEFINITION. Checkpoint and restore (13 R361 to R377, 14 R393): the set, page protection with its two first-write paths, the stream to the
store, commit and failure, restore, and the queue-pair registers.
-/
namespace Sys2Proof.Machine

/-! ## Channel pages (R250, R362) -/

/-- The device line of a region that lies at local line `l` of channel `ch`, by the inverse of R250. -/
def State.lineOfRegion (s : State) (ch l g : Nat) : Option Nat :=
  let n := 8 * s.fld (regCisRgnSize g) 40 10
  let lr := l - (if g = 0 then s.fld regCisCfg 10 15 * 512 else 0)
  let q := lr / 8
  let r := (bitsOf q 0 12 ^^^ bitsOf q 12 12 ^^^ bitsOf q 24 12) % n
  ((List.range n).find? fun i => decide (field (s.mapEntry g i) 0 9 = ch) && decide (field (s.mapEntry g i) 9 3 = lr % 8)).map fun i =>
    s.fld (regCisRgnBase g) 0 40 / 128 + q * n + (i + n - r) % n

/-- The device line at local line `l` of channel `ch`: the one that R250 places there. -/
def State.lineAt (s : State) (ch l : Nat) : Option Nat :=
  ((List.range 9).filterMap fun g => s.lineOfRegion ch l g).find? fun line => decide (s.home (128 * line) = some (ch, l))

/-- The device lines of a channel page, with their place in it. -/
def State.pageLines (s : State) (ch page : Nat) : List (Nat × Nat) :=
  (List.range 512).filterMap fun i => (s.lineAt ch (512 * page + i)).map fun l => (i, l)

/-- Set the page-state entry of a channel page (R362). -/
def State.setPage (s : State) (ch page : Nat) (e : PageEntry) : State :=
  let c := s.cistern ch
  s.setCistern ch { c with pages := Tbl.set ⟨0, 0⟩ c.pages page e }

/-- The page-state entry of a channel page. -/
def State.pageAt (s : State) (ch page : Nat) : PageEntry := Tbl.getD (s.cistern ch).pages page ⟨0, 0⟩

/-- Whether a line stands poisoned, in its cistern or beneath it (R271). -/
def State.linePoison (s : State) (line : Nat) : Bool :=
  match s.lineHome line with
  | some (n, _, _) => match (s.cistern n).lineOf line with
    | some l => l.poison || (List.range 16).any fun w => s.wordPoison line w && !(List.range 8).all fun i => (Tbl.find l.bytes (8 * w + i)).isSome
    | none => s.hbmPoison line
  | none => false

/-! ## The set (R361, R363) -/

/-- A set entry as read, or none where it is not valid (R361, R363). -/
def State.setEntry (s : State) (run : CtxRun) (v : Nat) : Option SetEnt :=
  let off := bitsOf v 32 32
  let n := bitsOf v 64 32
  match run.handleObj (bitsOf v 0 32) with
  | .inl o =>
    match Tbl.find s.hif.objs o with
    | some ob =>
      let pages := ob.extents.flatMap fun e => (List.range e.2).map fun i => (e.1 + i) * 65536
      if v / 2 ^ 96 = 0 ∧ 1 ≤ n ∧ off + n ≤ pages.length then some ⟨o, off, (pages.drop off).take n⟩ else none
    | none => none
  | .inr _ => none

/-- The entries of a set as read. -/
def State.setOf (s : State) (run : CtxRun) : Nat → List (BitVec 8) → Option (List SetEnt)
  | 0, _ => some []
  | n + 1, bs =>
    match s.setEntry run (leVal (bs.take 16)) with
    | some e => (s.setOf run n (bs.drop 16)).map fun es => e :: es
    | none => none

/-- The pages of a set in image order: entry, page in its range, DPA. -/
def setPages (set : List SetEnt) : List (Nat × Nat × Nat) :=
  set.zipIdx.flatMap fun e => e.1.pages.zipIdx.map fun p => (e.2, p.2, p.1)

/-- The places of a device line in a set: page number in image order, entry, line in the entry. -/
def setPlaces (set : List SetEnt) (line : Nat) : List (Nat × Nat × Nat) :=
  ((setPages set).zipIdx.filter fun p => decide (p.1.2.2 / 128 ≤ line) && decide (line < p.1.2.2 / 128 + 512)).map fun p =>
    (p.2, p.1.1, 512 * p.1.2.1 + (line - p.1.2.2 / 128))

/-- The channel pages that hold a set line. -/
def State.markedPages (s : State) (set : List SetEnt) : List (Nat × Nat) :=
  ((setPages set).flatMap fun p => (List.range 512).filterMap fun i => (s.lineHome (p.2.2 / 128 + i)).map fun h => (h.1, h.2.2)).eraseDups

/-- The number of an image's data bytes. -/
def Ckpt.bytes (k : Ckpt) : Nat := 65536 * (setPages k.set).length

/-! ## CKP_BEGIN (R363, R376, R393) -/

/-- The enabled queue pairs. -/
def State.enabledQps (s : State) : List Nat := (List.range 16).filter fun q => s.fld (regCkpQpCtrl q) 0 1 = 1

/-- Whether a partition's engines let the instant be taken: none lies inside a layer (R216). -/
def State.instantOk (s : State) (part : Nat) : Bool :=
  !(s.eng.spurs.any fun e => (s.ctx e.2.r.ctx).any fun r => r.words.part = part)

/-- The collective record of an open collective (Table 13.5). -/
def State.collRecord (s : State) (num : Nat) : List (BitVec 64) :=
  let st := s.reg (regRdgLdgStep num)
  [BitVec.ofNat 64 (num + field st 0 32 * 2 ^ 32), BitVec.ofNat 64 (field st 32 32)] ++
    ((List.range 7).map fun i => s.reg (regRdgLdgCount num i)) ++ List.replicate 7 0

/-- The instant (R363 steps 2 to 4): pages are protected, the collectives are read, and the command completes. -/
def State.ckptInstant (s : State) (r : CmdRef) (run : CtxRun) (c : Cmd) (set : List SetEnt) : State :=
  let objs := (set.map (·.obj)).eraseDups
  let s1 := objs.foldl (fun (t : State) o => t.addRef o) s
  let s2 := (s1.markedPages set).foldl (fun (t : State) p => t.setPage p.1 p.2 ⟨1, 0⟩) s1
  let colls := (s2.eng.colls.filter fun e => e.2.ctx = r.ctx).map fun e => s2.collRecord e.1
  let k : Ckpt := ⟨r.ctx, run.words.part, set, BitVec.ofNat 64 (cmdFld c 256 64), BitVec.ofNat 32 (cmdFld c 320 32),
    BitVec.ofNat 64 (cmdFld c 384 57), BitVec.ofNat 64 (cmdFld c 448 64), colls, 0, [], [], false, [], s.ms⟩
  let s3 := { s2 with eng := { s2.eng with ckpt := some k } }
  let st := setBits (setBits (setBits (s3.reg regCkpStatus).toNat 0 3 2) 4 12 r.ctx) 16 4 run.words.part
  let s4 := ((s3.setReg regCkpStatus (BitVec.ofNat 64 st)).setReg regCkpSeq k.seq).setReg regCkpProgress 0
  (s4.setReg regCkpStaged 0).finish r 0

/-- CKP_BEGIN (R363, R376, R393): it waits for a running checkpoint, then for its instant. -/
def execCkpBegin (r : CmdRef) (s : State) : Host.Outcome State Fault Refusal :=
  .next (
    match s.started r 0x30, s.ctx r.ctx with
    | some c, some run =>
      let n := cmdFld c 192 12 + 1
      let bad := decide (cmdFld c 128 57 % 16 ≠ 0) || decide (cmdFld c 448 64 % 65536 ≠ 0) || decide (cmdFld c 384 57 % 8 ≠ 0) ||
        s.enabledQps.isEmpty || (run.words.conf && !((run.keySlot.bind fun k => Tbl.find s.trust.slots k).any fun k => k.migration.isSome))
      if bad then s.finish r stDescInvalid
      else if s.eng.ckpt.isSome then s
      else
        Go.forCmd r (fun (bs : List (BitVec 8)) (t : State) =>
          let t := t.boardDone (.cmd r)
          match t.setOf run n bs with
          | none => t.finish r stDescInvalid
          | some set => if t.instantOk run.words.part then t.ckptInstant r run c set else t.putCmd r { c with progress := 1 })
          (s.vKeep (.cmd r) r.ctx (plainReq (some r.ctx)) (cmdFld c 128 57) (16 * n))
    | _, _ => s)

/-- CKP_ABORT (R372, R376). -/
def execCkpAbort (r : CmdRef) (s : State) : Host.Outcome State Fault Refusal :=
  .next (if (s.started r 0x31).isSome then (s.ckptFailOf r.ctx 1).finish r 0 else s)

/-! ## First writes (R364 to R366) -/

/-- The staging slots in use. -/
def State.slotsUsed (s : State) : List Nat :=
  s.mem.cis.flatMap fun e => (e.2.pages.filter fun p => p.2.state = 2).map fun p => p.2.slot

/-- The lowest free staging slot of the checkpointing context's partition (R365). -/
def State.freeStage (s : State) (part : Nat) : Option Nat :=
  match s.part part with
  | some p =>
    let used := s.slotsUsed
    (List.range (used.length + 1)).find? fun k => decide (k < 1024 * p.stage) && !used.contains k
  | none => none

/-- The DPA of a staging slot. -/
def State.stageDpa (s : State) (part slot : Nat) : Nat := s.stageBase part + 65536 * slot

/-- Copy a line as it stands into a line of a staging slot, with its poison and its tag (R365, R387): the HBM beneath the cistern's own bytes is read
in class 3 where it is needed, and the copy is written in class 3 (Table 9.4). -/
def State.stageLine (s : State) (line dst : Nat) : State :=
  match s.lineHome line with
  | none => s
  | some (n, _, _) =>
    let (ue, s1) := if s.hits line (List.range 128) then (false, s.sramJudge n line) else (s.queueChan n 3 line false).hbmJudge n line .ok
    let tag := s1.lineTag line
    let hbm := s1.hbmWrite dst (bytesAt 0 (s1.devBytes (128 * line) 128)) tag
    let s2 := { s1 with mem := { s1.mem with
      hbm := hbm, poison := setPoison 16 s1.mem.poison (16 * dst) (s1.linePoison line || ue), tags := Tbl.set 0 s1.mem.tags dst tag } }
    match s2.lineHome dst with
    | some (m, _, _) =>
      let c := s2.cistern m
      (s2.setCistern m { c with lines := dropLine c.lines dst, dead := c.dead.filter (· ≠ dst) }).queueChan m 3 dst true
    | none => s2

/-- CKP_PAGE_STAGE_DONE (R365): the page is copied to a free slot, and the writes that waited for it may proceed. -/
def execCkpPageStageDone (chan page : Nat) (s : State) : Host.Outcome State Fault Refusal :=
  .next (
    match s.eng.ckpt with
    | none => s
    | some k =>
      match s.freeStage k.part with
      | none => s
      | some slot =>
        if (s.pageAt chan page).state ≠ 1 then s
        else if s.domState (domOfChan chan) ≠ 0 ∨ s.domState (domOfStack chan) ≠ 0 then
          s.stir .noone (s.reachDoms [domOfChan chan, domOfStack chan])
        else
          let base := s.stageDpa k.part slot / 128
          let s1 := (s.pageLines chan page).foldl (fun (t : State) p => t.stageLine p.2 (base + p.1)) s
          let s2 := (s1.setPage chan page ⟨2, slot⟩).setReg regCkpStaged (BitVec.ofNat 64 (s1.slotsUsed.length + 1))
          (s2.check detCkpStage chan true).2.wipe)

/-! ## Lines for the image (R368, R369, R393) -/

/-- A line as it stood at the instant, and whether it is poisoned or refused by its tag (R388): the live line, or its copy in the staging slot; none
where its page is COPIED. The engine reads either in class 3 (R368). -/
def State.instantLine (s : State) (k : Ckpt) (line : Nat) : Option (List (BitVec 8) × Bool) × State :=
  match s.home (128 * line) with
  | none => (some (s.devBytes (128 * line) 128, false), s)
  | some (ch, l) =>
    let e := s.pageAt ch (l / 512)
    if e.state = 3 then (none, s)
    else
      let src := if e.state = 2 then s.stageDpa k.part e.slot / 128 + l % 512 else line
      let data := s.devBytes (128 * src) 128
      let r := s.cisRead ⟨some k.ctx, none, 0, none, true, 3⟩ src (List.range 128)
      let (lost, t) := r.st.reply src
      (some (data, r.poison || r.st.linePoison src || lost), t)

/-- The migration key under which a context's images are encrypted. -/
def State.imageKey (s : State) (ctx : Nat) : Option (BitVec 512) :=
  ((s.ctx ctx).bind fun r => r.keySlot.bind fun k => Tbl.find s.trust.slots k).bind fun k => k.migration

/-- 128 bytes of an image at an offset under a migration key (R393), through `f`, which encrypts or decrypts: AES-256-XTS over data units of 4 KiB,
the unit's number in the image being the tweak. -/
def imageLine (f : BitVec 512 → Nat → Nat → BitVec 128 → BitVec 128) (key : Option (BitVec 512)) (off : Nat) (bs : List (BitVec 8)) :
    List (BitVec 8) :=
  match key with
  | none => bs
  | some k => xtsBytes f k (off / 4096) 8 (off % 4096 / 16) bs

/-- Take lines (image offset, entry, line in the entry, device line) into an image: a poisoned line is zero and enters the poison list, once
(R369). The result gives the bytes by offset; it is none where the list would exceed 65,536 lines. -/
def State.takeLines : List (Nat × Nat × Nat × Nat) → State → Ckpt → List (Nat × List (BitVec 8)) →
    Option (List (Nat × List (BitVec 8)) × Ckpt) × State
  | [], s, k, acc => (some (acc, k), s)
  | (off, e, i, line) :: rest, s, k, acc =>
    let (r, s1) := s.instantLine k line
    match r with
    | none => State.takeLines rest s1 k acc
    | some (bs, bad) =>
      let listed := bad && !k.poison.contains (e, i)
      if listed ∧ 65536 ≤ k.poison.length then (none, s1)
      else
        let s2 := if listed then (s1.check detCkpPoisonLine (s1.chanOf (128 * line)) true).2 else s1
        let img := imageLine xtsEnc (s2.imageKey k.ctx) off (if bad then List.replicate 128 0 else bs)
        State.takeLines rest s2 { k with
          data := Memory.writes k.data off img, poison := if listed then k.poison ++ [(e, i)] else k.poison } (acc ++ [(off, img)])

/-- Runs of lines that follow each other in a chunk of the image. -/
def imageRuns : List (Nat × List (BitVec 8)) → List (Nat × List (BitVec 8))
  | [] => []
  | (a, b) :: t =>
    match imageRuns t with
    | (a2, bs) :: rest => if a2 = a + 128 ∧ a2 % 65536 ≠ 0 then (a, b ++ bs) :: rest else (a, b) :: (a2, bs) :: rest
    | [] => [(a, b)]

/-! ## Queue pairs (R370) -/

/-- A queue pair with nothing sent. -/
def Qp.empty : Qp := ⟨0, 0, [], 0⟩

/-- A queue pair. -/
def State.qp (s : State) (q : Nat) : Qp := Tbl.getD s.eng.qps q Qp.empty

/-- Set a queue pair. -/
def State.setQp (s : State) (q : Nat) (v : Qp) : State := { s with eng := { s.eng with qps := Tbl.set Qp.empty s.eng.qps q v } }

/-- The packets of `n` bytes on a pair: one for each path MTU; under the reserved MTU 3 their number is free. -/
def State.packets (s : State) (q n : Nat) : Nat × State :=
  let code := s.fld (regCkpQpCtrl q) 3 2
  let mtu := 1024 * 2 ^ code
  if code = 3 then (s.free.1.toNat, s.free.2) else ((n + mtu - 1) / mtu, s)

/-- The remote key of a pair (R370). -/
def State.pairKey (s : State) (q : Nat) : BitVec 32 := BitVec.ofNat 32 (s.fld (regCkpQpKey q) 0 32)

/-- Send image bytes by RDMA WRITE on a pair, under its RKEY. -/
def State.rdmaSend (s : State) (k : Ckpt) (q off : Nat) (bs : List (BitVec 8)) (imm : Option (BitVec 32)) : State :=
  let p := s.qp q
  let (n, s) := s.packets q bs.length
  (s.setQp q { p with psn := p.psn + BitVec.ofNat 24 n, unacked := p.unacked ++ [(p.psn, off, bs.length)] }).emit
    (.rdmaWrite q p.psn (s.reg (regCkpQpRbase q) + k.img + BitVec.ofNat 64 off) (s.pairKey q) bs imm)

/-- Ask the store for `n` bytes of its space by RDMA READ on a pair, under its RKEY (R357, R375). -/
def State.rdmaFetch (s : State) (q : Nat) (off : BitVec 64) (n : Nat) : State :=
  let p := s.qp q
  let (k, s) := s.packets q n
  (s.setQp q { p with psn := p.psn + BitVec.ofNat 24 k }).emit (.rdmaRead q p.psn (s.reg (regCkpQpRbase q) + off) (s.pairKey q) n)

/-- The pair an image chunk goes through. -/
def State.pairFor (s : State) (off : Nat) : Nat :=
  let ps := s.enabledQps
  ps.getD (off / 65536 % max ps.length 1) 0

/-- The domain of the I/O die of a pair's Ethernet port (R356, R408). -/
def State.pairDie (s : State) (q : Nat) : Nat := 280 + s.fld (regCkpQpCtrl q) 1 2 / 2

/-- Whether nothing leaves a pair for now: its Ethernet port is paused on the priority of RoCEv2 traffic (R356), or its die is neither at RUN nor
FAILED (R414). -/
def State.pairPaused (s : State) (q : Nat) : Bool :=
  (Tbl.getD s.eth (s.fld (regCkpQpCtrl q) 1 2) ⟨false, false, false, false⟩).paused ||
  (decide (s.domState (s.pairDie q) ≠ 0) && decide (s.domState (s.pairDie q) ≠ 6))

/-- A pair that is to send wakes its die (R414). -/
def State.stirPair (s : State) (q : Nat) : State := s.stir .noone (s.reachDoms [s.pairDie q])

/-- As `stirPair`, for every enabled pair. -/
def State.stirPairs (s : State) : State := s.enabledQps.foldl (fun (t : State) q => t.stirPair q) s

/-- Data bytes among acknowledged writes: the manifest's do not count. -/
def dataBytes (k : Ckpt) (ws : List (BitVec 24 × Nat × Nat)) : Nat :=
  (ws.map fun w => if w.2.1 < k.bytes then w.2.2 else 0).sum

/-- The store has acknowledged the first `n` writes of a pair that are open. -/
def State.ackWrites (s : State) (k : Ckpt) (q n : Nat) : State :=
  let p := s.qp q
  (s.setQp q { p with unacked := p.unacked.drop n, retries := 0 }).bumpFld regCkpProgress 0 40 (dataBytes k (p.unacked.take n))

/-- Whether every write is acknowledged. -/
def State.allAcked (s : State) : Bool := s.eng.qps.all fun e => e.2.unacked.isEmpty

/-- Set the running checkpoint. -/
def State.putCkpt (s : State) (k : Ckpt) : State := { s with eng := { s.eng with ckpt := some k } }

/-- A pair enters the error state, and the checkpoint fails (R370). -/
def State.qpError (s : State) (q : Nat) : State := (s.setFld (regCkpQpCtrl q) 5 2 2).ckptFail 2

/-- Whether an enabled pair stands in the error state, or its die has FAILED: the checkpoint then fails with cause STORE (R370, R416). -/
def State.pairFailed (s : State) : Bool :=
  s.enabledQps.any fun q => decide (s.fld (regCkpQpCtrl q) 5 2 = 2) || decide (s.domState (s.pairDie q) = 6)

/-! ## CKP_DIRECT_SAVE_DONE (R366) -/

/-- CKP_DIRECT_SAVE_DONE (R366): with no staging slot free, a page's set lines go to the store ahead of the walk; once it has acknowledged them the
page is COPIED and the writes that waited may proceed. An acknowledgement covers what a pair sent before (R370). -/
def execCkpDirectSaveDone (chan page : Nat) (s : State) : Host.Outcome State Fault Refusal :=
  .next (
    match s.eng.ckpt with
    | none => s
    | some k =>
      if (s.pageAt chan page).state ≠ 1 ∨ (s.freeStage k.part).isSome ∨ s.enabledQps = [] ∨ s.enabledQps.any s.pairPaused then
        (if (s.pageAt chan page).state = 1 ∧ (s.freeStage k.part).isNone then s.stirPairs else s)
      else
        let want := (s.pageLines chan page).flatMap fun p => (setPlaces k.set p.2).map fun e =>
          (65536 * e.1 + 128 * (e.2.2 % 512), e.2.1, e.2.2, p.2)
        if s.pairFailed then s.ckptFail 2
        else
          match State.takeLines want s k [] with
          | (none, s1) => s1.ckptFail 4
          | (some (got, k1), s1) =>
            let s2 := (imageRuns got).foldl (fun (t : State) w =>
              let q := t.pairFor w.1
              let t1 := t.rdmaSend k1 q w.1 w.2 none
              t1.ackWrites k1 q (t1.qp q).unacked.length) (s1.putCkpt k1)
            ((s2.setPage chan page ⟨3, 0⟩).check detCkpStageFull chan true).2.wipe)

/-! ## The stream and the manifest (R368 to R371) -/

/-- The bytes of the manifest (Table 13.5). -/
def State.manifestOf (s : State) (k : Ckpt) : List (BitVec 8) :=
  let starts := k.set.foldl (fun (a : List Nat × Nat) e => (a.1 ++ [a.2], a.2 + 65536 * e.pages.length)) ([], 0)
  let recs := (k.set.zip starts.1).flatMap fun p =>
    leBytes 8 p.2 ++ leBytes 4 p.1.pages.length ++ leBytes 4 p.1.off ++
      leBytes 8 (Config.crc64 (Memory.reads k.data p.2 (65536 * p.1.pages.length))).toNat ++ leBytes 8 0
  let body := leBytes 4 0x4B434A46 ++ leBytes 4 1 ++ leBytes 8 k.seq.toNat ++ leBytes 4 k.step.toNat ++ leBytes 4 k.set.length ++
    leBytes 4 k.colls.length ++ leBytes 4 k.poison.length ++ leBytes 8 k.bytes ++ leBytes 8 (s.reg regIdentSerial).toNat ++
    leBytes 16 0 ++ recs ++ (k.colls.flatMap fun c => c.flatMap fun w => leBytes 8 w.toNat) ++
    (k.poison.flatMap fun p => leBytes 8 (p.1 + p.2 * 2 ^ 12))
  body ++ ((List.range 48).map fun i => BitVec.ofNat 8 ((Config.sha384 body).toNat / 2 ^ (8 * (47 - i))))

/-- Send the manifest through the lowest enabled pair; its last write carries SEQ[31:0] (R371). -/
def State.sendManifest (s : State) (k : Ckpt) : State :=
  let m := s.manifestOf k
  let q := s.enabledQps.headD 0
  let ps := piecesOf 65536 (m.length + 1) m
  let k1 := { k with sent := true, manifest := m }
  ps.zipIdx.foldl (fun (t : State) p =>
    t.rdmaSend k1 q (k.bytes + 65536 * p.2) p.1 (if p.2 + 1 = ps.length then some (k.seq.setWidth 32) else none))
    ((s.putCkpt k1).setFld regCkpStatus 0 3 3)

/-- The line that an engine's read of a set line reaches: its copy once its page is STAGED. -/
def State.readPlace (s : State) (part line : Nat) : Nat :=
  match s.home (128 * line) with
  | some (ch, l) => if (s.pageAt ch (l / 512)).state = 2 then s.stageDpa part (s.pageAt ch (l / 512)).slot / 128 + l % 512 else line
  | none => line

/-- The domain that the engine's read of the next chunk waits for (R414), if any. -/
def State.chunkReach (s : State) (lines : List Nat) : Option Nat :=
  lines.findSome? fun l => match s.reachLine .noone none l (!s.hits l (List.range 128)) with
    | .asleep d => some d
    | _ => none

/-- CKP_STREAM_WRITE (R368 to R371): the next chunk of the data; after the last, and once every data write is acknowledged, the manifest. -/
def execCkpStreamWrite (s : State) : Host.Outcome State Fault Refusal :=
  .next (
    match s.eng.ckpt with
    | none => s
    | some k =>
      if s.enabledQps = [] then s
      else
        match (setPages k.set)[k.walk / 512]? with
        | some (e, j, dpa) =>
          let off := 65536 * (k.walk / 512)
          let lines := (List.range 512).map fun i => (off + 128 * i, e, 512 * j + i, dpa / 128 + i)
          let asleep := s.chunkReach (lines.map fun l => s.readPlace k.part l.2.2.2)
          if asleep.isSome ∨ s.pairPaused (s.pairFor off) then
            (match asleep with | some d => s.noteDom .noone d | none => s.stirPair (s.pairFor off))
          else if s.pairFailed then s.ckptFail 2
          else
            match State.takeLines lines s k [] with
            | (none, s1) => s1.ckptFail 4
            | (some (got, k1), s1) =>
              let k2 := { k1 with walk := k1.walk + 512 }
              let t := (imageRuns got).foldl (fun (t : State) w => t.rdmaSend k2 (t.pairFor w.1) w.1 w.2 none) (s1.putCkpt k2)
              if t.tagLoss = s.tagLoss then t else t.tagSettle
        | none =>
          if k.sent ∨ s.allAcked = false then s
          else if s.pairPaused (s.enabledQps.headD 0) then s.stirPair (s.enabledQps.headD 0)
          else if s.pairFailed then s.ckptFail 2
          else s.sendManifest k)

/-! ## Acknowledgement, commit and failure (R370 to R372) -/

/-- A commit event: SET SEQ (R330, R371). A signal for a lost context is left undone where it cannot be performed (R272). -/
def State.commitEvent (s : State) (ctx va seq : Nat) : Go Unit :=
  let lost := (s.ctx ctx).all (·.lost)
  match s.span ctx va 8 .write with
  | .ok x s1 =>
    if x.tgt = 1 then .ok () (s1.boardAtom .noone 0 ctx x.addr 2 2 (BitVec.ofNat 64 (seq % 2 ^ 63)) 0)
    else
      match s1.signal .noone ctx va (.set (seq % 2 ^ 63)) with
      | .ok _ s2 => .ok () s2
      | .stall s2 => .stall s2
      | .lose code at_ s2 => if lost then .ok () s2 else .ok () (s2.lose ctx code (BitVec.ofNat 64 at_) (lostAt 3 0) none)
  | .stall s1 => .stall s1
  | .lose code at_ s1 => if lost then .ok () s1 else .ok () (s1.lose ctx code (BitVec.ofNat 64 at_) (lostAt 3 0) none)

/-- Perform the commit events that are due, in order; the first that has to wait stays due, and those behind it. -/
def State.commitEvents : List (Nat × Nat × Nat) → State → State
  | [], s => { s with eng := { s.eng with evDue := [] } }
  | e :: es, s =>
    match s.commitEvent e.1 e.2.1 e.2.2 with
    | .ok _ t => State.commitEvents es t
    | .stall t => { t with eng := { t.eng with evDue := e :: es } }
    | .lose _ _ t => State.commitEvents es t

/-- The checkpoint commits (R371): every page returns to NONE, the registers, then the event. The time it took is known to the ms only (log 17). -/
def State.ckptCommit (s : State) (k : Ckpt) : State :=
  let (f, t) := s.free
  let ns := (t.ms - k.since) * 1000000 + f.toNat % 1000000
  let t1 := ({ t with eng := { t.eng with
    ckpt := none
    qps := t.eng.qps.map fun (q : Nat × Qp) => (q.1, { q.2 with unacked := [], retries := 0 }) } } : State).freePages
  let t2 := (t1.setReg regCkpLastCommitSeq k.seq).setReg regCkpLastCommitStep (k.step.setWidth 64)
  let t3 := (((t2.setReg regCkpLastTime (BitVec.ofNat 64 ns)).setFld regCkpStatus 0 3 0)).unrefs ((k.set.map fun e => e.obj).eraseDups) |>.wipe
  if k.cevt = 0 then t3 else State.commitEvents (t3.eng.evDue ++ [(k.ctx, k.cevt.toNat, k.seq.toNat)]) t3

/-- CKP_COMMIT (R371): the store acknowledges the manifest's last write. A commit event that had to wait is performed when the command comes
again (log 26). -/
def execCkpCommit (s : State) : Host.Outcome State Fault Refusal :=
  .next (
    match s.eng.ckpt with
    | none => State.commitEvents s.eng.evDue s
    | some k => if k.sent then s.ckptCommit k else State.commitEvents s.eng.evDue s)

/-- How many of a pair's open writes fit into a number of bytes. -/
def ackable : Nat → List (BitVec 24 × Nat × Nat) → Nat × Nat
  | b, [] => (0, b)
  | b, w :: ws => if w.2.2 ≤ b then let r := ackable (b - w.2.2) ws; (r.1 + 1, r.2) else (0, b)

/-- CKP_STORE_ACK (R371): the store acknowledges the oldest open data writes of the pairs, as many as `bytes` bytes hold. -/
def execCkpStoreAck (bytes : Nat) (s : State) : Host.Outcome State Fault Refusal :=
  .next (
    match s.eng.ckpt with
    | none => s
    | some k =>
      if k.sent then s
      else (s.enabledQps.foldl (fun (a : State × Nat) q =>
        let r := ackable a.2 (a.1.qp q).unacked
        (a.1.ackWrites k q r.1, r.2)) (s, bytes)).1)

/-- CKP_FAIL (R367, R370, R372): an enabled pair fails, a free choice which (2 STORE), or a page-state entry has an uncorrectable error (3 TABLE),
which with no checkpoint only counts. The other causes come with their own commands. -/
def execCkpFail (cause : Nat) (s : State) : Host.Outcome State Fault Refusal :=
  .next (
    if cause = 2 then
      (if s.eng.ckpt.isNone ∨ s.enabledQps = [] then s
       else
        let (f, s1) := s.free
        s1.qpError (s1.enabledQps.getD (f.toNat % s1.enabledQps.length) 0))
    else if cause = 3 then (s.note detSramUe 0x10000).ckptFail 3
    else s)

/-- A pair sends its open writes again. -/
def State.resendOpen (s : State) (k : Ckpt) (q : Nat) : State :=
  (s.qp q).unacked.foldl (fun (t : State) w =>
    let bs := if w.2.1 < k.bytes then Memory.reads k.data w.2.1 w.2.2 else (k.manifest.drop (w.2.1 - k.bytes)).take w.2.2
    let imm := if k.sent ∧ w.2.1 + w.2.2 = k.bytes + k.manifest.length then some (k.seq.setWidth 32) else none
    t.emit (.rdmaWrite q w.1 (t.reg (regCkpQpRbase q) + k.img + BitVec.ofNat 64 w.2.1) (t.pairKey q) bs imm)) s

/-- ROCE_RETRY_TIMEOUT (R370): the pair sends its open writes again, or, after 7 retries or where its die has FAILED, enters the error state. -/
def execRoceRetryTimeout (q : Nat) (s : State) : Host.Outcome State Fault Refusal :=
  .next (
    match s.eng.ckpt with
    | none => s
    | some k =>
      let p := s.qp q
      if p.unacked = [] ∨ s.fld (regCkpQpCtrl q) 5 2 ≠ 1 ∨ s.pairPaused q then s
      else if 7 ≤ p.retries ∨ s.domState (s.pairDie q) = 6 then s.qpError q
      else (s.setQp q { p with retries := p.retries + 1 }).resendOpen k q)

/-! ## CKP_RESTORE (R375, R393) -/

/-- A field of the manifest. -/
def mFld (m : List (BitVec 8)) (a n : Nat) : Nat := leVal ((m.drop a).take n)

/-- Where the manifest's parts end: set records, collective records, poison list. -/
def mSetEnd (m : List (BitVec 8)) : Nat := 64 + 32 * mFld m 20 4
def mCollEnd (m : List (BitVec 8)) : Nat := mSetEnd m + 128 * mFld m 24 4
def mEnd (m : List (BitVec 8)) : Nat := mCollEnd m + 8 * mFld m 28 4

/-- The checks of a manifest against a set (R375 step 1). -/
def manifestOk (m : List (BitVec 8)) (set : List SetEnt) : Bool :=
  decide (mFld m 0 4 = 0x4B434A46) && decide (mFld m 4 2 = 1) && decide (m.length = mEnd m + 48) &&
  decide (((m.drop (mEnd m)).foldl (fun a b => a * 256 + b.toNat) 0) = (Config.sha384 (m.take (mEnd m))).toNat) &&
  decide (mFld m 20 4 = set.length) &&
  set.zipIdx.all fun e => decide (mFld m (64 + 32 * e.2 + 8) 4 = e.1.pages.length)

/-- Whether the writes of a restore may all be made now (R364, R414), or a domain has failed. -/
def State.restoreReach (s : State) (lines : List Nat) : Reach :=
  let rs := lines.map fun l => match s.reachLine .noone none l false with
    | .ok => if s.writeWaits l then Reach.busy else .ok
    | r => r
  reachOf rs

/-- Write a page of an entry, line by line (R375, R393). -/
def State.restorePage (s : State) (ctx dpa off : Nat) (data : Nat → BitVec 8) : Served :=
  let key := s.imageKey ctx
  (List.range 512).foldl (fun (r : Served) i =>
    let img := (List.range 128).map fun b => data (off + 128 * i + b)
    let r1 := r.st.cisWrite (plainReq (some ctx)) (dpa / 128 + i) (bytesAt 0 (imageLine xtsDec key (off + 128 * i) img))
    ⟨r1.st, r.poison || r1.poison⟩) ⟨s, false⟩

/-- Write the pages of an entry from an offset of the image. -/
def State.restoreEntry (s : State) (ctx : Nat) (e : SetEnt) (off : Nat) (data : Nat → BitVec 8) : Served :=
  e.pages.zipIdx.foldl (fun (r : Served) p =>
    let r1 := r.st.restorePage ctx p.1 (off + 65536 * p.2) data
    ⟨r1.st, r.poison || r1.poison⟩) ⟨s, false⟩

/-- Write the entries in order, each checked as it goes (R375 step 2): whether one failed its CRC, after which the ranges written hold free bytes. -/
def State.restoreData (ctx : Nat) (m : List (BitVec 8)) (img : List (BitVec 8)) : List (SetEnt × Nat) → State → Served × Bool
  | [], s => (⟨s, false⟩, true)
  | (e, i) :: rest, s =>
    let rec' := 64 + 32 * i
    let off := mFld m rec' 8
    let bytes := fun (a : Nat) => img.getD a 0
    let n := 65536 * e.pages.length
    let (bad, s1) := s.judge detCkpCrc 0 (decide ((Config.crc64 ((List.range n).map fun a => bytes (off + a))).toNat ≠ mFld m (rec' + 16) 8))
    if bad then
      let base := s1.fresh
      let r := ({ s1 with fresh := base + n }).restoreEntry ctx e 0 fun a => (Config.freeValue (base + a)).setWidth 8
      (r, false)
    else
      let r := s1.restoreEntry ctx e off bytes
      let (r2, ok) := State.restoreData ctx m img rest r.st
      if ok then (⟨r2.st, r.poison || r2.poison⟩, true)
      else
        let base := r2.st.fresh
        let r3 := ({ r2.st with fresh := base + n }).restoreEntry ctx e 0 fun a => (Config.freeValue (base + a)).setWidth 8
        (⟨r3.st, r.poison || r2.poison || r3.poison⟩, false)

/-- Poison the lines of the poison list (R375 step 3); the cause their records carry is open (log 26). -/
def State.restorePoison (s : State) (m : List (BitVec 8)) (set : List SetEnt) : State :=
  (List.range (mFld m 28 4)).foldl (fun (t : State) i =>
    let v := mFld m (mCollEnd m + 8 * i) 8
    match (set[bitsOf v 0 12]?).bind fun e => e.pages[bitsOf v 12 41 / 512]? with
    | some dpa =>
      let (f, t1) := t.free
      t1.poisonFlit (dpa / 128 + bitsOf v 12 41 % 512) (f.toNat % 256) 0xFF false
    | none => t) s

/-- A slot as its restored header tells it (R234, R245): step, state and counts. Which members the counts stand for no header tells: names that no
member has stand for them (log 26). -/
def State.slotFrom (s : State) (g : Geo) (ctx j : Nat) (old : CollSlot) : CollSlot :=
  match s.place ctx (g.slotVa j) with
  | some (0, a) =>
    let h := leVal (s.devBytes a 16)
    let n := bitsOf h 32 32
    let names := fun (k : Nat) => (List.range k).map fun i => 2 ^ 20 + i
    let got := if n = 0 then [] else (List.range (partsIn g.held)).map fun p => (p, names n)
    ⟨bitsOf h 0 32, bitsOf h 96 2, got, names (bitsOf h 64 32), n, [], [], []⟩
  | _ => old

/-- A collective whose work area a restore has written again. -/
def State.collFrom (s : State) (c : Coll) : Coll :=
  match s.geo c.desc with
  | some g =>
    if cReduces c.desc then
      { c with slot0 := s.slotFrom g c.ctx 0 c.slot0, slot1 := s.slotFrom g c.ctx 1 c.slot1, dealt := [], late := [], gone := [], asked := [] }
    else c
  | none => c

/-- Set the open steps of the collectives the context has open (R375 step 4); their slots are those of the restored work areas (R245). -/
def State.restoreColls (s : State) (ctx : Nat) (m : List (BitVec 8)) : State :=
  (List.range (mFld m 24 4)).foldl (fun (t : State) i =>
    let a := mSetEnd m + 128 * i
    let num := mFld m a 8 % 64
    match t.coll num with
    | some c =>
      if c.ctx = ctx then
        (t.putColl num (t.collFrom c)).setReg (regRdgLdgStep num) (BitVec.ofNat 64 (mFld m (a + 4) 4 + mFld m (a + 8) 4 * 2 ^ 32))
      else (t.check detCkpRestoreSkip 0 true).2
    | none => (t.check detCkpRestoreSkip 0 true).2) s

/-- Ask the store for the manifest, through the lowest enabled pair as it was written (R371, R375). -/
def State.fetchManifest (s : State) (man : Nat) (m : List (BitVec 8)) : State :=
  s.rdmaFetch (s.enabledQps.headD 0) (BitVec.ofNat 64 man) m.length

/-- Ask the store for the data, each chunk through the pair that R370 names for it; the data end where the manifest begins. -/
def State.fetchData (s : State) (man : Nat) (m : List (BitVec 8)) : State :=
  let d := mFld m 32 8
  (List.range ((d + 65535) / 65536)).foldl (fun (t : State) i =>
    t.rdmaFetch (t.pairFor (65536 * i)) (BitVec.ofNat 64 man - BitVec.ofNat 64 d + BitVec.ofNat 64 (65536 * i)) (min 65536 (d - 65536 * i))) s

/-- The last three steps of a restore, all at once or not yet. -/
def State.restoreAll (s : State) (r : CmdRef) (man : Nat) (m img : List (BitVec 8)) (set : List SetEnt) : State :=
  let lines := (setPages set).flatMap fun p => (List.range 512).map fun i => p.2.2 / 128 + i
  match s.restoreReach lines with
  | .failed => s.loseCmd r stPoisonConsumed 0
  | .asleep d => s.noteDom (.cmd r) d
  | .busy => s
  | .ok =>
    let (w, ok) := State.restoreData r.ctx m img set.zipIdx ((s.fetchManifest man m).fetchData man m)
    if w.poison then w.st.loseCmd r stPoisonConsumed 0
    else if ok = false then (w.st.det detCkpCrc).finish r stDescInvalid
    else ((w.st.restorePoison m set).restoreColls r.ctx m).finish r 0

/-- Whether every enabled pair can send: a pair in the error state, or whose port is paused, sends no READ. -/
def State.pairsReady (s : State) : Bool :=
  !s.enabledQps.isEmpty && s.enabledQps.all fun q => decide (s.fld (regCkpQpCtrl q) 5 2 = 1) && !s.pairPaused q && decide (s.domState (s.pairDie q) = 0)

/-- CKP_RESTORE (R375, R376, R393): `manifest` and `data` are what the store holds at MAN and before it. The manifest is asked for and checked; only
where every check holds is anything written, MANBUF first. -/
def execCkpRestore (r : CmdRef) (manifest data : List (BitVec 8)) (s : State) : Host.Outcome State Fault Refusal :=
  .next (
    match s.started r 0x32, s.ctx r.ctx with
    | some c, some run =>
      let n := cmdFld c 192 12 + 1
      if s.pairsReady = false then s.stirPairs
      else
        Go.forCmd r (fun (bs : List (BitVec 8)) (t : State) =>
          match t.setOf run n bs with
          | some set =>
            if manifestOk manifest set then
              Go.forCmd r (fun _ (u : State) => (u.boardDone (.cmd r)).restoreAll r (cmdFld c 256 64) manifest data set)
                (t.vWrite (.cmd r) r.ctx (plainReq (some r.ctx)) (cmdFld c 320 57) manifest)
            else ((t.boardDone (.cmd r)).fetchManifest (cmdFld c 256 64) manifest).finish r stDescInvalid
          | none => ((t.boardDone (.cmd r)).fetchManifest (cmdFld c 256 64) manifest).finish r stDescInvalid)
          (s.vKeep (.cmd r) r.ctx (plainReq (some r.ctx)) (cmdFld c 128 57) (16 * n))
    | _, _ => s)

/-! ## Queue-pair registers (R377) -/

/-- The writes that a pair had open when it was disabled, numbered again from the first PSN it is given. -/
def State.renumber (s : State) (q : Nat) : List (BitVec 24 × Nat × Nat) → BitVec 24 → List (BitVec 24 × Nat × Nat) × BitVec 24 × State
  | [], psn => ([], psn, s)
  | w :: ws, psn =>
    let (n, s1) := s.packets q w.2.2
    let (r, p, s2) := s1.renumber q ws (psn + BitVec.ofNat 24 n)
    ((psn, w.2) :: r, p, s2)

/-- A pair is enabled with the PSNs its registers give; writes the store has not acknowledged stay open (R371, log 26). -/
def State.pairOn (s : State) (q : Nat) : State :=
  let (ws, psn, s1) := s.renumber q (s.qp q).unacked (BitVec.ofNat 24 (s.fld (regCkpQpDest q) 24 24))
  s1.setQp q ⟨psn, BitVec.ofNat 24 (s1.fld (regCkpQpRpsn q) 0 24), ws, 0⟩

/-- A pair is disabled; writes the store has not acknowledged stay open (R371, log 26). -/
def State.pairOff (s : State) (q : Nat) : State := s.setQp q { Qp.empty with unacked := (s.qp q).unacked }

/-- The control register of a pair (R377): EN moves the pair to RTS with its PSNs or to RESET; PORT and MTU change only while EN = 0. -/
def State.qpCtrl (s : State) (q : Nat) (v : BitVec 64) (mon : Bool) : State :=
  s.regWrite (regCkpQpCtrl q) v mon fun s1 =>
    let a := regCkpQpCtrl q
    let old := s1.reg a
    let en := field v 0 1
    let on := decide (field old 0 1 = 1)
    let (rej, s2) := s1.check detCkpCfgReject 0 (on && decide (field old 1 4 ≠ field v 1 4))
    let s3 := if on || rej then s2 else s2.setFld a 1 4 (field v 1 4)
    if rej && decide (en = 1) then s3
    else if en = 1 ∧ on = false then
      ((s3.setFld a 0 1 1).setFld a 5 2 1).pairOn q
    else if en = 0 ∧ on then ((s3.setFld a 0 1 0).setFld a 5 2 0).pairOff q
    else s3

/-- CKP_QP_CTRL_WRITE (R377). -/
def execCkpQpCtrlWrite (q : Nat) (v : BitVec 64) (s : State) : Host.Outcome State Fault Refusal :=
  .next (if q < 16 then s.qpCtrl q v false else s)

/-- The other registers of a pair are writable only while EN = 0 (R377). -/
def State.qpOther (s : State) (off q : Nat) (v : BitVec 64) : State :=
  let (rej, s1) := s.check detCkpCfgReject 0 (decide (s.fld (regCkpQpCtrl q) 0 1 = 1))
  if rej then s1 else s1.regPlain off v

end Sys2Proof.Machine
end

