-- ==== Sys2Proof/Machine/Keys.lean ====
section
/-!
DEFINITION. The module's identity and keys (14 R379, R381, R384, R396): public keys and their fused hashes, signatures, the certificate chain,
and random keys.
-/
namespace Sys2Proof.Machine

/-! ## Digests and fused hashes (R381) -/

/-- The SHA-384 digest of bytes as 48 bytes, most significant first. -/
def shaBytes (b : List (BitVec 8)) : List (BitVec 8) :=
  (List.range 48).map fun i => BitVec.ofNat 8 ((Config.sha384 b).toNat / 2 ^ (8 * (47 - i)))

/-- The 48 bytes that six registers hold, eight in each. -/
def State.hash48 (s : State) (r : Nat → Nat) : List (BitVec 8) := (List.range 6).flatMap fun j => leBytes 8 (s.reg (r j)).toNat

/-- Whether an owner slot is enrolled and not revoked (R381). -/
def State.ownerLive (s : State) (i : Nat) : Bool :=
  decide (i < 4) && decide (s.fld regSecStatus i 1 = 1) && decide (s.fld regSecStatus (4 + i) 1 = 0)

/-- Whether any owner slot is enrolled and not revoked: an owner signature is required (R381). -/
def State.ownerRequired (s : State) : Bool := (List.range 4).any fun i => s.ownerLive i

/-- Whether a Fjarber slot is neither empty nor revoked (R381). -/
def State.fjLive (s : State) (i : Nat) : Bool :=
  decide (i < 4) && decide (s.fld regSecStatus (8 + i) 1 = 0) && !(s.hash48 (regSecFjHash i)).all fun b => b = 0

/-- The public key of a Fjarber slot that is neither empty nor revoked and matches its fused hash (R381). -/
def State.fjKey (s : State) (i : Nat) : Option (List (BitVec 8)) :=
  if s.fjLive i then
    match Tbl.find s.trust.fjKeys i with
    | some k => if shaBytes k = s.hash48 (regSecFjHash i) then some k else none
    | none => none
  else none

/-- The public key of an owner slot that is enrolled, not revoked, and matches its fused hash (R381). -/
def State.ownerKey (s : State) (i : Nat) : Option (List (BitVec 8)) :=
  if s.ownerLive i then
    match Tbl.find s.trust.ownerKeys i with
    | some k => if shaBytes k = s.hash48 (regSecOwnerHash i) then some k else none
    | none => none
  else none

/-- Whether a signature of 96 bytes over a message verifies under a key. -/
def sigOk (k : Option (List (BitVec 8))) (msg sig : List (BitVec 8)) : Bool :=
  match k with
  | some key => Config.ecdsaOk key (Config.sha384 msg) sig
  | none => false

/-! ## The module's own identity (R379, R384) -/

/-- The certificate chain of slot 0: Fjarber root, Fjarber device CA, the DIK certificate with the serial, and the AK certificate with the firmware's
measurement. -/
def State.certChain (s : State) : List (BitVec 8) :=
  Config.fjCerts ++ Config.dikCert (s.reg regIdentSerial) (Config.p384Pub s.trust.dik) ++
    Config.akCert s.trust.dik (Config.p384Pub s.trust.ak) (Config.fwDigest s.trust.fw)

/-- AK's signature over bytes. -/
def State.akSign (s : State) (b : List (BitVec 8)) : List (BitVec 8) := Config.ecdsaSign s.trust.ak (Config.sha384 b)

/-! ## Random keys -/

/-- A number of 64 `n` bits from the Cairn's random source (R379). -/
def State.freeBits : Nat → State → Nat × State
  | 0, s => (0, s)
  | n + 1, s =>
    let (v, t) := s.free
    let (r, u) := State.freeBits n t
    (r * 2 ^ 64 + v.toNat, u)

end Sys2Proof.Machine
end

