-- ==== Sys2Proof/Machine/Context.lean ====
section
/-!
DEFINITION. Contexts and objects as the host manages them: loss, swapping, and the admin commands (11 R310 to R314, R318, R327 to R329,
R332, R334; 14 R386, R389, R391).
-/
namespace Sys2Proof.Machine

/-! ## Loss (R332) -/

/-- CONTEXT_LOSS (R332): a fault with one of the five codes; of a context whose loss is being settled, what is left of it goes on. -/
def execContextLoss (ctx : Nat) (code : BitVec 8) (va info : BitVec 64) (s : State) : Host.Outcome State Fault Refusal :=
  .next (if (s.ctx ctx).any (fun (r : CtxRun) => r.ending.isSome) then s.settleCtx ctx
    else if code.toNat ∈ [stAlignFault, stAliasFault, stPageFault, stPoisonConsumed, stNoProgress] then s.lose ctx code.toNat va info none
    else s)

/-! ## Swapping (R312, R106, R194, R216) -/

/-- Whether a context has a command able to start, or one that has started and is not finished (R312). An event of another module is one that
COMMAND_START has read and found satisfied or poisoned. -/
def State.wants (s : State) (c : Nat) (r : CtxRun) : Bool :=
  r.queues.any fun (q : Nat × Queue) => q.2.cmds.any fun (k : Nat × Cmd) =>
    match k.2.phase with
    | .started => true
    | .finished _ => false
    | .submitted => q.2.turn k.1 (k.2.raw.getLsbD 8) && (match k.2.wait with
      | none => true
      | some w => match s.evPeek c w.1.toNat with
        | some v => v.getLsbD 63 || decide (w.2.toNat ≤ v.toNat)
        | none => decide (k.2.progress = 2))

/-- Whether a command of a context runs. -/
def CtxRun.running (r : CtxRun) : Bool :=
  r.queues.any fun (q : Nat × Queue) => q.2.cmds.any fun (k : Nat × Cmd) => decide (k.2.phase = .started)

/-- The scheduler looks at every context that is not resident: it notes when one is first found with a command able to start (R312). -/
def State.noteWaits (s : State) : State :=
  s.hif.ctxs.foldl (fun (t : State) (e : Nat × CtxRun) =>
    let w := e.2.slot.isNone && !e.2.lost && t.wants e.1 e.2
    if w && decide (e.2.order = 0) then t.putCtx e.1 { e.2 with order := t.ms + 1 }
    else if !w && decide (e.2.order ≠ 0) then t.putCtx e.1 { e.2 with order := 0 } else t) s

/-- Whether a resident context may be asked to give way (R312): its quantum can have passed since it became resident or since a refused swap-out,
or, unless one was refused, it has no command running. -/
def State.quantumOver (s : State) (r : CtxRun) : Bool :=
  decide (r.words.quantum.toNat < (s.ms + 1 - r.resident) * 1000) ||
  (!r.tried && !r.running)

/-- The contexts of a partition that wait for residency (R312). -/
def State.waiting (s : State) (p : Nat) : List (Nat × CtxRun) :=
  s.hif.ctxs.filter fun (e : Nat × CtxRun) => decide (e.2.words.part = p) && e.2.slot.isNone && !e.2.lost && s.wants e.1 e.2

/-- Whether a context is at a point at which it may be swapped out: no store, copy, answer or request of it is under way, no update engine is
inside a layer of it, and its pumps' write queues are written (R194, R216). -/
def State.swapPoint (s : State) (c : Nat) : Bool :=
  let gs := s.ctxGroups c
  (s.tiles.all fun (t : Nat × Tile) =>
    t.2.storeQ.all (fun e => decide (e.ctx ≠ c)) && t.2.scopys.all (fun x => !decide ((t.1, x.slot) ∈ gs)) &&
    t.2.waits.all (fun h => !decide ((t.1, h.slot) ∈ gs) || h.answer.isNone) &&
    (match t.2.claim with
     | some k => !((Tbl.find t.2.blocks k.block).any fun b => b.cmd.ctx = c) ||
        ((k.pump0.writeQ.isEmpty || k.pump0.wr.isEmpty) && (k.pump1.writeQ.isEmpty || k.pump1.wr.isEmpty))
     | none => true)) &&
  (s.mem.cis.all fun (n : Nat × Cistern) => n.2.waits.all fun h => !decide ((h.tile, h.slot) ∈ gs) || h.answer.isNone) &&
  !(s.ridge.reqs.any fun q => q.ctx = c) && !(s.eng.spurs.any fun (e : Nat × UpdEng) => e.2.r.ctx = c)

/-- Bytes of the save area that a block takes (R312). -/
def Block.saveSize (b : Block) : Nat := 8192 + 16384 * b.groups + b.extent + (if b.claim then 262144 else 0)

/-- Bytes of the save area that saved tiles take (R312). -/
def savedNeed (vs : List SavedTile) : Nat := 65536 + (vs.flatMap fun v => v.blocks.map fun (b : Nat × Block) => b.2.saveSize).sum

/-- Bytes of the save area that a context takes (R312). -/
def State.saveNeed (s : State) (c : Nat) : Nat :=
  65536 + (s.tiles.flatMap fun (t : Nat × Tile) =>
    (t.2.blocks.filter fun (b : Nat × Block) => b.2.cmd.ctx = c).map fun (b : Nat × Block) => b.2.saveSize).sum

/-- What stands between the device and `n` bytes of a save area. -/
def State.areaReach (s : State) (dpa n : Nat) (write : Bool) : Reach :=
  let ls := linesOf dpa n
  reachOf (ls.map fun l => match s.reachLine .noone none l true with
    | .ok => if write && s.writeWaits l then .busy else .ok
    | .failed => if write then .ok else .failed
    | r => r)

/-- The device writes `n` bytes of a save area with the context's tag (R312, R386); what it writes is undefined to software (R308). -/
def State.writeArea (s : State) (tag dpa n : Nat) : State :=
  (linesOf dpa n).foldl (fun (t : State) l =>
    let (v, u) := State.freeBits 16 t
    u.ownLine tag l fun o => BitVec.ofNat 8 (v / 256 ^ o)) s

/-- A group as it is saved: a wait held at a cistern is withdrawn and sent again. -/
def Group.saved (g : Group) : Group :=
  match g.wait with
  | .watch w => if w.site = .held ∨ w.site = .early then { g with wait := .watch { w with site := .sent } } else g
  | _ => g

/-- Whether a scratch address lies in one of some blocks. -/
def inBlocks (bs : Tbl Block) (a : Nat) : Bool := bs.any fun (b : Nat × Block) => decide (b.2.base ≤ a) && decide (a < b.2.base + b.2.extent)

/-- What a context keeps of a tile. -/
def Tile.saved (t : Tile) (n c : Nat) : List SavedTile :=
  let bs := t.blocks.filter fun (b : Nat × Block) => b.2.cmd.ctx = c
  let mine := fun (k : Nat) => (Tbl.find bs k).isSome
  if bs = [] then []
  else
    let gs := (t.groups.filter fun (g : Nat × Group) => mine g.2.block).map fun (g : Nat × Group) => (g.1, g.2.saved)
    [⟨n, bs, gs, t.scratch.filter fun (x : Host.Cell) => inBlocks bs x.1,
      t.waits.filter fun h => (Tbl.find gs h.slot).isSome,
      match t.claim with | some k => if mine k.block then some k.stow else none | none => none,
      t.timers.filter fun e => (Tbl.find gs e.1).isSome⟩]

/-- Take a context's blocks and waits off every tile and cistern. -/
def State.unload (s : State) (c : Nat) : State :=
  let gs := s.ctxGroups c
  { s with
    tiles := (s.tiles.map fun (t : Nat × Tile) => (t.1, t.2.dropCtx c)).filter fun (t : Nat × Tile) => t.2 ≠ Tile.empty
    mem := { s.mem with cis := s.mem.cis.map fun (n : Nat × Cistern) =>
      (n.1, { n.2.dropTurns c with waits := n.2.waits.filter fun h => !decide ((h.tile, h.slot) ∈ gs) }) } }

/-- CONTEXT_SWAP_OUT (R312): a resident context of a swapping partition gives way to one that waits; where its state exceeds the save area it
stays and is reported. The save area is written with the context's tag (R386); a write that a FAILED domain meets is lost. -/
def execContextSwapOut (ctx : Nat) (s : State) : Host.Outcome State Fault Refusal :=
  .next (
    let s := s.noteWaits
    match s.ctx ctx with
    | none => s
    | some r =>
      if r.slot = none ∨ r.lost ∨ s.quantumOver r = false ∨ (s.part r.words.part).any (fun (p : PartEnt) => p.swap) = false ∨
          s.waiting r.words.part = [] ∨ s.swapPoint ctx = false then s
      else
        let need := s.saveNeed ctx
        let (bad, s1) := s.check detSwapRefused 0 (decide (r.words.saveSize < need))
        if bad then (s1.putCtx ctx { r with resident := s1.ms, tried := true }).evr 5 0 ctx (BitVec.ofNat 64 need) 0
        else
          match s1.areaReach r.words.saveBase need true with
          | .asleep d => s1.noteDom .noone d
          | .busy => s1
          | .ok | .failed =>
            let saved := s1.tiles.flatMap fun (t : Nat × Tile) => t.2.saved t.1 ctx
            let s2 := s1.writeArea (r.keySlot.getD 0) r.words.saveBase need
            ((s2.unload ctx).putCtx ctx { r with slot := none, saved := saved, order := 0, tried := false }).noteWaits)

/-- The lowest slot page that no context occupies (R313). -/
def State.freeSlot (s : State) : Option Nat :=
  (List.range 64).find? fun k => !(s.hif.ctxs.any fun (e : Nat × CtxRun) => e.2.slot == some k)

/-- Resident contexts of a partition. -/
def State.residents (s : State) (p : Nat) : Nat :=
  (s.hif.ctxs.filter fun (e : Nat × CtxRun) => decide (e.2.words.part = p) && e.2.slot.isSome).length

/-- Whether a saved tile can take its blocks back: their slots, scratch and claim are free. -/
def Tile.canTake (t : Tile) (v : SavedTile) : Bool :=
  decide (t.blocks.length + v.blocks.length ≤ 8) && v.groups.all (fun (g : Nat × Group) => (Tbl.find t.groups g.1).isNone) &&
  (v.claim.isNone || t.claim.isNone) &&
  t.blocks.all fun (b : Nat × Block) => v.blocks.all fun (x : Nat × Block) =>
    decide (x.2.base + x.2.extent ≤ b.2.base) || decide (b.2.base + b.2.extent ≤ x.2.base)

/-- A tile with a saved tile's blocks, groups, scratch, waits and claim back on it. -/
def Tile.take (t : Tile) (v : SavedTile) : Tile :=
  let off := (t.blocks.map fun (b : Nat × Block) => b.1 + 1).foldl max 0
  { t with
    blocks := v.blocks.foldl (fun (a : Tbl Block) (b : Nat × Block) => Tbl.put a (b.1 + off) b.2) t.blocks
    groups := v.groups.foldl (fun (a : Tbl Group) (g : Nat × Group) => Tbl.put a g.1 { g.2 with block := g.2.block + off }) t.groups
    scratch := Tbl.putAll (t.scratch.filter fun (x : Host.Cell) => !inBlocks v.blocks x.1) v.scratch
    waits := t.waits ++ v.waits
    claim := match v.claim with
      | some k => some { k with block := k.block + off }
      | none => t.claim
    timers := v.timers.foldl (fun (a : Tbl Nat) (e : Nat × Nat) => Tbl.put a e.1 e.2) t.timers }

/-- CONTEXT_SWAP_IN (R312): the waiting context that has waited longest takes a slot and its saved state, read from the save area: a poisoned
line loses it (R272). A context without saved blocks reads nothing there (log 23). -/
def execContextSwapIn (ctx : Nat) (s : State) : Host.Outcome State Fault Refusal :=
  .next (
    let s := s.noteWaits
    match s.ctx ctx with
    | none => s
    | some r =>
      let p := r.words.part
      match s.part p, s.freeSlot with
      | some e, some k =>
        let w := s.waiting p
        if r.slot.isSome ∨ r.lost ∨ e.swap = false ∨ e.slots ≤ s.residents p ∨ w.all (fun (x : Nat × CtxRun) => decide (x.1 ≠ ctx)) ∨
            w.any (fun (x : Nat × CtxRun) => decide (x.2.order < r.order)) ∨ r.saved.all (fun v => (s.tile v.tile).canTake v) = false then s
        else
          let back := fun (t : State) =>
            let u := r.saved.foldl (fun (u : State) v => u.setTile v.tile ((u.tile v.tile).take v)) t
            u.putCtx ctx { r with slot := some k, saved := [], order := 0, resident := s.ms }
          if r.saved = [] then back s
          else
            let n := savedNeed r.saved
            match s.areaReach r.words.saveBase n false with
            | .asleep d => s.noteDom .noone d
            | .busy => s
            | .failed => s.lose ctx stPoisonConsumed 0 (lostAt 4 0) none
            | .ok =>
              let rd := s.devRead (plainReq (some ctx)) r.words.saveBase n
              if rd.poison then rd.st.lose ctx stPoisonConsumed 0 (lostAt 4 0) none else back rd.st
      | _, _ => s)

/-! ## Admin commands (R310, Table 11.8) -/

/-- The words of an admin command. -/
def State.admWord (s : State) (i : Nat) : Nat := (s.reg (regHifAdmData i)).toNat

/-- Whether some word has a bit outside its mask; a word without a mask is reserved (R310). -/
def State.admReserved (s : State) (masks : List Nat) : Bool :=
  (List.range 8).any fun i => decide (s.admWord i ||| masks.getD i 0 ≠ masks.getD i 0)

/-- A write of an OPC to HIF_ADM_CMD (R310): dropped while one runs; refused with a reserved bit; otherwise the command acts. An unassigned OPC
is refused. -/
def State.admin (s : State) (opc : Nat) (masks : Option (List Nat)) (k : State → State) : State :=
  s.regWrite regHifAdmCmd (BitVec.ofNat 64 opc) false fun t =>
    if t.fld regHifAdmStatus 0 1 = 1 then t.violation regHifAdmCmd 0 false
    else
      let (inj, t1) := t.judge detAdmRefused 0 false
      match masks with
      | none => t1.adminDone stDescInvalid 0
      | some m => if inj || t1.admReserved m then t1.adminDone stDescInvalid 0 else k t1

/-- The context that word 0 names. -/
def State.admCtx (s : State) : Nat := bitsOf (s.admWord 0) 0 12

/-! ### CTX_CREATE (R311, R386, R391) -/

/-- The assigned bits of Table 11.9. -/
def ctxMasks : List Nat :=
  [ones 0 4 ||| ones 8 1 ||| ones 16 48, ones 12 28, ones 12 28 ||| ones 40 5, ones 0 63, ones 12 28, ones 0 40, ones 0 62]

/-- The creation words as a context. -/
def State.ctxWords (s : State) : Ctx :=
  let w := s.admWord
  ⟨bitsOf (w 0) 0 4, (w 0).testBit 8, BitVec.ofNat 16 (bitsOf (w 0) 16 16),
   BitVec.ofNat 32 (if bitsOf (w 0) 32 32 = 0 then 10000 else bitsOf (w 0) 32 32),
   bitsOf (w 1) 12 28 * 4096, bitsOf (w 2) 12 28 * 4096, bitsOf (w 2) 40 5, BitVec.ofNat 64 (bitsOf (w 3) 0 57), bitsOf (w 3) 57 5,
   (w 3).testBit 62, bitsOf (w 4) 12 28 * 4096, bitsOf (w 5) 0 40, BitVec.ofNat 64 (bitsOf (w 6) 0 57), bitsOf (w 6) 57 5⟩

/-- The first step of R311's checks, apart from reserved bits; a confidential context also needs a secure IDE stream where SEC_CFG says so
(R395). -/
def State.ctxWordsOk (s : State) (w : Ctx) : Bool :=
  decide (s.fld regFeatStatus 0 1 = 1) && decide (s.fld regHifStatus 1 1 = 1) &&
  (match s.part w.part with
   | none => false
   | some p => p.swap || decide (w.saveSize = 0)) &&
  !(s.hif.ctxs.any fun (e : Nat × CtxRun) => e.2.words.asid = w.asid) &&
  decide (4 ≤ w.htLog2) && decide (w.htLog2 ≤ 16) && decide (w.stLog2 ≤ 16) && decide (w.stBase.toNat % 64 = 0) &&
  (w.stEn || (decide (w.stBase = 0) && decide (w.stLog2 = 0))) && decide (w.plcnt ≤ 16) && decide (w.saveSize % 4096 = 0) &&
  s.dpaOk w.part w.ptBase 4096 && s.dpaOk w.part w.htBase (8 * 2 ^ w.htLog2) &&
  (decide (w.saveSize = 0) || s.dpaOk w.part w.saveBase w.saveSize) &&
  !(w.conf && decide (s.fld regSecCfg 0 1 = 1) && decide (s.trust.ide ≠ .secure))

/-- Whether the partition of a new context has no room for it (R311, third step). -/
def State.slotsFull (s : State) (w : Ctx) : Bool :=
  let n := (s.hif.ctxs.filter fun (e : Nat × CtxRun) => e.2.words.part = w.part).length
  match s.part w.part with
  | none => true
  | some p => if p.swap then decide (p.swapMax + 1 ≤ n) else decide (p.slots ≤ n)

/-- The lowest number below `n` that is no key of a table. -/
def freeKey {α : Type} (t : Tbl α) (lo n : Nat) : Option Nat := (List.range n).find? fun k => decide (lo ≤ k) && (Tbl.find t k).isNone

/-- The starting measurement (R391): SHA-384 of the creation words with PTBASE, HTBASE and SAVEBASE zero. -/
def State.firstMeasure (s : State) : BitVec 384 :=
  Config.sha384 ((List.range 8).flatMap fun i =>
    let w := s.admWord i
    leBytes 8 (if i = 1 ∨ i = 4 then 0 else if i = 2 then bitsOf w 40 5 * 2 ^ 40 else w))

/-- Make a context (R311, R312). A confidential one gets a fresh context key, which every channel controller then holds (R386). In a swapping
partition it is resident at once where a slot is free. -/
def State.makeCtx (s : State) (w : Ctx) (key : Option Nat) : State :=
  match freeKey s.hif.ctxs 0 4096 with
  | none => s.adminDone stSlotExhausted 0
  | some id =>
    let (secret, s) := if key.isSome then (let (v, t) := State.freeBits 8 s; (BitVec.ofNat 512 v, t)) else ((0 : BitVec 512), s)
    let room := match s.part w.part with | some p => decide (s.residents w.part < p.slots) | none => false
    let r : CtxRun := ⟨w, if room then s.freeSlot else none, false, 0, 0, 0, [], [], [], 0, false, key, 0, 0, none, s.ms, false, false⟩
    let s2 := s.putCtx id r
    let s3 := match key with
      | some k => ({ s2 with trust := { s2.trust with slots := Tbl.put s2.trust.slots k ⟨secret, s2.firstMeasure, none⟩ } }.setReg (regSecKeyslot (k - 1))
          (BitVec.ofNat 64 (1 + id * 16))).keySlots
      | none => s2
    s3.adminDone 0 (BitVec.ofNat 64 id)

/-- CTX_CREATE (R311, R386). -/
def execCtxCreate (s : State) : Host.Outcome State Fault Refusal :=
  .next (s.admin 1 (some ctxMasks) fun t =>
    let w := t.ctxWords
    if t.ctxWordsOk w = false then t.adminDone stDescInvalid 0
    else
      let (no, t1) := t.check detFeatureAbsent 0 (w.conf && !t.accepted 0)
      if no then t1.adminDone stFeatureAbsent 0
      else if t1.slotsFull w then t1.adminDone stSlotExhausted 0
      else if w.conf then
        let (full, t2) := t1.check detSecKeyFull 0 (freeKey t1.trust.slots 1 193).isNone
        if full then t2.adminDone stDescInvalid 0 else t2.makeCtx w (freeKey t2.trust.slots 1 193)
      else t1.makeCtx w none)

/-- CTX_DESTROY (R310, R334, R421): it waits while a domain is in an entry, and runs until every unit has stopped and every record is written. -/
def execCtxDestroy (s : State) : Host.Outcome State Fault Refusal :=
  .next (if s.entering then s else s.admin 2 (some [ones 0 12]) fun t =>
    let c := t.admCtx
    if (t.ctx c).isNone then t.adminDone stDescInvalid 0
    else ({ t with hif := { t.hif with admin := .ctx c } }.setFld regHifAdmStatus 0 1 1).destroyCtx c 5)

/-! ### Queues (R318) -/

/-- QUEUE_CREATE (R318). -/
def execQueueCreate (s : State) : Host.Outcome State Fault Refusal :=
  .next (s.admin 3 (some [ones 0 12 ||| ones 16 4 ||| ones 24 5 ||| ones 32 12, ones 0 57, ones 0 57]) fun t =>
    let w := t.admWord 0
    let q := bitsOf w 16 4
    let n := bitsOf w 24 5
    match t.ctx t.admCtx with
    | none => t.adminDone stDescInvalid 0
    | some r =>
      if r.lost ∨ (Tbl.find r.queues q).isSome ∨ n < 4 ∨ 16 < n ∨ t.admWord 1 % 4096 ≠ 0 ∨ t.admWord 2 % 4096 ≠ 0 then
        t.adminDone stDescInvalid 0
      else
        (t.putQueue t.admCtx q ⟨n, bitsOf w 32 11, w.testBit 43, BitVec.ofNat 64 (t.admWord 1), BitVec.ofNat 64 (t.admWord 2),
          0, 0, 0, [], 0, false⟩).adminDone 0 0)

/-- QUEUE_DESTROY (R227, R318): it waits until every fetched command of the queue has completed; a SCHED_RUN that names the queue is to fail. -/
def execQueueDestroy (s : State) : Host.Outcome State Fault Refusal :=
  .next (s.admin 4 (some [ones 0 12 ||| ones 16 4]) fun t =>
    let c := t.admCtx
    let n := bitsOf (t.admWord 0) 16 4
    match t.queue c n with
    | none => t.adminDone stDescInvalid 0
    | some q =>
      let t0 := t.putQueue c n { q with closing := true }
      let mark := fun (x : SchedRun) => if x.r.ctx = c ∧ bitsOf x.desc.toNat 348 4 = n then { x with closed := true } else x
      let t1 := { t0 with eng := { t0.eng with scheds := t0.eng.scheds.map mark } }
      ({ t1 with hif := { t1.hif with admin := .queue c n } }.setFld regHifAdmStatus 0 1 1).adminSettle)

/-! ### Objects (R327, R328, R389) -/

/-- An entry of a handle table. -/
def CtxRun.entry (r : CtxRun) (i : Nat) : Handle := Tbl.getD r.handles i ⟨0, none, none⟩

/-- The lowest entry of a handle table without a valid handle. -/
def CtxRun.freeHandle (r : CtxRun) : Option Nat := (List.range (2 ^ r.words.htLog2)).find? fun i => (r.entry i).obj.isNone

/-- Give a context a handle to an object (R328): its entry, and the handle. -/
def CtxRun.giveHandle (r : CtxRun) (i obj : Nat) : CtxRun × Nat :=
  let e := r.entry i
  let g := if e.gen = 0 then 1 else e.gen
  ({ r with handles := Tbl.put r.handles i ⟨g, some obj, none⟩ }, i + g * 65536)

/-- Whether an extent list is usable by a partition (R327): no reserved bit, every extent in one region that the partition may use, outside the
staging and table areas. -/
def State.extentsOk (s : State) (p : Nat) (es : List Nat) : Bool :=
  match es with
  | [] => false
  | e :: _ =>
    let g := s.region (bitsOf e 16 24 * 65536)
    g.isSome && es.all fun x =>
      decide (bitsOf x 0 16 = 0) && decide (s.region (bitsOf x 16 24 * 65536) = g) &&
      s.dpaOk p (bitsOf x 16 24 * 65536) ((bitsOf x 40 24 + 1) * 65536)

/-- The little-endian u64 values of bytes. -/
def u64s : Nat → List (BitVec 8) → List Nat
  | 0, _ => []
  | n + 1, bs => leVal (bs.take 8) :: u64s n (bs.drop 8)

/-- Whether an extent list of `n` bytes at a DPA can be read now. -/
def State.listReach (s : State) (dpa n : Nat) : Reach :=
  match (linesOf dpa n).map fun l => s.reachLine .noone none l (!s.hits l (offsIn l dpa n)) with
  | rs => reachOf rs

/-- Register an object and give its creator the handle (R327, R389). -/
def State.makeObj (s : State) (c : Nat) (r : CtxRun) (es : List Nat) (i : Nat) : State :=
  match freeKey s.hif.objs 0 (min 0x100000 (s.hif.objs.length + 1)) with
  | none => s.adminDone stDescInvalid 0
  | some o =>
    let ext := es.map fun x => (bitsOf x 16 24, bitsOf x 40 24 + 1)
    let tag := r.keySlot.getD 0
    let g := (s.region (bitsOf (es.headD 0) 16 24 * 65536)).getD 0
    let v : Obj := ⟨ext, g, c, Tbl.getD s.hif.objGens o 0, 1, tag⟩
    let s1 := { s with hif := { s.hif with objs := Tbl.put s.hif.objs o v } }
    let s2 := if tag = 0 then s1 else
      ((extentLines ext).foldl (fun (t : State) l => t.zeroLine tag l) s1).setFld (regSecKeyslot (tag - 1)) 3 1 1
    let (r1, h) := r.giveHandle i o
    (s2.putCtx c r1).adminDone 0 (BitVec.ofNat 64 h)

/-- OBJ_CREATE (R327, R364, R389). The extent list is read for the host: a poisoned or denied line refuses the command and loses nothing. The
zeroing of a confidential object's lines waits while a page of them is protected. -/
def execObjCreate (s : State) : Host.Outcome State Fault Refusal :=
  .next (s.admin 5 (some [ones 0 12, ones 0 40, ones 0 32]) fun t =>
    let a := t.admWord 1
    let n := t.admWord 2
    match t.ctx t.admCtx with
    | none => t.adminDone stDescInvalid 0
    | some r =>
      if a % 8 ≠ 0 ∨ n = 0 ∨ 65536 < n ∨ (t.region a).isNone ∨ (t.region (a + 8 * n - 1)).isNone then t.adminDone stDescInvalid 0
      else
        match t.listReach a (8 * n) with
        | .failed => t.adminDone stDescInvalid 0
        | .asleep d => s.noteDom .noone d
        | .busy => s
        | .ok =>
          let es := u64s n (t.devBytes a (8 * n))
          let rd := t.devRead (plainReq none) a (8 * n)
          if rd.poison ∨ rd.st.extentsOk r.words.part es = false then rd.st.adminDone stDescInvalid 0
          else
            match r.freeHandle with
            | none => rd.st.adminDone stDescInvalid 0
            | some i =>
              if r.keySlot.isSome ∧ rd.st.anyWaits (extentLines (es.map fun x => (bitsOf x 16 24, bitsOf x 40 24 + 1))) then s
              else rd.st.makeObj t.admCtx r es i)

/-- The context and entry of a handle command, where the handle is valid. -/
def State.admHandle (s : State) : Option (CtxRun × Nat × Handle) :=
  match s.ctx s.admCtx with
  | none => none
  | some r =>
    let h := bitsOf (s.admWord 0) 32 32
    let i := h % 65536
    let e := r.entry i
    if i < 2 ^ r.words.htLog2 ∧ e.gen = h / 65536 ∧ e.obj.isSome then some (r, i, e) else none

/-- OBJ_FREE (R328). -/
def execObjFree (s : State) : Host.Outcome State Fault Refusal :=
  .next (s.admin 6 (some [ones 0 12 ||| ones 32 32]) fun t =>
    match t.admHandle with
    | none => t.adminDone stDescInvalid 0
    | some (r, i, e) =>
      let g := if e.gen = 0xFFFF then 1 else e.gen + 1
      ((t.putCtx t.admCtx { r with handles := Tbl.put r.handles i ⟨g, none, none⟩ }).unrefs e.obj.toList).adminDone 0 0)

/-- OBJ_EXPORT (R328, R389): the nonce is the device's choice; a handle exported again keeps its key. -/
def execObjExport (s : State) : Host.Outcome State Fault Refusal :=
  .next (s.admin 7 (some [ones 0 12 ||| ones 32 32]) fun t =>
    match t.admHandle with
    | none => t.adminDone stDescInvalid 0
    | some (r, i, e) =>
      match e.obj.bind fun o => (Tbl.find t.hif.objs o).map fun (v : Obj) => (o, v) with
      | none => t.adminDone stDescInvalid 0
      | some (o, v) =>
        if v.tag ≠ 0 then t.adminDone stDescInvalid 0
        else
          let (x, t1) := t.free
          let nonce : BitVec 32 := e.nonce.getD (BitVec.ofNat 32 x.toNat)
          (t1.putCtx t1.admCtx { r with handles := Tbl.put r.handles i { e with nonce := some nonce } }).adminDone 0
            (BitVec.ofNat 64 (o + v.gen * 2 ^ 20 + nonce.toNat * 2 ^ 32)))

/-- Whether a key matches a valid export (R328). -/
def State.keyValid (s : State) (key : Nat) : Bool :=
  let o := key % 0x100000
  (Tbl.find s.hif.objs o).any (fun (v : Obj) => decide (v.gen = bitsOf key 20 12)) &&
  s.hif.ctxs.any fun (c : Nat × CtxRun) => c.2.handles.any fun (h : Nat × Handle) =>
    h.2.obj == some o && h.2.nonce == some (BitVec.ofNat 32 (bitsOf key 32 32))

/-- OBJ_IMPORT (R328). -/
def execObjImport (s : State) : Host.Outcome State Fault Refusal :=
  .next (s.admin 8 (some [ones 0 12, ones 0 64]) fun t =>
    match t.ctx t.admCtx with
    | none => t.adminDone stDescInvalid 0
    | some r =>
      match (if t.keyValid (t.admWord 1) then r.freeHandle else none) with
      | none => t.adminDone stDescInvalid 0
      | some i =>
        let o := t.admWord 1 % 0x100000
        let (r1, h) := r.giveHandle i o
        ((t.putCtx t.admCtx r1).addRef o).adminDone 0 (BitVec.ofNat 64 h))

/-! ### CTX_QUERY (R314) -/

/-- Bytes of the objects for which a context holds a valid handle, those of region 0 (SPREAD) or the others (NEAR). -/
def State.objBytes (s : State) (r : CtxRun) (spread : Bool) : Nat :=
  ((r.handles.filterMap fun (h : Nat × Handle) => h.2.obj).eraseDups.map fun o =>
    match Tbl.find s.hif.objs o with
    | some v => if decide (v.region = 0) = spread then (v.extents.map fun e => e.2 * 65536).sum else 0
    | none => 0).sum

/-- CTX_MEM of a context (R314). -/
def State.ctxMem (s : State) (r : CtxRun) (k : Nat) : Nat :=
  match k with
  | 0 => s.objBytes r false
  | 1 => s.objBytes r true
  | 2 => r.words.saveSize
  | _ => 8 * 2 ^ r.words.htLog2

/-- CTX_STATE of a context (Table 11.10). -/
def CtxRun.stateWord (r : CtxRun) : Nat := if r.shownLost then 2 + r.code * 256 else 0

/-- A context's two figures are brought up to date (R314, log 17): ELAPSED rises by a free amount where a command of it has run since, and BUSY
where an instruction of it has been issued or a port of an array of it has advanced. -/
def State.tickCtx (s : State) (c : Nat) : State :=
  match s.ctx c with
  | none => s
  | some r =>
    let (x, s1) := if c ∈ s.worked then s.free else (0, s)
    let (y, s2) := if r.ran || r.running then s1.free else (0, s1)
    let b := r.busy.toNat + x.toNat
    let e := r.elapsed.toNat + 10 * y.toNat
    { s2.putCtx c { r with ran := r.running, busy := BitVec.ofNat 64 (min b (2 ^ 64 - 1)), elapsed := BitVec.ofNat 64 (min e (2 ^ 64 - 1)) } with
      worked := s2.worked.filter fun k => k ≠ c }

/-- CTX_QUERY (R314). -/
def execCtxQuery (s : State) : Host.Outcome State Fault Refusal :=
  .next (s.admin 9 (some [ones 0 12]) fun t =>
    let c := t.admCtx
    let t1 := t.tickCtx c
    match t1.ctx c with
    | none => t1.adminDone stDescInvalid 0
    | some r =>
      let ws := [r.stateWord + (if r.slot.isSome then 2 ^ 63 else 0), r.busy.toNat, r.elapsed.toNat,
        t1.ctxMem r 0, t1.ctxMem r 1, t1.ctxMem r 2, t1.ctxMem r 3, r.faultVa.toNat]
      ((List.range 8).foldl (fun (u : State) i => u.setReg (regHifAdmData i) (BitVec.ofNat 64 (ws.getD i 0))) t1).adminDone 0 0)

end Sys2Proof.Machine
end

