-- ==== Sys2Proof/Machine/Detect.lean ====
section
/-!
DEFINITION. The detectors' control registers, the injectors and the reading of the error log (16 R429 to R434).
-/
namespace Sys2Proof.Machine

/-! ## Counters (R429) -/

/-- Every counter at 0. -/
def State.clearCounters (s : State) : State :=
  { s with regs := { s.regs with vals := s.regs.vals.filter fun (e : Nat × BitVec 64) =>
    !(decide (regDetCounter 0 ≤ e.1) && decide (e.1 < regDetCounter 0x61)) } }

/-- A write to DET_CTRL (Table 16.2). -/
def State.detCtrl (s : State) (v : BitVec 64) : State := if v.getLsbD 0 then s.clearCounters else s

/-- CLEAR_ALL (R429). -/
def execClearAll (s : State) : Host.Outcome State Fault Refusal :=
  .next (s.regWrite regDetCtrl 1 false fun t => t.detCtrl 1)

/-! ## The error log (R429, R434) -/

/-- The 64 bytes of a record (Table 16.6). -/
def LogRec.bytes (r : LogRec) : List (BitVec 8) :=
  let b := leBytes 2 0x4C45 ++ leBytes 1 r.typ ++ leBytes 1 (b2n r.inj) ++ leBytes 4 r.boot ++ leBytes 8 r.time ++ leBytes 1 r.det ++
    leBytes 1 r.code ++ leBytes 2 r.unit ++ leBytes 2 r.ctx ++ leBytes 2 0 ++ leBytes 8 r.arg ++ leBytes 28 0
  b ++ leBytes 4 (Config.crc32 b).toNat

/-- The record of a number, where it is retained: the newest has the number DET_LOG_TOTAL. -/
def State.logAt (s : State) (n : Nat) : Option LogRec :=
  let total := (s.reg regDetLogTotal).toNat
  if n = 0 ∨ total < n then none else s.log.recs[total - n]?

/-- A write to DET_LOG_SEL starts the read (R429). -/
def State.logSel (s : State) (v : BitVec 64) : State := (s.setReg regDetLogSel v).setReg regDetLogStat 1

/-- DET_LOG_SEL_WRITE (R429). -/
def execDetLogSelWrite (v : BitVec 64) (s : State) : Host.Outcome State Fault Refusal :=
  .next (s.regWrite regDetLogSel v false fun t => t.logSel v)

/-- Show a record's bytes, eight to a register. -/
def State.showRec (s : State) (b : List (BitVec 8)) : State :=
  (List.range 8).foldl (fun (t : State) k => t.setReg (regDetLogRec k) (BitVec.ofNat 64 (leVal ((b.drop (8 * k)).take 8)))) s

/-- DET_LOG_READ_DONE (R429): the record, or, where it is not retained or fails its CRC, VALID = 0 and bytes the spec does not give. -/
def execDetLogReadDone (s : State) : Host.Outcome State Fault Refusal :=
  .next (
    if s.fld regDetLogStat 0 1 = 0 then s
    else
      match s.logAt (s.reg regDetLogSel).toNat with
      | some r =>
        if r.ok then (s.showRec r.bytes).setReg regDetLogStat 2
        else (s.showRec r.bytes).setReg regDetLogStat 0
      | none =>
        (List.range 8).foldl (fun (t : State) k => let (v, t1) := t.free; t1.setReg (regDetLogRec k) v) (s.setReg regDetLogStat 0))

/-! ## Injectors (R430, R431) -/

/-- How many units a kind has (Table 16.4), by the kind's place in T S N A R E D H M. -/
def kindUnits (k : Nat) : Nat :=
  match k with
  | 0 => 4096
  | 1 => 256
  | 2 => 512
  | 3 => 4608
  | 4 => 32
  | 5 => 4
  | 6 => 282
  | _ => 1

/-- Whether a POINT and a UNIT may be armed (R431). -/
def armable (point unit : Nat) : Bool := decide (point < 0x61) && (decide (unit = 0xFFFF) || decide (unit < kindUnits (detKind point)))

/-- Whether an injector is armed. -/
def State.isArmed (s : State) (j : Nat) : Bool := decide (s.fld (regInjCtrl j) 2 1 = 1)

/-- Whether the image in effect enables injection (R293, R430). -/
def State.injects (s : State) : Bool := s.load.img.any fun i => i.inject

/-- Whether a write to INJ_CTRL breaks R431; `period` is what INJ_PERIOD holds. -/
def State.injBad (s : State) (j : Nat) (v : BitVec 64) (period : Nat) : Bool :=
  let old := s.reg (regInjCtrl j)
  (s.isArmed j && (decide (field v 3 1 ≠ field old 3 1) || decide (field v 8 24 ≠ field old 8 24))) ||
  (v.getLsbD 0 && v.getLsbD 1) ||
  (s.injects && v.getLsbD 0 && (!armable (field v 8 8) (field v 16 16) || (v.getLsbD 3 && decide (period = 0))))

/-- A write to INJ_CTRL that breaks no rule (Table 16.3): the fields, then DISARM or ARM; only an image with INJECT arms (R430). -/
def State.injSet (s : State) (j : Nat) (v : BitVec 64) : State :=
  let s1 := s.regPlain (regInjCtrl j) v
  if v.getLsbD 1 then s1.disarm j
  else if v.getLsbD 0 && s1.injects then
    (({ s1 with armed := Tbl.put s1.armed j 0 }.setFld (regInjCtrl j) 2 1 1).setFld regInjStatus j 1 1).setReg (regInjFired j) 0
  else s1

/-- A write to INJ_CTRL (R431). -/
def State.injCtrl (s : State) (j : Nat) (v : BitVec 64) : State :=
  if s.injBad j v (s.fld (regInjPeriod j) 0 32) then s.violation (regInjCtrl j) 0 false else s.injSet j v

/-- A write to INJ_SKIP or INJ_PERIOD: dropped and counted while the injector is armed (R431). -/
def State.injParam (s : State) (j off : Nat) (v : BitVec 64) : State :=
  if s.isArmed j then s.violation off 0 false else s.regPlain off v

/-- INJ_CTRL_ARM (R431): a write with ARM = 1. -/
def execInjCtrlArm (j : Nat) (v : BitVec 64) (s : State) : Host.Outcome State Fault Refusal :=
  .next (if 16 ≤ j then s else s.regWrite (regInjCtrl j) (v ||| 1) false fun t => t.injCtrl j (v ||| 1))

/-- INJ_CTRL_DISARM (R431): a write with DISARM = 1. -/
def execInjCtrlDisarm (j : Nat) (v : BitVec 64) (s : State) : Host.Outcome State Fault Refusal :=
  .next (if 16 ≤ j then s else s.regWrite (regInjCtrl j) (v ||| 2) false fun t => t.injCtrl j (v ||| 2))

end Sys2Proof.Machine
end

