-- ==== Sys2Proof/Machine/HostIf.lean ====
section
/-!
DEFINITION. The host interface's doorbells, feature block, table area, invalidations, BAR4 accesses and interrupts (11 R300, R303, R305,
R308, R309, R317, R319).
-/
namespace Sys2Proof.Machine

/-! ## Doorbells (R319) -/

/-- The context and queue whose doorbell a 4-byte write at a BAR2 offset rings. -/
def State.doorbellAt (s : State) (off size : Nat) : Option (Nat × Nat × Queue) :=
  if size = 4 ∧ off % 8 = 0 ∧ off % 4096 < 128 then
    (s.queue (off / 4096) (off % 4096 / 8)).map fun q => (off / 4096, off % 4096 / 8, q)
  else none

/-- Whether a doorbell value is neither the queue's TAIL nor within the room of its ring. -/
def Queue.badDoorbell (q : Queue) (v : BitVec 32) : Bool := decide (2 ^ q.log2n - (q.tail - q.done).toNat < (v - q.tail).toNat)

/-- DOORBELL (R319). Before a load a BAR2 write is dropped as R300 says. -/
def execDoorbell (off size : Nat) (v : BitVec 32) (s : State) : Host.Outcome State Fault Refusal :=
  .next (
    if s.hostUp = false then s.hostRefused false
    else if s.loaded = false then s.preloadDrop
    else
      match s.doorbellAt off size with
      | none => s.note detDoorbellInvalid 0
      | some (c, n, q) =>
        let (bad, s1) := s.check detDoorbellInvalid 0 (q.badDoorbell v)
        if bad then s1 else s1.putQueue c n { q with tail := v })

/-! ## Invalidation (R317) -/

/-- Remove cached translations of an address space: all, or those that meet the aligned range of 2^`log2` bytes around `va`. -/
def State.dropXlat (s : State) (asid : BitVec 16) (all : Bool) (log2 va : Nat) : State :=
  { s with mem := { s.mem with xlat := s.mem.xlat.filter fun e =>
    !(decide (e.asid = asid) && (all || decide (e.page * 2 ^ e.log2 / 2 ^ (max log2 e.log2) = va / 2 ^ (max log2 e.log2)))) } }

/-- A write to XLT_INV_CTRL (R317): nothing without GO; dropped and counted while one runs or for a LOG2 out of range; otherwise the entries
go, and the address space stays noted until the invalidation ends. -/
def State.xltInv (s : State) (v : BitVec 64) : State :=
  s.regWrite regXltInvCtrl v false fun t =>
    let all := v.getLsbD 24
    let log2 := field v 16 6
    if v.getLsbD 63 = false then t
    else if t.fld regXltInvStatus 0 1 = 1 ∨ (all = false ∧ (log2 < 12 ∨ 57 < log2)) then t.violation regXltInvCtrl 0 false
    else
      let asid : BitVec 16 := BitVec.ofNat 16 (field v 0 16)
      ((t.dropXlat asid all log2 (t.reg regXltInvVa).toNat).setReg regXltInvCtrl (BitVec.ofNat 64 asid.toNat)).setFld regXltInvStatus 0 1 1

/-- XLT_INV_RANGE (R317). -/
def execXltInvRange (v : BitVec 64) (s : State) : Host.Outcome State Fault Refusal :=
  .next (if v.getLsbD 24 then s else s.xltInv v)

/-- XLT_INV_ALL (R317). -/
def execXltInvAll (v : BitVec 64) (s : State) : Host.Outcome State Fault Refusal :=
  .next (if v.getLsbD 24 then s.xltInv v else s)

/-- Whether an access of an address space that was translated is not performed yet (R317): a store that waits, or a request to another
module without an answer. -/
def State.xltBusy (s : State) (asid : BitVec 16) : Bool :=
  let mine := fun (c : Nat) => decide (s.asidOf (some c) = some asid.toNat)
  (s.tiles.any fun (t : Nat × Tile) => t.2.storeQ.any fun e => mine e.ctx) || s.ridge.reqs.any fun q => mine q.ctx

/-- XLT_INV_DONE (R317). -/
def execXltInvDone (s : State) : Host.Outcome State Fault Refusal :=
  .next (
    if s.fld regXltInvStatus 0 1 = 0 ∨ s.xltBusy (BitVec.ofNat 16 (s.reg regXltInvCtrl).toNat) then s
    else ((s.setReg regXltInvCtrl 0).setFld regXltInvStatus 0 1 0).bumpFld regXltInvStatus 32 32 1)

/-! ## Features (R305) and the table area (R308) -/

/-- FEAT_ACCEPT_WRITE (R305): of ACCEPT_LO or, where `high`, ACCEPT_HI. -/
def execFeatAcceptWrite (high : Bool) (v : BitVec 64) (s : State) : Host.Outcome State Fault Refusal :=
  let off := if high then regFeatAcceptHi else regFeatAcceptLo
  .next (s.regWrite off v false fun t =>
    let offer := t.reg (if high then regFeatOfferHi else regFeatOfferLo)
    let (bad, t1) := t.check detFeatReject 0 (decide (v &&& ~~~offer ≠ 0) || decide (t.fld regFeatStatus 0 1 = 1))
    if bad then t1 else t1.setReg off v)

/-- LOCK (R301, R305): the accepted set stays fixed; RWL fields lock too where the image says they lock here. -/
def execFeatLock (s : State) : Host.Outcome State Fault Refusal :=
  .next (s.regWrite regFeatCmd 1 false fun t =>
    let t1 := t.setFld regFeatStatus 0 1 1
    if t.load.img.any (fun i => i.lock) then { t1 with load := { t1.load with locked := true } } else t1)

/-- Whether HIF_TBL_BASE names a usable area (R308): 36 MiB in one region, outside the staging areas. -/
def State.tblOk (s : State) : Bool :=
  let b := s.fld regHifTblBase 16 24 * 65536
  match s.region b with
  | none => false
  | some g => decide (b + 0x2400000 ≤ s.fld (regCisRgnBase g) 0 40 + s.fld (regCisRgnSize g) 0 40) && !s.inStaging b 0x2400000

/-- TBL_OK as it now stands. -/
def State.setTblOk (s : State) : State := s.setFld regHifStatus 1 1 (b2n s.tblOk)

/-- HIF_TBL_BASE_WRITE (R308): dropped and counted while a context or object exists. -/
def execHifTblBaseWrite (v : BitVec 64) (s : State) : Host.Outcome State Fault Refusal :=
  .next (s.regWrite regHifTblBase v false fun t =>
    if t.hif.ctxs ≠ [] ∨ t.hif.objs ≠ [] then t.violation regHifTblBase 0 false
    else (t.regPlain regHifTblBase v).setTblOk)

/-! ## BAR4 (R303, R272, Table 14.4) -/

/-- The DPA of a BAR4 offset. -/
def State.bar4Dpa (s : State) (off : Nat) : Nat := s.fld regHifBar4Base 28 12 * 2 ^ 28 + off

/-- Judge whether some byte of a BAR4 request has no memory, and count it (R303). -/
def State.bar4Range (s : State) (dpa n : Nat) : State :=
  (s.check detBar4Range 0 ((List.range n).any fun i => (s.region (dpa + i)).isNone)).2

/-- What stands between a BAR4 request and its lines. -/
def State.bar4Reach (s : State) (dpa n : Nat) (data write : Bool) : Reach :=
  let rs := (linesOf dpa n).map fun l =>
    match s.reachLine (.host write) none l (data && !s.hits l (offsIn l dpa n)) with
    | .ok => if write && s.writeWaits l then .busy else .ok
    | r => r
  reachOf rs

/-- Answer a BAR4 read that consumed poison: EP set, every byte 0xFF (R272). -/
def State.bar4Poison (s : State) (n : Nat) : State := (s.emit (.hostRead (List.replicate n 0xFF) true)).tagSettle

/-- A BAR4 request that waits takes its turns (R254). -/
def State.bar4Wait (s : State) (dpa n : Nat) (write : Bool) : State := s.takeTurn (.host write) none (linesOf dpa n)

/-- BAR4_READ (R303, R272, R308, R388). Before a load it reads all ones (R300). -/
def execBar4Read (off n : Nat) (s : State) : Host.Outcome State Fault Refusal :=
  .next (
    if s.hostUp = false then s.hostRefused true
    else if s.loaded = false then s.emit (.hostRead (List.replicate n 0xFF) false)
    else
      let a := s.bar4Dpa off
      match s.bar4Reach a n true false with
      | .failed => s.bar4Poison n
      | .asleep d => s.noteDom (.host false) d
      | .busy => s.bar4Wait a n false
      | .ok =>
        let s1 := (s.leaveTurn (.host false) none (linesOf a n)).bar4Range a n
        let (data, s1) := s1.shown a n
        let denied := (linesOf a n).any fun l => tagDenied 0 (s1.lineTag l)
        let r := s1.devRead (plainReq none) a n
        let (poison, s2) := r.st.judge detHostPoisonRead 0 r.poison
        if poison then (if denied then s2 else s2.det detHostPoisonRead).bar4Poison n else s2.emit (.hostRead data false))

/-- BAR4_WRITE (R303, R364, R388): it waits while a page it writes is protected; a line of another tag drops it there. -/
def execBar4Write (off : Nat) (data : List (BitVec 8)) (s : State) : Host.Outcome State Fault Refusal :=
  .next (
    if s.hostUp = false then s.hostRefused false
    else if s.loaded = false then s.preloadDrop
    else
      let a := s.bar4Dpa off
      match s.bar4Reach a data.length false true with
      | .failed => s
      | .asleep d => s.noteDom (.host true) d
      | .busy => s.bar4Wait a data.length true
      | .ok => (State.devWrite (data.length / 128 + 2) ((s.leaveTurn (.host true) none (linesOf a data.length)).bar4Range a data.length) (plainReq none) a data).st)

/-- The new value of a host AtomicOp (Table 11.1): 0 FetchAdd, 1 Swap, 2 CAS. -/
def hostAtomNew (op n old b c : Nat) : Option Nat :=
  match op with
  | 0 => some ((old + b) % 2 ^ (8 * n))
  | 1 => some (b % 2 ^ (8 * n))
  | _ => if old = b % 2 ^ (8 * n) then some (c % 2 ^ (8 * n)) else none

/-- BAR4_ATOMIC (R303, R81): at an address with no memory the old value is 0 and nothing is written. A request not aligned to its
size is a malformed TLP (R346).  -/
def execBar4Atomic (off op size : Nat) (b c : BitVec 64) (s : State) : Host.Outcome State Fault Refusal :=
  .next (
    if s.hostUp = false then s.hostRefused true
    else if s.loaded = false then s.preloadDrop.emit (.hostRead (List.replicate size 0xFF) false)
    else if off % size ≠ 0 then s.tlpRefused true true
    else
      let a := s.bar4Dpa off
      let s1 := s.bar4Range a size
      if (s1.region a).isNone then s1.emit (.hostRead (leBytes size 0) false)
      else
        let denied := tagDenied 0 (s1.lineTag (a / 128))
        match s1.devAtomic (.host true) (plainReq none) a size (fun old => hostAtomNew op size old b.toNat c.toNat) with
        | .wait t => t
        | .poison _ t => (if denied then t else t.det detHostPoisonRead).bar4Poison size
        | .done old t => t.emit (.hostRead (leBytes size old) false))

/-! ## Interrupts (R309) -/

/-- EVR_INTERRUPT (R309). -/
def execEvrInterrupt (s : State) : Host.Outcome State Fault Refusal :=
  .next (
    if s.hif.evrDue then { s with hif := { s.hif with evrDue := false } }.emit (.msix (s.fld regHifEvrCfg 16 11)) else s)

end Sys2Proof.Machine
end

