-- ==== Sys2Proof/Machine/RidgePort.lean ====
section
/-!
DEFINITION. The Ridge ports (12 R339 to R347, R349; 14 R396): bring-up and HELLO, retrains, acknowledgements, replay, credits, and the bundle
changes that hold frames back.
-/
namespace Sys2Proof.Machine

/-! ## Port states (R339, R346) -/

/-- Set STATE of a port; the change of bundles holds frames back, and frames that can go leave. -/
def State.setPortState (s : State) (p v : Nat) : State := ((s.setFld (regRdgPortStatus p) 4 4 v).fenceChange s).drainHeld

/-- A retrain (R346): the port goes to `v` (TRAINING, or RETRAIN after a loss of signal), keeps its replay buffer, and counts. -/
def State.retrain (s : State) (p v : Nat) : State :=
  if s.portRole p = 0 ∨ s.portState p = 8 then s
  else
    let s1 := ((s.det detRdgRetrain).bumpFld (regRdgPortErr p) 48 16 1).setFld (regRdgPortStatus p) 8 8 0
    let q := s1.port p
    (s1.setPort p { q with replays := [], overruns := [], keys := none }).setPortState p v

/-- Judge an injected retrain at a port (R432), or a natural one. -/
def State.judgeRetrain (s : State) (p : Nat) (bad : Bool) : State :=
  let (b, s1) := s.judge detRdgRetrain p bad
  if b then s1.retrain p 1 else s1

/-- The identity record that a port's HELLO carries (R339). -/
def State.helloRec (s : State) (p : Nat) : HelloRec :=
  ⟨BitVec.ofNat 20 s.node, BitVec.ofNat 32 (s.fld regRdgBoard 0 32), BitVec.ofNat 3 (s.fld regRdgBoard 32 3), s.reg regIdentSerial,
   BitVec.ofNat 5 p, BitVec.ofNat 4 (s.portRole p)⟩

/-- A port sends its HELLO (R339, R396): its record, AK's certificate chain, and a fresh public key that AK signs. -/
def State.sendHello (s : State) (p : Nat) : State :=
  let (k, s1) := State.freeBits 6 s
  let eph := BitVec.ofNat 384 k
  let pub := Config.p384Pub eph
  (s1.setPort p { s1.port p with eph := eph }).emit (.hello p (s1.helloRec p) s1.certChain pub (s1.akSign pub))

/-- PORT_TRAINING_DONE (R336, R339): with all eight lanes locked, the port enters HELLO and sends its record. Its die is at RUN (R410), and its
Ridge reference is there (CLK_REF). -/
def execPortTrainingDone (p : Nat) (lanes : BitVec 8) (s : State) : Host.Outcome State Fault Refusal :=
  .next (
    if (s.portState p = 1 ∨ s.portState p = 4) ∧ s.portAwake p then
      let s1 := (s.setFld (regRdgPortStatus p) 8 8 lanes.toNat).setFld regClkRef (1 + p / 16) 1 1
      if lanes = 0xFF then (s1.setFld (regRdgPortStatus p) 4 4 2).sendHello p else s1
    else s)

/-- Whether the reference of a CLK_REF bit is still there when a link that runs from it has gone (R448): a free choice. -/
def State.seeRefAt (s : State) (bit : Nat) : State :=
  let (there, s1) := s.choose
  s1.setFld regClkRef bit 1 (b2n there)

/-- As `seeRefAt`, for the Ridge reference of a port's die. -/
def State.seeRef (s : State) (p : Nat) : State := s.seeRefAt (1 + p / 16)

/-- PORT_TRAINING_TIMEOUT (R339, R448): the stage starts again; without its reference the port stays in it. -/
def execPortTrainingTimeout (p : Nat) (s : State) : Host.Outcome State Fault Refusal :=
  .next (
    if s.portState p = 1 ∨ s.portState p = 4 then ((s.setFld (regRdgPortStatus p) 8 8 0).setFld (regRdgPortStatus p) 4 4 1).seeRef p else s)

/-- RETRAIN (R339, Table 12.10): a write of RETRAIN = 1. -/
def execPortRetrain (p : Nat) (s : State) : Host.Outcome State Fault Refusal :=
  .next (s.regWrite (regRdgPortCtrl p) (BitVec.ofNat 64 (1 + (s.reg (regRdgPortCtrl p)).toNat)) false fun t => t.retrain p 1)

/-- A write to RDG_PORT_CTRL (Table 12.10): DISABLE first, then RETRAIN. -/
def State.portCtrl (s : State) (p : Nat) (v : BitVec 64) : State :=
  let on := v.getLsbD 1
  let s1 := s.setReg (regRdgPortCtrl p) (v &&& 2)
  let s2 :=
    if on then (if s.portState p = 8 then s1 else (s1.setFld (regRdgPortStatus p) 8 8 0).setPortState p 8)
    else if s.portState p = 8 then s1.setPortState p (if s.portRole p = 0 then 0 else 1)
    else s1
  if v.getLsbD 0 then s2.retrain p 1 else s2

/-- DISABLE (R339, Table 12.10). -/
def execPortDisable (p : Nat) (on : Bool) (s : State) : Host.Outcome State Fault Refusal :=
  .next (s.regWrite (regRdgPortCtrl p) (BitVec.ofNat 64 (2 * b2n on)) false fun t => t.portCtrl p (BitVec.ofNat 64 (2 * b2n on)))

/-- Whether a port that is training or beyond can lose its signal. -/
def State.portLive (s : State) (p : Nat) : Bool := decide (1 ≤ s.portState p) && decide (s.portState p ≤ 7)

/-- SIGNAL_LOSS (R347). -/
def execSignalLoss (p : Nat) (s : State) : Host.Outcome State Fault Refusal :=
  .next (if s.portLive p then (s.retrain p 4).seeRef p else s)

/-- LINK_REKEY (R396): a direction that reaches 2^47 control units forces a retrain, which agrees new keys. -/
def execLinkRekey (p : Nat) (s : State) : Host.Outcome State Fault Refusal :=
  .next (if s.portState p = 3 ∧ 2 ^ 47 ≤ max (s.port p).txUnits (s.port p).rxUnits then s.retrain p 1 else s)

/-- FEC_LOCK_LOST (R346). -/
def execFecLockLost (p : Nat) (s : State) : Host.Outcome State Fault Refusal :=
  .next (if s.portState p = 2 ∨ s.portState p = 3 then s.retrain p 1 else s)

/-! ## HELLO (R339, R347, R349, R396) -/

/-- Whether a partner's role matches (Table 12.2). -/
def roleMatch (mine theirs : Nat) : Bool :=
  match mine with
  | 1 => theirs = 1
  | 2 => theirs = 3
  | 3 => theirs = 2
  | 4 => theirs = 4
  | _ => false

/-- The windows that a HELLO shows in conflict (R349): the same board and window with another serial. -/
def State.helloWindows (s : State) (p : Nat) (h : HelloRec) : State :=
  if h.boardId.toNat ≠ s.fld regRdgBoard 0 32 then s
  else
    let w := h.win.toNat
    let seen := if w = s.fld regRdgBoard 32 3 then some (s.reg regIdentSerial) else Tbl.find s.ridge.serials w
    let (bad, s1) := s.check detRdgWinConflict p (seen.any fun x => x ≠ h.serial)
    if bad then s1.setFld regRdgBoard (56 + w) 1 1
    else if seen.isNone then { s1 with ridge := { s1.ridge with serials := Tbl.put s1.ridge.serials w h.serial } } else s1

/-- Whether a HELLO proves its sender (R396): a chain that holds, to a Fjarber key that is not revoked, and, where RDG_OWNER asks for it, an owner key
in common. -/
def State.peerProven (s : State) (k : PeerKey) : Bool :=
  k.ok && ((List.range 4).any fun i => s.fjLive i && decide (s.hash48 (regSecFjHash i) = k.root)) &&
  (decide (s.fld regSecCfg 1 1 = 0) ||
    (List.range 4).any fun i => decide (s.fld regSecStatus i 1 = 1) && decide (s.hash48 (regSecOwnerHash i) ∈ k.owners))

/-- The link keys that a port and its partner agree (R396), one for the direction from each. -/
def State.agreeKeys (s : State) (p : Nat) (h : HelloRec) (k : PeerKey) : LinkKeys :=
  let secret := Config.ecdh (s.port p).eph k.pub
  ⟨Config.linkKey secret (s.reg regIdentSerial) (BitVec.ofNat 5 p), Config.linkKey secret h.serial h.port⟩

/-- The port is UP (R339, R347, R396): with the same peer as before, its sequences go on and its replay buffer is sent again as the peer's credits
come; with another, or for the first time, the sequences start at 0 and the frames of the replay buffer go back through route lookup, before every
frame that waits. Its free receive space goes to the peer as credits. -/
def State.portUp (s : State) (p : Nat) (h : HelloRec) (k : PeerKey) : State :=
  let q := s.port p
  let me := some (h.serial, h.port)
  let keys := some (s.agreeKeys p h k)
  let (other, s0) := s.judge detRdgPeerChange p (q.peer.isSome && decide (q.peer ≠ me))
  let st := (s0.setFld (regRdgPortStatus p) 16 5 h.port.toNat).setFld (regRdgPortStatus p) 21 4 h.role.toNat
  let s1 := (st.setFld (regRdgPortPeer p) 0 20 h.node.toNat).setFld (regRdgPortPeer p) 32 32 h.boardId.toNat
  let s2 :=
    if s.portRole p = 1 ∧ h.boardId.toNat = s.fld regRdgBoard 0 32 then s1.setFld regRdgBoard (48 + h.win.toNat) 1 1 else s1
  let again := !other && decide (q.peer = me)
  let s3 := s2.setPort p (if again then { q with resend := q.replay, credits := [0, 0, 0, 0], peer := me, keys := keys, eph := 0, txUnits := 0, rxUnits := 0 }
    else { Port.empty with peer := me, keys := keys })
  let s4 := (if other then s3.det detRdgPeerChange else s3).linkOut p 3 0 (s3.vcFree p)
  let s5 := s4.setPortState p 3
  if again then s5
  else
    let back := q.replay.map fun (e : BitVec 16 × Frame) => HeldFrame.mk e.2 (decide (e.2.src.toNat = s5.node)) none
    State.drainHeld { s5 with ridge := { s5.ridge with held := back ++ s5.ridge.held } }

/-- HELLO (R339, R396): the checks of a port's partner. -/
def execLinkHello (p : Nat) (h : HelloRec) (k : PeerKey) (s : State) : Host.Outcome State Fault Refusal :=
  .next (
    if s.portState p ≠ 2 ∨ s.portAwake p = false then s
    else
      let s1 := s.helloWindows p h
      let role := !roleMatch (s.portRole p) h.role.toNat
      let dup := decide (h.node.toNat = s.node)
      let keyOk := s.peerProven k
      let (bad, s2) := s1.check detRdgBringup p (role || dup || !keyOk)
      if bad then s2.setPortState p (if role then 5 else if dup then 6 else if keyOk then 5 else 7)
      else s2.portUp p h k)

/-! ## Acknowledgement, replay and credits (R341, R342, R346) -/

/-- A link frame of the partner arrives on a port that is UP; at a sleeping die it is a wake event, and is presented again. -/
def State.onLink (s : State) (p : Nat) (k : State → State) : State :=
  if s.portState p ≠ 3 then s
  else if s.portAwake p = false then s.stir .noone (s.reachDoms [domOfPort p])
  else k (s.setPort p { s.port p with rxUnits := (s.port p).rxUnits + 1 })

/-- The replay buffer without the entries before a sequence, counted from the oldest. -/
def Port.after (q : Port) (seq : BitVec 16) : List (BitVec 16 × Frame) :=
  match q.replay.head? with
  | none => []
  | some e => if (seq - e.1).toNat ≤ q.replay.length then q.replay.drop (seq - e.1).toNat else q.replay

/-- What of a replay is still to be sent, once earlier frames are acknowledged. -/
def Port.stillDue (q : Port) (l : List (BitVec 16 × Frame)) : List (BitVec 16 × Frame) :=
  l.drop (l.length - min l.length q.resend.length)

/-- ACK (R342): every frame up to a sequence has been received. -/
def execLinkAck (p : Nat) (seq : BitVec 16) (s : State) : Host.Outcome State Fault Refusal :=
  .next (s.onLink p fun s =>
    let q := s.port p
    let l := q.after (seq + 1)
    (s.setPort p { q with replay := l, resend := q.stillDue l }).drainHeld)

/-- Credits per virtual channel, 24 bits each (Table 12.4). -/
def creditsOf (c : BitVec 96) : List Nat := (List.range 4).map fun v => bitsOf c.toNat (24 * v) 24

/-- LINK_NAK (R346): the sender replays from the sequence expected. After a credit overrun it first takes the credits given, and each frame
waits for its own; otherwise the dropped frames still hold the credits they started with. More than 64 replays in 1 ms retrain the
port. -/
def execLinkNak (p : Nat) (seq : BitVec 16) (credits : BitVec 96) (overrun : Bool) (s : State) : Host.Outcome State Fault Refusal :=
  .next (s.onLink p fun s =>
    let q := s.port p
    let l := q.after seq
    let due := q.stillDue l
    let rs := s.ms :: q.replays.filter fun t => s.ms < t + 1
    let q1 := if overrun then { q with replay := l, resend := l, credits := creditsOf credits, replays := rs }
      else { q with replay := l, replays := rs }
    let s1 := (s.setPort p q1).bumpFld (regRdgPortErr p) 16 16 1
    let s2 := if overrun then s1.resendPort p
      else (l.take (l.length - due.length)).foldl (fun (t : State) e => t.frameOut p e.1 e.2) s1
    s2.judgeRetrain p (decide (64 < rs.length)))

/-- CREDIT (R341). -/
def execLinkCredit (p : Nat) (credits : BitVec 96) (s : State) : Host.Outcome State Fault Refusal :=
  .next (s.onLink p fun s =>
      let q := s.port p
      ((s.setPort p { q with credits := q.credits.zipWith (· + ·) (creditsOf credits) }).resendPort p).drainHeld)

end Sys2Proof.Machine
end

