-- ==== Sys2Proof/Machine/EthPcie.lean ====
section
/-!
DEFINITION. The Ethernet ports and their rings, RoCEv2 packets on the checkpoint queue pairs, and TLPs on the host link (12 R346, R356 to
R358; 14 R395).
-/
namespace Sys2Proof.Machine

/-! ## Ports and rings (R356, R358, Table 12.11) -/

/-- An Ethernet port with nothing going on. -/
def Eth.empty : Eth := ⟨false, false, false, false⟩

/-- An Ethernet port. -/
def State.ethPort (s : State) (p : Nat) : Eth := Tbl.getD s.eth p Eth.empty

/-- Set an Ethernet port. -/
def State.setEth (s : State) (p : Nat) (v : Eth) : State := { s with eth := Tbl.set Eth.empty s.eth p v }

/-- Whether a port is enabled and its link is up. -/
def State.ethUp (s : State) (p : Nat) : Bool := decide (s.fld (regEthCtrl p) 0 1 = 1) && decide (s.fld (regEthStatus p) 0 1 = 1)

/-- Descriptors of a ring (0 transmit, 1 receive): none while it is disabled. -/
def State.ringSize (s : State) (p j : Nat) : Nat :=
  let n := s.fld (regEthRingCfg p j) 0 5
  if n = 0 then 0 else 2 ^ n

/-- Where descriptor `i` of a ring lies in host memory. -/
def State.ringAddr (s : State) (p j i : Nat) : Nat := (s.reg (regEthRingBase p j)).toNat + 16 * (i % max (s.ringSize p j) 1)

/-- A descriptor: 128 bits in host memory. -/
def State.ringDesc (s : State) (p j i : Nat) : Nat := leVal (Memory.reads s.mem.host (s.ringAddr p j i) 16)

/-- A frame as it leaves: with its 802.1Q tag where VLAN is set. The spec gives the tag's VID only; its other bits are free. -/
def State.tagged (s : State) (p : Nat) (d : List (BitVec 8)) : List (BitVec 8) × State :=
  if s.fld (regEthCtrl p) 5 1 = 0 then (d, s)
  else
    let (v, s1) := s.free
    let tci := s.fld (regEthCtrl p) 6 12 + v.toNat % 16 * 2 ^ 12
    (d.take 12 ++ [0x81, 0x00, BitVec.ofNat 8 (tci / 256), BitVec.ofNat 8 tci] ++ d.drop 12, s1)

/-- The transmit ring sends up to `n` frames: each is read, sent, marked DONE and counted in HEAD. The spec gives frames of 60 to 9,212
bytes; whether one of another length leaves is a free choice. -/
def State.ethSend (p : Nat) : Nat → State → State
  | 0, s => s
  | n + 1, s =>
    let head := s.fld (regEthTxrHead p) 0 32
    if head = s.fld (regEthTxrTail p) 0 32 then s
    else
      let d := s.ringDesc p 0 head
      let len := bitsOf d 64 14
      let data := Memory.reads s.mem.host (bitsOf d 0 64) len
      let (odd, s0) := if 60 ≤ len ∧ len ≤ 9212 then (true, s) else s.choose
      let (f, s1) := s0.tagged p data
      let s2 := if odd then s1.emit (.ethFrame p f) else s1
      let s3 := (s2.hostWrite (s.ringAddr p 0 head) (leBytes 16 (setBits d 78 1 1))).setFld (regEthTxrHead p) 0 32 (head + 1)
      State.ethSend p n (s3.setEth p { s3.ethPort p with txDue := true })

/-- The domains on the way of an Ethernet port's frames: its I/O die (R356, R408). -/
def ethWay (p : Nat) : List Nat := [280 + p / 2]

/-- Send what the transmit ring holds while the link is up and the ring is enabled; the port's die is woken for it (R414). -/
def State.ethDrain (s : State) (p : Nat) : State :=
  if s.ethUp p = false ∨ s.ringSize p 0 = 0 ∨ s.hostCut ∨ s.fld (regEthTxrHead p) 0 32 = s.fld (regEthTxrTail p) 0 32 then s
  else if s.reachDoms (ethWay p) ≠ .ok then s.stir .noone (s.reachDoms (ethWay p))
  else
    State.ethSend p ((s.fld (regEthTxrTail p) 0 32 + 2 ^ 32 - s.fld (regEthTxrHead p) 0 32) % 2 ^ 32) s

/-- A write to the transmit tail (R358). -/
def State.ethTail (s : State) (p : Nat) (v : BitVec 64) : State :=
  let (bad, s1) := s.check detDoorbellInvalid 0
    (decide (s.ringSize p 0 < (field v 0 32 + 2 ^ 32 - s.fld (regEthTxrHead p) 0 32) % 2 ^ 32))
  if bad then s1 else (s1.regPlain (regEthTxrTail p) v).ethDrain p

/-- ETH_TXR_TAIL_WRITE (R358). -/
def execEthTxrTailWrite (p : Nat) (v : BitVec 32) (s : State) : Host.Outcome State Fault Refusal :=
  .next (s.regWrite (regEthTxrTail p) (v.setWidth 64) false fun t => t.ethTail p (v.setWidth 64))

/-- ETH_RXR_HEAD_WRITE (R358). -/
def execEthRxrHeadWrite (p : Nat) (v : BitVec 32) (s : State) : Host.Outcome State Fault Refusal :=
  .next (s.regWrite (regEthRxrHead p) (v.setWidth 64) false fun t => t.regPlain (regEthRxrHead p) (v.setWidth 64))

/-- A received frame without its 802.1Q tag (R356). -/
def untagged (d : List (BitVec 8)) : List (BitVec 8) :=
  if (d.drop 12).take 2 = [0x81, 0x00] then d.take 12 ++ d.drop 16 else d

/-- ETH_RX_FRAME (R346, R358): an ordinary frame, given without its FCS; `bad` says that the FCS fails. -/
def execEthRxFrame (p : Nat) (data : List (BitVec 8)) (bad : Bool) (s : State) : Host.Outcome State Fault Refusal :=
  .next (
    if s.ethUp p = false then s
    else if s.reachDoms (ethWay p) ≠ .ok then s.stir .noone (s.reachDoms (ethWay p))
    else
      let (err, s1) := s.check detEthRxErr p (bad || decide (data.length < 60) || decide (9212 < data.length))
      if err then s1
      else
        let f := untagged data
        let tail := s1.fld (regEthRxrTail p) 0 32
        let d := s1.ringDesc p 1 tail
        let none_ := decide (s1.ringSize p 1 = 0) || decide (tail = s1.fld (regEthRxrHead p) 0 32) || decide (bitsOf d 64 14 < f.length)
        let (drop, s2) := s1.check detEthRxDrop p none_
        if drop then s2
        else
          let s3 := (s2.hostWrite (bitsOf d 0 64) f).hostWrite (s2.ringAddr p 1 tail) (leBytes 16 (setBits (setBits d 64 14 f.length) 78 1 1))
          let s4 := s3.setFld (regEthRxrTail p) 0 32 (tail + 1)
          s4.setEth p { s4.ethPort p with rxDue := true })

/-- ETH_RING_INTERRUPT (R358). -/
def execEthRingInterrupt (p : Nat) (tx : Bool) (s : State) : Host.Outcome State Fault Refusal :=
  .next (
    let e := s.ethPort p
    if (if tx then e.txDue else e.rxDue) then
      (s.setEth p (if tx then { e with txDue := false } else { e with rxDue := false })).emit
        (.msix (s.fld (regEthRingCfg p (if tx then 0 else 1)) 16 11))
    else s)

/-- ETH_LINK (R356, R410, R448): an enabled port's link comes up, its die being at RUN and its Ethernet reference there, or goes down, as which the
reference may have gone. -/
def execEthLink (p : Nat) (on : Bool) (s : State) : Host.Outcome State Fault Refusal :=
  .next (
    if s.loaded = false ∨ (on ∧ (s.fld (regEthCtrl p) 0 1 = 0 ∨ s.reachDoms (ethWay p) ≠ .ok)) then s
    else if on then ((s.setFld (regEthStatus p) 0 1 1).setFld regClkRef (3 + p / 2) 1 1).ethDrain p
    else (s.setFld (regEthStatus p) 0 1 0).seeRefAt (3 + p / 2))

/-! ## Priority flow control (R346, R356) -/

/-- PFC_PAUSE_FRAME (R356): a pause of the RoCEv2 priority begins or ends, unless PFC is off or pause is ignored. -/
def execPfcPauseFrame (p : Nat) (on : Bool) (s : State) : Host.Outcome State Fault Refusal :=
  .next (
    let e := s.ethPort p
    if s.ethUp p = false ∨ s.fld (regEthCtrl p) 1 1 = 0 ∨ e.ignoring then s else s.setEth p { e with paused := on })

/-- PFC_WATCHDOG (R346): a pause held for 100 ms is ignored. -/
def execPfcWatchdog (p : Nat) (s : State) : Host.Outcome State Fault Refusal :=
  .next (
    let e := s.ethPort p
    if e.paused then
      (((s.check detEthPfcWd p true).2).setEth p { e with paused := false, ignoring := true }).setFld (regEthStatus p) 1 1 1
    else s)

/-- PFC_PAUSE_CEASED (R346). -/
def execPfcPauseCeased (p : Nat) (s : State) : Host.Outcome State Fault Refusal :=
  .next (s.setEth p { s.ethPort p with ignoring := false })

/-! ## RoCEv2 (R346, R357, R370) -/

/-- Each open write of a pair with the PSN of its last packet: the one before the next write's first. -/
def lastPsns : List (BitVec 24 × Nat × Nat) → BitVec 24 → List (BitVec 24)
  | [], _ => []
  | [_], next => [next - 1]
  | _ :: y :: l, next => (y.1 - 1) :: lastPsns (y :: l) next

/-- How many open writes of a pair a PSN acknowledges. -/
def Qp.acked (q : Qp) (psn : BitVec 24) : Nat :=
  ((lastPsns q.unacked q.psn).takeWhile fun e => decide ((psn - e).toNat < 2 ^ 23)).length

/-- The store acknowledges a pair's writes up to a PSN; the acknowledgement of the manifest's last write commits (R371). -/
def State.roceAck (s : State) (k : Ckpt) (q : Nat) (psn : BitVec 24) : State :=
  let s1 := s.ackWrites k q ((s.qp q).acked psn)
  if k.sent && s1.allAcked then s1.ckptCommit k else s1

/-- An answer to a read arrives in its sequence, again, or out of it (Table 12.8). -/
def State.roceRead (s : State) (q : Nat) (psn : BitVec 24) : State :=
  let p := s.qp q
  if psn = p.epsn then s.setQp q { p with epsn := p.epsn + 1 }
  else if (p.epsn - psn).toNat < 2 ^ 23 then s.emit (.roce q 0 psn)
  else s.emit (.roce q 1 p.epsn)

/-- Whether a packet breaks a rule of Table 12.8: its ICRC, its sequence, or its kind. -/
def State.roceBad (s : State) (q : Nat) (k : RocePkt) : Bool :=
  match k with
  | .icrcBad | .other => true
  | .readResponse psn _ => decide (psn ≠ (s.qp q).epsn)
  | .ack _ | .nakSequence _ | .nakRemote _ => false

/-- ROCE_PACKET (R346, R357, R370): a packet on an enabled pair; one whose ICRC fails, or is made to fail, is dropped. -/
def execRocePacket (qp : Nat) (k : RocePkt) (s : State) : Host.Outcome State Fault Refusal :=
  .next (
    if s.fld (regCkpQpCtrl qp) 5 2 ≠ 1 then s
    else if s.reachDoms [s.pairDie qp] ≠ .ok then s.stir .noone (s.reachDoms [s.pairDie qp])
    else
      let (bad, s1) := s.check detEthRoce (s.fld (regCkpQpCtrl qp) 1 2) (s.roceBad qp k)
      if bad && !s.roceBad qp k then s1
      else
        match k, s1.eng.ckpt with
        | .icrcBad, _ => s1
        | .ack psn, some c => s1.roceAck c qp psn
        | .nakSequence psn, some c =>
          let t := s1.roceAck c qp (psn - 1)
          (match t.eng.ckpt with | some c1 => t.resendOpen c1 qp | none => t)
        | .nakRemote _, _ => s1.qpError qp
        | .readResponse psn _, _ => s1.roceRead qp psn
        | .other, _ => (s1.emit (.roce qp 2 (s1.qp qp).epsn)).qpError qp
        | .ack _, none => s1
        | .nakSequence _, none => s1)

/-! ## The host link (R302, R346, R395) -/

/-- The capability structures of configuration space, which are those of Table 11.1, with their IDs and lengths in PCIe (PRESUMED, log 44): PCI
Express, MSI-X, AER, Resizable BAR, DOE and IDE. -/
def cfgCaps : List (Nat × Nat) := [(0x10, 60), (0x11, 12), (0x0001, 72), (0x0015, 12), (0x002E, 24), (0x0030, 64)]

/-- The structure that a register of configuration space lies in, with its place in it; where each structure stands is the device's (an open
constant). -/
def cfgCapOf (reg : Nat) : Option (Nat × Nat) :=
  (List.range 6).findSome? fun k =>
    let a := Config.cfgCap k
    if a ≤ reg ∧ reg < a + (cfgCaps.getD k (0, 0)).2 then some (k, reg - a) else none

/-- BAR4's size as a power of two in MiB: Resizable BAR's field, from 256 MiB to 1 TiB (Table 11.1). -/
def State.bar4Log (s : State) : Nat :=
  let n := bitsOf (Tbl.getD s.pwr.cfg (Config.cfgCap 3 + 8) 0).toNat 8 6
  if 8 ≤ n ∧ n ≤ 20 then n else 8

/-- The bits of a 4-byte register in a structure that Table 11.1 fixes: their mask and their value. PCI Express: FLR, a maximum payload of 512 bytes,
AtomicOps of 32 and 64 bits completed, 10-bit tags; MSI-X: 2,048 vectors; Resizable BAR: its sizes, and BAR4 as the one that has them. -/
def State.cfgFixed (s : State) (k o : Nat) : Nat × Nat :=
  let id := (cfgCaps.getD k (0, 0)).1
  if o = 0 then (if k = 0 then (0xFF, id) else if k = 1 then (0x7FF00FF, id + 2047 * 2 ^ 16) else (0xFFFF, id))
  else if k = 0 ∧ o = 4 then (2 ^ 28 + 7, 2 ^ 28 + 2)
  else if k = 0 ∧ o = 36 then (2 ^ 7 + 2 ^ 8 + 2 ^ 9 + 2 ^ 16 + 2 ^ 17, 2 ^ 7 + 2 ^ 8 + 2 ^ 16 + 2 ^ 17)
  else if k = 3 ∧ o = 4 then (2 ^ 32 - 1, (2 ^ 13 - 1) * 2 ^ 12)
  else if k = 3 ∧ o = 8 then (2 ^ 14 - 1, 4 + 2 ^ 5 + s.bar4Log * 2 ^ 8)
  else (0, 0)

/-- A base address register as it reads: its kind in the low bits (64-bit; BAR4 prefetchable), and what the host wrote above its size. -/
def State.barReg (s : State) (reg kind log2 : Nat) : Nat :=
  let w := (Tbl.getD s.pwr.cfg reg 0).toNat + (Tbl.getD s.pwr.cfg (reg + 4) 0).toNat * 2 ^ 32
  w / 2 ^ log2 * 2 ^ log2 + kind

/-- Four bytes of configuration space (Table 11.1, log 44): the vendor and device IDs, the class code, a header of one function, the BARs, and the
structures of Table 11.1; bits that the table does not fix are open, and no other structure is there. -/
def State.cfgWord (s : State) (reg : Nat) : Nat × State :=
  let (v, s1) := s.free
  let mix := fun (mask val : Nat) => (v.toNat % 2 ^ 32 &&& (2 ^ 32 - 1 - mask)) ||| val
  if reg = 0 then (0x2C7B + 0x4096 * 2 ^ 16, s)
  else if reg = 8 then (mix 0xFF000000 0x12000000, s1)
  else if reg = 12 then (mix 0xFF0000 0, s1)
  else if reg = 16 then (s.barReg 16 4 26 % 2 ^ 32, s)
  else if reg = 20 then (s.barReg 16 4 26 / 2 ^ 32, s)
  else if reg = 24 then (s.barReg 24 4 24 % 2 ^ 32, s)
  else if reg = 28 then (s.barReg 24 4 24 / 2 ^ 32, s)
  else if reg = 32 then (s.barReg 32 12 (20 + s.bar4Log) % 2 ^ 32, s)
  else if reg = 36 then (s.barReg 32 12 (20 + s.bar4Log) / 2 ^ 32, s)
  else if reg < 64 then (v.toNat % 2 ^ 32, s1)
  else
    match cfgCapOf reg with
    | some (k, o) => let m := s.cfgFixed k o; (mix m.1 m.2, s1)
    | none => (0, s)

/-- A write of configuration space: what the host wrote, by register. -/
def State.cfgPut (s : State) (reg : Nat) (v : BitVec 32) : State := { s with pwr := { s.pwr with cfg := Tbl.set 0 s.pwr.cfg reg v } }

/-- Whether a TLP breaks a rule of itself (R346, R395). -/
def State.tlpBad (s : State) (t : Tlp) : Bool :=
  match t with
  | .malformed | .linkError | .outsideBars _ | .poisonedWrite _ _ | .atomicUnsupported => true
  | .notInStream => decide (s.trust.ide = .secure) || s.hostCut
  | .integrityFailure => false
  | .cfgRead _ | .cfgWrite _ _ | .wellFormed => s.hostCut

/-- The answer to a configuration request: to be tried again until CAIRN_UP reads 1 (R451). -/
def State.cfgAnswer (s : State) (k : State → State) : State := if s.fld regIdentStatus 0 1 = 0 then s.emit .cfgRetry else k s

/-- PCIE_TLP (R302, R346, R395, R451): it reaches the module over a link that is up and I/O die 0 at RUN. A TLP that breaks a rule counts, and so does
one that an injector makes break one; while the IDE stream is Insecure every TLP is refused. -/
def execPcieTlp (t : Tlp) (s : State) : Host.Outcome State Fault Refusal :=
  .next (
    if s.pwr.linkUp = false then s
    else if s.reachDoms [domHost] ≠ .ok then s.stir (.host false) (s.reachDoms [domHost])
    else
      let (bad, s1) := s.check detPcieErr 0 (s.tlpBad t)
      let refused := fun (ur aer : Bool) => s1.emit (.pcie ur aer)
      if bad && !s.tlpBad t then refused true true
      else
        match t with
        | .malformed => refused false true
        | .linkError => s1
        | .outsideBars isRead => refused isRead true
        | .poisonedWrite _ _ => refused false true
        | .atomicUnsupported => refused true true
        | .notInStream => if bad then refused true false else s1
        | .integrityFailure =>
          if s.trust.ide = .secure then { s1 with trust := { s1.trust with ide := .insecure } }.setFld regSecStatus 14 1 0 else s1
        | .cfgRead reg =>
          if bad then refused true false
          else
            s1.cfgAnswer fun u =>
              let (v, u1) := u.cfgWord reg
              u1.emit (.hostRead (leBytes 4 v) false)
        | .cfgWrite reg v => if bad then refused true false else s1.cfgAnswer fun u => u.cfgPut reg v
        | .wellFormed => if bad then refused true false else s1)

/-- PCIE_COMPLETION_TIMEOUT (R346, R272): a device read of host memory for a context fails; the context consumes poison. -/
def execPcieCompletionTimeout (ctx : Nat) (s : State) : Host.Outcome State Fault Refusal :=
  .next (
    match s.ctx ctx with
    | none => s
    | some r => if r.lost then s else ((s.check detPcieCpl 0 true).2).lose ctx stPoisonConsumed 0 (lostAt 4 0) none)

end Sys2Proof.Machine
end

