-- ==== Sys2Proof/Machine/LaneConv.lean ====
section
/-!
DEFINITION. The conversion instructions (Table 2.8, R58, R144, R145).
-/
namespace Sys2Proof.Machine

/-- The value of a lane format's code as an exact number (codes 0x0 to 0x5). -/
def laneVal (f v : Nat) : FVal :=
  match f with
  | 0 => ofInt v
  | 1 => ofInt (sVal 32 v)
  | 2 => ofInt v
  | 3 => ofInt (sVal 64 v)
  | 4 => fF32.decode v
  | _ => fF64.decode v

/-- The range of an integer lane format. -/
def intRange (f : Nat) : Int × Int :=
  let w := bitsOfFmt f
  if signedFmt f then (-(2 : Int) ^ (w - 1), (2 : Int) ^ (w - 1) - 1) else (0, (2 : Int) ^ w - 1)

/-- CVT of one element (R58): integer to integer wraps; float to integer rounds and saturates; the rest round to a float. -/
def cvtVal (src dst mode : Nat) (sat : Bool) (v : Nat) : Nat :=
  if dst < 4 then
    if src < 4 then wrapN (bitsOfFmt dst) (if signedFmt src then sVal (bitsOfFmt src) v else (v : Int))
    else wrapN (bitsOfFmt dst) (toIntSat mode (intRange dst).1 (intRange dst).2 (laneVal src v)).1
  else (if dst = 4 then fF32 else fF64).encode mode sat (laneVal src v)

/-- The legality of CVT (Table 2.8, R53, R58): codes 0x0 to 0x5 on both sides; MOD is unused between integers; MOD[1:0] rounds,
and MOD[2] selects a column of Table 5.2, whose two columns are the same for an integer (R144, log 32). -/
def formCvt (i : Insn) : Form :=
  let src := i.ext.toNat
  let dst := i.fmt.toNat
  let modOk := decide (i.mod.toNat < if dst < 4 ∧ src < 4 then 1 else 8)
  ⟨decide (dst < 6 ∧ src < 6), modOk, 0xF, regsOf dst, regsOf src, 0, 0, 0⟩

/-- CVT (Table 2.8): D in format FMT = A in format EXT[3:0]. -/
def execCvt (g : GRef) (i : Insn) (s : State) : Host.Outcome State Fault Refusal :=
  let src := i.ext.toNat
  let dst := i.fmt.toNat
  .next (s.laneOp g i (formCvt i) (regsOf dst) fun gr l =>
    cvtVal src dst (i.mod.toNat % 4) (i.mod.getLsbD 2) (opVal gr l (regsOf src) i.a))

/-- Elements of a packed format (Table 2.5). -/
def packCount (f : Nat) : Nat :=
  match f with
  | 0x6 => 2
  | 0x7 => 2
  | 0xC => 8
  | _ => 4

/-- Bits of an element of a packed format (Table 2.5). -/
def packBits (f : Nat) : Nat :=
  match f with
  | 0x6 => 16
  | 0x7 => 16
  | 0xA => 6
  | 0xB => 6
  | 0xC => 4
  | _ => 8

/-- The float format of a packed format; S8x4 (0xD) has none. -/
def packFmt (f : Nat) : Fmt :=
  match f with
  | 0x6 => fF16
  | 0x7 => fBF16
  | 0x8 => fE4M3
  | 0x9 => fE5M2
  | 0xA => fE3M2
  | 0xB => fE2M3
  | _ => fE2M1

/-- Whether a code names a packed format. -/
def isPacked (f : Nat) : Bool := decide (6 ≤ f ∧ f ≤ 13)

/-- One element of CVT.PK: F32 rounded to the format, or S32 saturated to S8 (R58). -/
def packElem (f mode : Nat) (sat : Bool) (v : Nat) : Nat :=
  if f = 0xD then wrapN 8 (clampI (-128) 127 (sVal 32 v)) else (packFmt f).encode mode sat (fF32.decode v)

/-- The packed value built from the `n` registers from A. -/
def packVal (gr : Group) (l f mode : Nat) (sat : Bool) (a : Nat) : Nat → Nat
  | 0 => 0
  | n + 1 => packVal gr l f mode sat a n + packElem f mode sat (gr.rd l (a + n)).toNat * 2 ^ (packBits f * n)

/-- The form of CVT.PK: a conversion to S8x4 rounds nothing, so it uses no MOD[1:0]; the columns that MOD[2] selects are the same for INT8
(R53, R58, Table 5.2, log 32). -/
def formCvtPk (i : Insn) : Form :=
  let f := i.fmt.toNat
  ⟨isPacked f, decide (i.mod.toNat < 8) && (decide (f ≠ 0xD) || decide (i.mod.toNat % 4 = 0)), 0, 1, packCount f, 0, 0, 0⟩

/-- CVT.PK (Table 2.8): A is a multiple of the element count. -/
def execCvtPk (g : GRef) (i : Insn) (s : State) : Host.Outcome State Fault Refusal :=
  let f := i.fmt.toNat
  .next (s.laneOp g i (formCvtPk i) 1 fun gr l => packVal gr l f (i.mod.toNat % 4) (i.mod.getLsbD 2) (regNum i.a) (packCount f))

/-- One element of CVT.UPK: exact in F32, or S32 of an S8. -/
def unpackElem (f v : Nat) : Nat :=
  if f = 0xD then wrapN 32 (sVal 8 v) else fF32.encode 0 false ((packFmt f).decode v)

/-- The registers CVT.UPK writes, lowest first, as one number. -/
def unpackVal (f v : Nat) : Nat → Nat
  | 0 => 0
  | n + 1 => unpackVal f v n + unpackElem f (bitsOf v (packBits f * n) (packBits f)) * 2 ^ (32 * n)

/-- The form of CVT.UPK. -/
def formCvtUpk (i : Insn) : Form :=
  let f := i.ext.toNat
  ⟨isPacked f && decide (i.fmt.toNat = if f = 0xD then 1 else 4), i.mod == 0, 0xF, packCount f, 1, 0, 0, 0⟩

/-- CVT.UPK (Table 2.8): FMT is F32 for packed floats and S32 for S8x4; MOD is unused; D is a multiple of the count. -/
def execCvtUpk (g : GRef) (i : Insn) (s : State) : Host.Outcome State Fault Refusal :=
  let f := i.ext.toNat
  .next (s.laneOp g i (formCvtUpk i) (packCount f) fun gr l => unpackVal f (gr.rd l (regNum i.a)).toNat (packCount f))

end Sys2Proof.Machine
end

