-- ==== Sys2Proof/Machine/LaneCtl.lean ====
section
/-!
DEFINITION. Control, the mask stack and ELECT (Table 2.12, R55, R61 to R65), and the events that end a spill, a refill or an
edit (R63).
-/
namespace Sys2Proof.Machine

/-- The form of a control instruction (R55): registers D and A, and whether it takes a target. -/
def formCtl (i : Insn) (d a : Nat) (target : Bool) : Form :=
  ⟨i.fmt == 0, i.mod == 0, 0, d, a, 0, 0, if target then 3 else 4⟩

/-- The target of a transfer at `pc` (R55). -/
def target (pc : BitVec 64) (i : Insn) : BitVec 64 := pc + 8 * (offset26 i).signExtend 64

/-- NOP (Table 2.12). -/
def execNop (g : GRef) (i : Insn) (s : State) : Host.Outcome State Fault Refusal :=
  .next (s.issue g i (formCtl i 0 0 false) fun gr t => t.putGroup g gr.next)

/-- BRA (R55): the whole group moves. -/
def execBra (g : GRef) (i : Insn) (s : State) : Host.Outcome State Fault Refusal :=
  .next (s.issue g i (formCtl i 0 0 true) fun gr t => t.putGroup g { gr with pc := target gr.pc i })

/-- A branch taken where the condition on the active lanes with A not 0 holds. -/
def branchIf (g : GRef) (i : Insn) (s : State) (c : Group → BitVec 32 → Bool) : State :=
  s.issue g i (formCtl i 0 1 true) fun gr t =>
    t.putGroup g (if c gr (lanesNonzero gr (regNum i.a)) then { gr with pc := target gr.pc i } else gr.next)

/-- BRANY (Table 2.12): branch if any active lane has A not 0. -/
def execBrany (g : GRef) (i : Insn) (s : State) : Host.Outcome State Fault Refusal :=
  .next (branchIf g i s fun _ m => m ≠ 0)

/-- BRALL (Table 2.12): branch if every active lane has A not 0. -/
def execBrall (g : GRef) (i : Insn) (s : State) : Host.Outcome State Fault Refusal :=
  .next (branchIf g i s fun gr m => m = gr.m)

/-- CALL (Table 2.12): D = the address of the next word in every active lane, then branch. -/
def execCallG (g : GRef) (i : Insn) (s : State) : Host.Outcome State Fault Refusal :=
  .next (s.issue g i (formCtl i 2 0 true) fun gr t =>
    t.putGroup g { writeLanes gr (regNum i.d) 2 (fun _ => (gr.pc + 8).toNat) with pc := target gr.pc i })

/-- RET (Table 2.12): branch to A of the lowest active lane, ignoring A[2:0]; with no active lane it goes to the next word. -/
def execRetG (g : GRef) (i : Insn) (s : State) : Host.Outcome State Fault Refusal :=
  .next (s.issue g i (formCtl i 0 2 false) fun gr t =>
    t.putGroup g (if gr.m = 0 then gr.next else { gr with pc := gr.rd64 gr.first (regNum i.a) &&& ~~~7#64 }))

/-- A group that stops at a full mask stack has retired nothing, so its timer runs on from what it was before (R70). -/
def State.holdTimer (old new : State) (g : GRef) : State :=
  let t := new.tile g.tile
  match Tbl.find (old.tile g.tile).timers g.slot with
  | some v => new.setTile g.tile { t with timers := Tbl.put t.timers g.slot v }
  | none => new

/-- Push an entry (R61, R63, R64): with sixteen hardware entries the eight oldest spill first, and the group does not issue until
the spill ends; a spill beyond the area stops the group and does not push. `go` completes the instruction; `old` is the state before issue. -/
def State.push (s old : State) (g : GRef) (gr : Group) (e : MEntry) (go : Group → Group) : State :=
  if gr.stack.length < 16 then
    let (bad, s1) := s.judge detMstackOverflow g.tile false
    if bad then State.holdTimer old ((s1.putGroup g { gr with wait := .overflow }).det detMstackOverflow) g
    else s1.putGroup g (go { gr with stack := e :: gr.stack })
  else
    match s.blockOf g gr with
    | none => s
    | some b =>
      let (bad, s1) := s.judge detMstackOverflow g.tile (decide (8 * b.spillUnits < gr.spilled + 8))
      if bad then State.holdTimer old ((s1.putGroup g { gr with wait := .overflow }).det detMstackOverflow) g
      else
        let t := s1.tile g.tile
        let old := (gr.stack.drop 8).reverse
        let s2 := s1.setTile g.tile { t with scratch := spillWrite t.scratch (b.spillBase gr.rank) gr.spilled old }
        s2.putGroup g (go { gr with stack := e :: gr.stack.take 8, spilled := gr.spilled + 8, wait := .spill })

/-- MPUSH (R61). -/
def execMpush (g : GRef) (i : Insn) (s : State) : Host.Outcome State Fault Refusal :=
  .next (s.issue g i (formCtl i 0 1 true) fun gr t =>
    let c := lanesNonzero gr (regNum i.a)
    let tgt := target gr.pc i
    t.push s g gr ⟨gr.m, gr.m &&& ~~~c, tgt, false⟩ fun a =>
      if c ≠ 0 then { a with m := c, pc := gr.pc + 8 } else { a with pc := tgt })

/-- MPUSHL (R61). -/
def execMpushl (g : GRef) (i : Insn) (s : State) : Host.Outcome State Fault Refusal :=
  .next (s.issue g i (formCtl i 0 0 true) fun gr t =>
    t.push s g gr ⟨gr.m, 0, target gr.pc i, true⟩ fun a => { a with pc := gr.pc + 8 })

/-- MELSE, MPOP or MBRK against R62: a violation is a counted no-operation. -/
def State.underflow (s : State) (g : GRef) (gr : Group) : State := (s.putGroup g gr.next).det detMstackUnderflow

/-- MELSE (R61, R62). -/
def execMelse (g : GRef) (i : Insn) (s : State) : Host.Outcome State Fault Refusal :=
  .next (s.issue g i (formCtl i 0 0 true) fun gr t =>
    let (bad, t1) := t.judge detMstackUnderflow g.tile gr.stack.isEmpty
    let tgt := target gr.pc i
    match gr.stack with
    | [] => t1.underflow g gr
    | e :: es =>
      if bad then t1.underflow g gr
      else if e.els &&& gr.l ≠ 0 then
        t1.putGroup g { gr.next with m := e.els &&& gr.l, stack := { e with els := 0, rpc := tgt } :: es }
      else t1.putGroup g { gr with pc := tgt, stack := { e with rpc := tgt } :: es })

/-- After a pop that leaves no hardware entry while entries are spilled, up to eight of the most recent come back, and the
group does not issue until the refill ends (R63). -/
def State.refill (s : State) (g : GRef) (gr : Group) : Group :=
  if gr.stack ≠ [] ∨ gr.spilled = 0 then gr
  else
    match s.blockOf g gr with
    | none => gr
    | some b =>
      let n := min 8 gr.spilled
      let es := spilledAt (s.tile g.tile).scratch (b.spillBase gr.rank) (gr.spilled - n) n
      { gr with stack := es.reverse, spilled := gr.spilled - n, wait := .refill }

/-- MPOP (R61 to R63). -/
def execMpop (g : GRef) (i : Insn) (s : State) : Host.Outcome State Fault Refusal :=
  .next (s.issue g i (formCtl i 0 0 false) fun gr t =>
    let (bad, t1) := t.judge detMstackUnderflow g.tile gr.stack.isEmpty
    match gr.stack with
    | [] => t1.underflow g gr
    | e :: es =>
      if bad then t1.underflow g gr
      else t1.settle g (t1.refill g { gr.next with m := e.outer &&& gr.l, stack := es }))

/-- Remove lanes `b` from the entries above the nearest loop entry, top first; whether a loop entry was found. -/
def breakEntries (b : BitVec 32) : List MEntry → List MEntry × Bool
  | [] => ([], false)
  | e :: es =>
    if e.loop then (e :: es, true)
    else
      let r := breakEntries b es
      ({ e with outer := e.outer &&& ~~~b, els := e.els &&& ~~~b } :: r.1, r.2)

/-- How many spilled entries, newest first, lie above the nearest loop entry. -/
def editCount (deep : List MEntry) : Nat := (deep.takeWhile fun e => !e.loop).length

/-- MBRK (R61 to R63): the spilled entries above the nearest loop entry are edited too, and where there are any the group
then does not issue until the edit ends. -/
def execMbrk (g : GRef) (i : Insn) (s : State) : Host.Outcome State Fault Refusal :=
  .next (s.issue g i (formCtl i 0 1 false) fun gr t =>
    let b := lanesNonzero gr (regNum i.a)
    let base := match t.blockOf g gr with | some k => k.spillBase gr.rank | none => 0
    let hw := breakEntries b gr.stack
    let deep := (spilledAt (t.tile g.tile).scratch base 0 gr.spilled).reverse
    let sp := breakEntries b deep
    let (bad, t1) := t.judge detMstackUnderflow g.tile (!hw.2 && !sp.2)
    if bad then t1.underflow g gr
    else
      let gr1 := { gr.next with m := gr.m &&& ~~~b, stack := hw.1 }
      if hw.2 then t1.settle g gr1
      else
        let tl := t1.tile g.tile
        let t2 := t1.setTile g.tile { tl with scratch := spillWrite tl.scratch base 0 sp.1.reverse }
        t2.settle g (if 0 < editCount deep then { gr1 with wait := .edit } else gr1))

/-- The form of ELECT. -/
def formElect (i : Insn) : Form :=
  ⟨i.fmt == 0, decide (i.mod.toNat < 4), 0, 1, if i.mod.getLsbD 0 then 1 else 0, 0, 0, 4⟩

/-- ELECT (R65). -/
def execElect (g : GRef) (i : Insn) (s : State) : Host.Outcome State Fault Refusal :=
  .next (s.laneOp g i (formElect i) 1 fun gr l =>
    let cand := gr.lanes.filter fun k => !i.mod.getLsbD 0 || gr.rd k (regNum i.a) ≠ 0
    match cand.head? with
    | some k => if i.mod.getLsbD 1 then k else b2n (k = l)
    | none => if i.mod.getLsbD 1 then 0xFFFFFFFF else 0)

/-- EXIT (R61): the active lanes leave the live mask. -/
def execExitG (g : GRef) (i : Insn) (s : State) : Host.Outcome State Fault Refusal :=
  .next (s.issue g i (formCtl i 0 0 false) fun gr t => t.resume g { gr with l := gr.l &&& ~~~gr.m, m := 0 })

/-- A group's spill or refill ends: the group may issue again, and its timer restarts (R70). A group that waits for something else stays as it is
(log 2). -/
def State.wakeGroup (s : State) (g : GRef) (w : Wait) : State :=
  match s.group g with
  | some gr => if gr.wait = w then (s.restart g).putGroup g { gr with wait := .ready } else s
  | none => s

/-- MSTACK_SPILL_DONE (R63). -/
def execMstackSpillDone (g : GRef) (s : State) : Host.Outcome State Fault Refusal := .next (s.wakeGroup g .spill)

/-- MSTACK_REFILL_DONE (R63). -/
def execMstackRefillDone (g : GRef) (s : State) : Host.Outcome State Fault Refusal := .next (s.wakeGroup g .refill)

/-- MBRK_SPILL_EDIT_DONE (R63): the group may issue again; the end of an edit is none of the completions that restart its timer (R70). -/
def execMbrkSpillEditDone (g : GRef) (s : State) : Host.Outcome State Fault Refusal :=
  .next (
    match s.group g with
    | some gr => if gr.wait = .edit then s.putGroup g { gr with wait := .ready } else s
    | none => s)

end Sys2Proof.Machine
end

