-- ==== Sys2Proof/Machine/LaneSync.lean ====
section
/-!
DEFINITION. Fences, the block barrier, waits and events of a kernel (Table 3.3, R79, R83, R93 to R100), and the expiry of a
group's timer (R71).
-/
namespace Sys2Proof.Machine

/-! ## Fences (R79) -/

/-- The form of FENCE. -/
def formFence (i : Insn) : Form :=
  ⟨i.fmt == 0, decide (i.mod.toNat < 16) && decide (i.mod.toNat % 4 = 0), 0, 0, 0, 0, 0, 0⟩

/-- FENCE (Table 3.3). -/
def execFence (g : GRef) (i : Insn) (s : State) : Host.Outcome State Fault Refusal :=
  .next (s.issue g i (formFence i) fun gr t => t.putGroup g { gr.next with wait := .fence (i.mod.toNat / 4) })

/-- Whether a group's earlier accesses are performed as far as a scope reaches (R79, Table 3.2, R84, R92): beyond the tile, once none of
its stores is queued, and at system scope once the other modules have answered too. A store that has left the tile for another module or
the host is ahead of every later access of this module to its bytes (R344, R302). -/
def State.performed (s : State) (g : GRef) (scope : Nat) : Bool :=
  let gone := (s.tile g.tile).storeQ.all fun e => decide (e.slot ≠ g.slot) || !s.isGroup g e.gid
  if scope < 2 then true
  else if scope = 2 then gone
  else gone && !s.boardBusy (.store g.tile g.slot)

/-- FENCE_COMPLETE (R79): the fence completes once the earlier accesses are performed; before that nothing changes (log 2). -/
def execFenceComplete (g : GRef) (s : State) : Host.Outcome State Fault Refusal :=
  .next (
    match s.group g with
    | some gr =>
      match gr.wait with
      | .fence k => if s.performed g k then (s.restart g).putGroup g { gr with wait := .ready } else s
      | _ => s
    | none => s)

/-! ## The block barrier (R93 to R96) -/

/-- The form of BAR. -/
def formBar (i : Insn) : Form :=
  ⟨i.fmt == 0, decide (i.mod.toNat < 2), 0, 0, 0, 0, 0, 0⟩

/-- BAR (R93): a group with a non-empty active mask arrives. -/
def execBar (g : GRef) (i : Insn) (s : State) : Host.Outcome State Fault Refusal :=
  .next (s.issue g i (formBar i) fun gr t =>
    if gr.m = 0 then t.putGroup g gr.next
    else
      let t1 := t.putGroup g { gr.next with wait := .barrier }
      let tl := t1.tile g.tile
      let tl1 := { tl with blocks := Tbl.modify tl.blocks gr.block fun b =>
        { b with arrived := g.slot :: b.arrived, ordering := b.ordering || i.mod = 0 } }
      t1.setTile g.tile (tl1.barrier gr.block))

/-! ## Waits (R97 to R99) -/

/-- Write a value of `n` registers to D of every active lane and let the group issue again; its timer restarts (R70). -/
def State.deliver (s : State) (g : GRef) (gr : Group) (d n : Nat) (v : Nat) : State :=
  (s.restart g).putGroup g { gr.lanes.foldl (fun (a : Group) l => Group.wrN n a l d v) gr with wait := .ready }

/-- Registers of the value a wait delivers. -/
def Watch.regs (w : Watch) : Nat := if w.wide then 2 else 1

/-- WAITNE on scratch (R97): judged at once, held by the tile otherwise. -/
def State.waitScratch (s : State) (g : GRef) (i : Insn) (gr : Group) (a cmp : Nat) (wide : Bool) : Go Unit :=
  let n := if wide then 8 else 4
  match s.blockOf g gr with
  | none => .stall s
  | some b =>
    let (ue, s) := s.tileSram .scratch g.tile
    if b.holds a n = false then .lose stPageFault 0 s
    else if ue then .lose stPoisonConsumed 0 s
    else
      let s1 := s.scopeCheck g (decide (i.mod.toNat % 4 ≠ 0) && decide (2 ≤ i.mod.toNat / 4 % 4))
      let t := s1.tile g.tile
      let v := leVal (Memory.reads t.scratch (b.base + a) n)
      if v ≠ cmp then .ok () (s1.deliver g gr.next (regNum i.d) (n / 4) v)
      else
        let w : Watch := ⟨.scratch, b.base + a, wide, false, BitVec.ofNat 64 cmp, regNum i.d⟩
        .ok () ((s1.setTile g.tile { t with waits := t.waits ++ [⟨g.tile, g.slot, w, none, false⟩] }).putGroup g { gr.next with wait := .watch w })

/-- A wait on global memory starts (R97): it travels to its cistern, or its word is polled. -/
def State.waitGlobal (s : State) (g : GRef) (i : Insn) (gr : Group) (x : Span) (cmp : Nat) (wide event : Bool) : State :=
  let at_ : WatchAt := if x.tgt = 0 then .sent else if x.tgt = 1 then .board else .host
  s.putGroup g { gr.next with wait := .watch ⟨at_, x.addr, wide, event, BitVec.ofNat 64 cmp, regNum i.d⟩ }

/-- The form of WAITNE. -/
def formWaitne (i : Insn) : Form :=
  let n := if i.fmt.toNat = 2 then 2 else 1
  ⟨decide (i.fmt.toNat = 0 ∨ i.fmt.toNat = 2), decide (i.mod.toNat < 16) && decide (i.mod.toNat % 4 < 2), 1, n,
    if i.ext.getLsbD 0 then 1 else 2, n, 0, 0⟩

/-- WAITNE (R97, R98). -/
def execWaitne (g : GRef) (i : Insn) (s : State) : Host.Outcome State Fault Refusal :=
  let wide := i.fmt.toNat = 2
  let n := if wide then 2 else 1
  .next (s.issueGo g i (formWaitne i) fun gr t =>
    if gr.m = 0 then .ok () (t.putGroup g gr.next)
    else
      let l := gr.first
      let a := if i.ext.getLsbD 0 then (gr.rd l (regNum i.a)).toNat else (gr.rd64 l (regNum i.a)).toNat
      let cmp := opVal gr l n i.b
      let (bad, t1) := t.check detAtomMisaligned g.tile (decide (a % (4 * n) ≠ 0))
      if bad then .ok () (t1.putGroup g gr.next)
      else if i.ext.getLsbD 0 then t1.waitScratch g i gr a cmp wide
      else
        (t1.span (t1.ctxOf g gr) a (4 * n) .read).bind fun x t2 =>
          let t3 := t2.scopeCheck g (decide (i.mod.toNat % 4 ≠ 0) && decide (i.mod.toNat / 4 % 4 < 3) && decide (x.tgt ≠ 0))
          .ok () (t3.waitGlobal g i gr x cmp wide false))

/-- The wait of a group. -/
def State.watchOf (s : State) (g : GRef) : Option (Group × Watch) :=
  match s.group g with
  | some gr => match gr.wait with | .watch w => some (gr, w) | _ => none
  | none => none

/-- How many waits a cistern holds: those whose answer is not on its way (R99). -/
def Cistern.holding (c : Cistern) : Nat := (c.waits.filter fun h => h.answer = none).length

/-- CISTERN_WAIT_ARRIVAL (R97, R99, R272): behind the tile's own queued stores to the line (R73, R84) the cistern judges the word, holds the
wait, or, with 256 held, counts it and answers early; a word that differs already ends the wait at a full cistern too (R97, log 43). -/
def execCisternWaitArrival (g : GRef) (s : State) : Host.Outcome State Fault Refusal :=
  .next (
    match s.watchOf g with
    | none => s
    | some (gr, w) =>
      if w.site ≠ .sent ∨ (s.tile g.tile).holdsStore 0 (w.addr / 128) then s
      else
        let o := Owner.group g.tile g.slot
        let ctx := some (s.ctxOf g gr)
        match s.devReach o ctx w.addr w.size true false with
        | .failed => s.loseGroup g gr stPoisonConsumed 0
        | .asleep d => s.noteDom o d
        | .busy => s.takeTurn o ctx [w.addr / 128]
        | .ok =>
          let (x, s) := s.shownVal w.addr w.size
          let v : BitVec 64 := BitVec.ofNat 64 x
          let r := s.cisRead (plainReq ctx) (w.addr / 128) (offsOf w.addr w.size)
          let t := r.st.leaveTurn o ctx [w.addr / 128]
          if r.poison then t.loseGroup g gr stPoisonConsumed 0
          else
            let n := t.chanOf w.addr
            let fires := Watch.fires w v
            let (full, s1) := t.check detWaitOverflow n (decide (256 ≤ (t.cistern n).holding))
            if full && !fires then s1.putGroup g { gr with wait := .watch { w with site := .early } }
            else
              let w1 := { w with site := .held }
              let c := s1.cistern n
              (s1.setCistern n { c with waits := c.waits ++ [⟨g.tile, g.slot, w1, if fires then some v else none, false⟩] }).putGroup g
                { gr with wait := .watch w1 })

/-- WAIT_RESEND (R99). -/
def execWaitResend (g : GRef) (s : State) : Host.Outcome State Fault Refusal :=
  .next (
    match s.watchOf g with
    | some (gr, w) => if w.site = .early then s.putGroup g { gr with wait := .watch { w with site := .sent } } else s
    | none => s)

/-- The answer of a held wait, a cistern's or the tile's own, and whether it is poisoned. -/
def State.heldAnswer (s : State) (g : GRef) (w : Watch) : Option (BitVec 64 × Bool) :=
  let ws := if w.site = .scratch then (s.tile g.tile).waits else (s.cistern (s.chanOf w.addr)).waits
  (ws.find? fun h => h.tile = g.tile ∧ h.slot = g.slot).bind fun h => h.answer.map fun v => (v, h.poison)

/-- A held wait is withdrawn from where it is held. -/
def State.withdraw (s : State) (g : GRef) (w : Watch) : State :=
  if w.site = .scratch then
    let t := s.tile g.tile
    s.setTile g.tile { t with waits := t.waits.filter fun h => h.slot ≠ g.slot }
  else
    let n := s.chanOf w.addr
    let c := s.cistern n
    s.setCistern n { c with waits := c.waits.filter fun h => !(decide (h.tile = g.tile) && decide (h.slot = g.slot)) }

/-- The answer to a held wait of one kind reaches its group; a poisoned one loses its context (R272). -/
def State.answerWait (s : State) (g : GRef) (event : Bool) : State :=
  match s.watchOf g with
  | none => s
  | some (gr, w) =>
    if w.event ≠ event ∨ (w.site ≠ .held ∧ w.site ≠ .scratch) then s
    else
      match s.heldAnswer g w with
      | none => s
      | some (v, bad) =>
        if bad then (s.withdraw g w).loseGroup g gr stPoisonConsumed 0
        else (s.withdraw g w).deliver g gr w.dst w.regs v.toNat

/-- WAITNE_ANSWER (R97). -/
def execWaitneAnswer (g : GRef) (s : State) : Host.Outcome State Fault Refusal := .next (s.answerWait g false)

/-- EVWAIT_ANSWER (R100). -/
def execEvwaitAnswer (g : GRef) (s : State) : Host.Outcome State Fault Refusal := .next (s.answerWait g true)

/-- HOST_WAIT_POLL (R97, R331): a poll of host memory, or of another module's word, ends the wait where the word does; it goes behind the
tile's own queued stores to the line (R73, R84). -/
def execHostWaitPoll (g : GRef) (s : State) : Host.Outcome State Fault Refusal :=
  .next (
    match s.watchOf g with
    | none => s
    | some (gr, w) =>
      let judge := fun (v : Nat) (t : State) =>
        if (Watch.fires w (BitVec.ofNat 64 v)) = true then t.deliver g gr w.dst w.regs v else t
      match w.site with
      | .host =>
        if (s.tile g.tile).holdsStore 2 (w.addr / 128) then s
        else
          match s.hostReach (.group g.tile g.slot) with
          | .failed => s.loseGroup g gr stPoisonConsumed 0
          | .asleep d => s.noteDom (.group g.tile g.slot) d
          | .ok | .busy =>
            if s.hostCut then (s.note detPcieCpl 0).loseGroup g gr stPoisonConsumed 0
            else judge (leVal (Memory.reads s.mem.host w.addr w.size)) s
      | .board =>
        if (s.tile g.tile).holdsStore 1 (w.addr / 128) then s
        else
        let o := Owner.group g.tile g.slot
        match s.boardAns o w.addr with
        | some a => if a.poison then (s.boardDone o).loseGroup g gr stPoisonConsumed 0 else judge (leVal a.bytes) (s.boardDone o)
        | none => if s.boardAsked o w.addr then s else s.boardRead o (s.ctxOf g gr) w.addr w.size
      | _ => s)

/-! ## Events (R100) -/

/-- The scope of an event instruction against where it goes (R80): group and block scope are too narrow everywhere, device scope
beyond the module. -/
def eventScope (i : Insn) (tgt : Nat) : Bool :=
  let k := i.mod.toNat / 4
  decide (k < 2) || (decide (k < 3) && decide (tgt ≠ 0))

/-- The form of EVSIG. -/
def formEvsig (i : Insn) : Form :=
  ⟨i.fmt == 0, decide (i.mod.toNat < 16) && decide (i.mod.toNat % 4 = 0), 0, 0, 2, 2, 0, 0⟩

/-- EVSIG (R100): a release; the event changes only after every earlier access of the tile is performed (R78). Only an event that is
performed is performed at another scope (R80). -/
def execEvsig (g : GRef) (i : Insn) (s : State) : Host.Outcome State Fault Refusal :=
  .next (s.issueGo g i (formEvsig i) fun gr t =>
    if gr.m = 0 then .ok () (t.putGroup g gr.next)
    else
      let a := (gr.rd64 gr.first (regNum i.a)).toNat
      let v := gr.rd64 gr.first (regNum i.b)
      let (bad, t1) := t.check detEventInvalid g.tile (decide (a % 8 ≠ 0) || v.getLsbD 63)
      if bad then .ok () (t1.putGroup g gr.next)
      else if !(t1.tile g.tile).storeQ.isEmpty || t1.tileBoardBusy g.tile then .stall t1
      else
        let ctx := t1.ctxOf g gr
        let tgt := match t1.span ctx a 8 .write with | .ok x _ => x.tgt | _ => 0
        (t1.signal (.group g.tile g.slot) ctx a (.set v.toNat)).bind fun _ t2 =>
          .ok () ((t2.scopeCheck g (eventScope i tgt && (decide (tgt ≠ 2) || (t2.accepted 2 && Config.hostAtomics)))).putGroup g gr.next))

/-- The form of EVWAIT. -/
def formEvwait (i : Insn) : Form :=
  ⟨i.fmt == 0, decide (i.mod.toNat < 16) && decide (i.mod.toNat % 4 = 0), 0, 2, 2, 2, 0, 0⟩

/-- EVWAIT (R100): an invalid address, or host memory without HOSTEVT, reads as a poisoned event. -/
def execEvwait (g : GRef) (i : Insn) (s : State) : Host.Outcome State Fault Refusal :=
  .next (s.issueGo g i (formEvwait i) fun gr t =>
    if gr.m = 0 then .ok () (t.putGroup g gr.next)
    else
      let a := (gr.rd64 gr.first (regNum i.a)).toNat
      let v := gr.rd64 gr.first (regNum i.b)
      let ones := 2 ^ 64 - 1
      let (bad, t1) := t.check detEventInvalid g.tile (decide (a % 8 ≠ 0))
      if bad then .ok () (t1.deliver g gr.next (regNum i.d) 2 ones)
      else
        (t1.span (t1.ctxOf g gr) a 8 .read).bind fun x t2 =>
          if x.tgt = 2 ∧ t2.accepted 2 = false then .ok () ((t2.note detFeatureAbsent 0).deliver g gr.next (regNum i.d) 2 ones)
          else .ok () ((t2.scopeCheck g (eventScope i x.tgt)).waitGlobal g i gr x (v.toNat % 2 ^ 63) true true))

/-! ## The no-progress timer (R69 to R71) -/

/-- Whether a group holds the lowest slot that is resident on its tile. -/
def State.lowestGroup (s : State) (g : GRef) : Bool := (s.tile g.tile).groups.all fun e => decide (g.slot ≤ e.1)

/-- NO_PROGRESS_EXPIRY (R71): the context of a resident group whose timer has reached its period is lost; a firing at the tile makes the
timer of the lowest resident group expire at once (Table 16.5). -/
def execNoProgressExpiry (g : GRef) (s : State) : Host.Outcome State Fault Refusal :=
  .next (
    match s.group g with
    | some gr =>
      let due := decide (s.periodOf (s.ctxOf g gr) ≤ Tbl.getD (s.tile g.tile).timers g.slot 0)
      let (hit, s1) := if s.lowestGroup g then s.judge detNoProgress g.tile due else (due, s)
      if hit then s1.loseGroup g gr stNoProgress 0 else s1
    | none => s)

end Sys2Proof.Machine
end

