-- ==== Sys2Proof/Machine/Pump.lean ====
section
/-!
DEFINITION. The pumps (06 R183 to R196): PDESC, near fetch and far prefetch, delivery, the write side, scatter-add, and the completion
of a descriptor.
-/
namespace Sys2Proof.Machine

/-! ## PDESC (R184, R186) -/

/-- The bytes of a descriptor as its bits. -/
def descOf (bs : List (BitVec 8)) : TDesc := BitVec.ofNat 512 (leVal bs)

/-- Enqueue an accepted descriptor on a pump. -/
def Claim.enqueue (c : Claim) (p : Nat) (d : PumpDesc) : Claim :=
  let x := c.pump p
  let y := if d.role < 2 then { x with rd := x.rd ++ [d] } else { x with wr := x.wr ++ [d] }
  { c.setPump p y with seq := c.seq + 1 }

/-- Write PDESC's status to D of every active lane. -/
def State.pdescStatus (s : State) (g : GRef) (gr : Group) (i : Insn) (v : Nat) : State :=
  s.putGroup g (writeLanes gr (regNum i.d) 1 fun _ => v)

/-- Examine a descriptor that PDESC has read (R171, R184). -/
def State.pdescTake (s : State) (g : GRef) (gr : Group) (i : Insn) (c : Claim) (d : TDesc) : Go Unit :=
  let role := i.mod.toNat
  let rd := fun (x : BitVec 8) => (gr.rd gr.first (regNum x)).toNat
  let scr := if role % 2 = 1 then rd i.b else 0
  let stride := if role % 2 = 1 then rd i.c else 0
  let (bad, s1) := s.check detPumpDescInvalid g.tile (!tCheck d role scr stride)
  if bad then .ok () (s1.pdescStatus g gr i 1)
  else
    let (al, s2) := s1.judge detAlignFault g.tile (!tAligned d)
    if al then .lose stAlignFault (tBase d) s2
    else
      let (ov, s3) := if 2 ≤ role then s2.judge detAliasFault g.tile (!tDisjoint d) else (false, s2)
      if ov then .lose stAliasFault (tBase d) s3
      else
        let x : PumpDesc := ⟨d, role, scr, stride, g.slot, 0, 0, false, c.seq, [], 0, false⟩
        .ok () ((s3.putClaim g.tile (c.enqueue (i.ext.toNat / 2 % 2) x)).pdescStatus g gr i 0)

/-- The form of PDESC (Table 6.10, R68). -/
def formPdesc (s : State) (g : GRef) (i : Insn) : Form :=
  let bc := if i.mod.toNat % 2 = 1 then 1 else 0
  ⟨i.fmt == 0 && s.holdsClaim g, decide (i.mod.toNat < 4), 3, 1, if i.ext.getLsbD 0 then 1 else 2, bc, bc, 0⟩

/-- PDESC (Table 6.7): the descriptor is read once by the lowest active lane; to a full pump it is presented again. -/
def execPdesc (g : GRef) (i : Insn) (s : State) : Host.Outcome State Fault Refusal :=
  let scratch := i.ext.getLsbD 0
  .next (s.issueGo g i (formPdesc s g i) fun gr t =>
    match (t.tile g.tile).claim, t.blockOf g gr with
    | some c, some b =>
      let p := c.pump (i.ext.toNat / 2 % 2)
      if gr.m = 0 then .ok () (t.putGroup g gr.next)
      else if 64 ≤ p.rd.length + p.wr.length then .stall t
      else
        let a := if scratch then (gr.rd gr.first (regNum i.a)).toNat else (gr.rd64 gr.first (regNum i.a)).toNat
        if a % 64 ≠ 0 then .ok () ((t.check detPumpDescInvalid g.tile true).2.pdescStatus g gr i 1)
        else if scratch then
          if b.holds a 64 then t.pdescTake g gr i c (descOf (Memory.reads (t.tile g.tile).scratch (b.base + a) 64))
          else .lose stPageFault a t
        else
          (t.loadGlobal g (t.ctxOf g gr) 0 [(a, 64)]).bind fun rd t1 =>
            match (t1.tile g.tile).claim with
            | some c1 => t1.pdescTake g gr i c1 (descOf ((List.range 64).map fun k => rd (a + k)))
            | none => .stall t1
    | _, _ => .ok () (t.putGroup g gr.next))

/-! ## Reading (R169, R180, R189) -/

/-- Change the first descriptor of a list that satisfies a test. -/
def modifyFirst (p : PumpDesc → Bool) (f : PumpDesc → PumpDesc) : List PumpDesc → List PumpDesc
  | [] => []
  | d :: ds => if p d then f d :: ds else d :: modifyFirst p f ds

/-- The positions of the index tensor whose values elements `n` to `n + k - 1` need and the descriptor has not read: of a scatter all, since a
higher position decides which element stands (R181). A line is read once: with a value that is needed come all that lie in its line. -/
def PumpDesc.idxNeed (x : PumpDesc) (n k : Nat) : List Nat :=
  let d := x.raw
  let e := tExt d (tIdxDim d)
  let all := if tIdxEn d = false then []
    else if 2 ≤ x.role ∧ tAdd d = false then List.range e
    else
      let lines := (((List.range k).map fun i => (tIbase d + 4 * tIdxPos d (n + i)) / 128)).eraseDups
      lines.flatMap fun l => ((List.range 32).map fun w => 128 * l + 4 * w).filterMap fun a =>
        if tIbase d ≤ a ∧ a < tIbase d + 4 * e then some ((a - tIbase d) / 4) else none
  all.filter fun j => (Tbl.find x.idx j).isNone

/-- The index values a descriptor has read. -/
def PumpDesc.idxAt (x : PumpDesc) : Nat → BitVec 32 := fun j => Tbl.getD x.idx j 0

/-- The descriptor with the index values that elements `n` to `n + k - 1` need, each read once, latency-critical, with its marks (R180, R189). -/
def State.idxRead (s : State) (o : Owner) (ctx : Nat) (x : PumpDesc) (n k : Nat) : Go PumpDesc :=
  let d := x.raw
  let js := x.idxNeed n k
  if js = [] then .ok x s
  else
    (s.vGather o ctx { tReq d ctx false with cls := 1 } (js.map fun j => (tIbase d + 4 * j, 4))).bind fun rd s1 =>
      .ok { x with idx := js.foldl (fun t j => Tbl.put t j (BitVec.ofNat 32 (leVal ((List.range 4).map fun b => rd (tIbase d + 4 * j + b))))) x.idx } s1

/-- The code of an element from the bytes in memory. -/
def tCode (d : TDesc) (rd : Nat → BitVec 8) (l : Int) : Nat :=
  bitsOf (leVal ((List.range (tBytes d l)).map fun b => rd (tAddr d l + b))) (tShift d l) (memBits (tFmt d))

/-- The bytes that `k` elements from `n` lie in, each with its scale byte. -/
def PumpDesc.places (x : PumpDesc) (n k : Nat) : List (Nat × Nat) :=
  let d := x.raw
  ((List.range k).filterMap fun i => tOffset d x.idxAt (n + i)).flatMap fun l =>
    (tAddr d l, tBytes d l) :: (if isMx (tFmt d) then [(tScaleAddr d l, 1)] else [])

/-- The lines, by virtual line number, that the piece from element `n` reads, as far as the index values are known: a near fetch that goes on into
them is not done with them. -/
def PumpDesc.nextLines (x : PumpDesc) (n : Nat) : List Nat :=
  let d := x.raw
  if tTotal d ≤ n then []
  else
    let known := (List.range (min (tPiece d n) (tTotal d - n))).filter fun i => !tIdxEn d || (Tbl.find x.idx (tIdxPos d (n + i))).isSome
    ((known.flatMap fun i => x.places (n + i) 1).flatMap fun r => linesOf r.1 r.2).eraseDups

/-- Read elements `n` to `n + k - 1`, whose index values are there: code and scale byte of each; a skipped element reads as zero with scale 0x7F
(R180). A line that the next piece reads too is dropped under hint 11 only with its last piece (R190, R257). -/
def State.elemFetch (s : State) (o : Owner) (ctx : Nat) (x : PumpDesc) (n k : Nat) : Go (List (Nat × Nat)) :=
  let d := x.raw
  let rs := (x.places n k).flatMap fun r => chunks r.1 r.2
  let stay := if tHint d = 3 then x.nextLines (n + k) else []
  let q := tReq d ctx false
  (s.vGather o ctx { q with hint := 1 } (rs.filter fun r => r.1 / 128 ∈ stay)).bind fun rd1 s1 =>
    (s1.vGather o ctx q (rs.filter fun r => !decide (r.1 / 128 ∈ stay))).bind fun rd2 s2 =>
      let rd := fun (a : Nat) => if a / 128 ∈ stay then rd1 a else rd2 a
      .ok ((List.range k).map fun i => match tOffset d x.idxAt (n + i) with
        | none => (0, 0x7F)
        | some l => (tCode d rd l, (rd (tScaleAddr d l)).toNat)) s2

/-- Read elements with the index values they need: the elements, and the descriptor with those values. -/
def State.elemRead (s : State) (o : Owner) (ctx : Nat) (x : PumpDesc) (n k : Nat) : Go (List (Nat × Nat) × PumpDesc) :=
  (s.idxRead o ctx x n k).bind fun y s1 => (s1.elemFetch o ctx y n k).bind fun es s2 => .ok (es, y) s2

/-- The descriptor that a side works on takes the index values it has read. -/
def State.keepIdx (s : State) (tile pump : Nat) (wr : Bool) (x : PumpDesc) : State :=
  match (s.tile tile).claim with
  | none => s
  | some c =>
    let p := c.pump pump
    let keep := modifyFirst (fun y => !y.full) (fun (y : PumpDesc) => { y with idx := x.idx })
    s.putClaim tile (c.setPump pump (if wr then { p with wr := keep p.wr } else { p with rd := keep p.rd }))

/-- What waits keeps the index values read before it, since each is read once (R180). -/
def Go.keepIdx {α : Type} (tile pump : Nat) (wr : Bool) (x : PumpDesc) : Go α → Go α
  | .stall s => .stall (s.keepIdx tile pump wr x)
  | r => r

/-- What a piece delivers: its bytes for FEED in order, and for FILL with their scratch addresses in the block; and how many slice
blocks count in SPREAD (R177, R178). -/
def tDeliver (d : TDesc) (scr stride n : Nat) (es : List (Nat × Nat)) : List (Nat × List (BitVec 8)) × Nat :=
  let w := tOutBits d
  let row := max (tDext d 0) 1
  let out := fun (xs : List (Nat × Nat)) => packElems w (xs.map fun e => tTransform d e.1 e.2)
  if tLayout d = 1 then
    let rb := tRb d
    let base := scr + n / 2048 * (64 * stride + if tArea d then 64 else 0)
    let krow := fun (k : Nat) => (es.drop (32 * k)).take 32
    if tSlice d ≠ 0 then
      let blocks := (List.range 32).map fun c => sliceBlock (tSlice d) (tEw d) ((List.range 64).map fun k => (es.getD (32 * k + c) (0, 0)).1)
      let rows := (List.range 64).map fun k => (base + k * stride, packElems 8 (blocks.map fun b => b.1.getD k 0))
      (rows ++ [(base + 64 * stride, blocks.flatMap fun b => leBytes 2 b.2.1)], (blocks.filter fun b => b.2.2).length)
    else
      let rows := (List.range 64).map fun k => (base + k * stride, (out (krow k)).take rb)
      let area := (List.range 64).map fun j => BitVec.ofNat 8 (es.getD (32 * (32 * (j / 32)) + j % 32) (0, 0)).2
      (if tArea d then rows ++ [(base + 64 * stride, area)] else rows, 0)
  else
    let at_ := scr + n / row * stride
    let off := n % row
    if tSlice d ≠ 0 then
      let b := sliceBlock (tSlice d) (tEw d) (es.map (·.1))
      ([(at_, packElems 8 b.1), (at_ + row, leBytes 2 b.2.1)], b2n b.2.2)
    else
      let scales := (List.range (es.length / 32)).map fun k => BitVec.ofNat 8 (es.getD (32 * k) (0, 0)).2
      ((at_ + off * w / 8, out es) :: (if tScaled d then [(at_ + row * w / 8 + off / 32, scales)] else []), 0)

/-- Bytes of a landing buffer with what waits in the feed queue behind it (R189: 64 KiB). -/
def Pump.landed (p : Pump) : Nat := (p.landing.map fun u => (u.parts.map (·.2.length)).sum).sum + p.feed.length

/-- Bytes a piece delivers. -/
def tPieceBytes (d : TDesc) (n : Nat) : Nat :=
  n * tOutBits d / 8 + (if tScaled d then n / 32 else if tSlice d ≠ 0 then (if tLayout d = 1 then 64 else 2) else 0)

/-- The pump event of a claim: the claim, its block, and the pump. -/
def State.onPump (s : State) (tile p : Nat) (k : Claim → Block → Pump → State) : State :=
  match (s.tile tile).claim with
  | none => s
  | some c =>
    match Tbl.find (s.tile tile).blocks c.block with
    | none => s
    | some b => k c b (c.pump p)

/-- What a pump's access leaves: its result, a stall that is presented again, or the loss of the context. -/
def Go.forPump {α : Type} (tile : Nat) (c : Claim) (k : α → State → State) : Go α → State
  | .ok a s => k a s
  | .stall s => s
  | .lose code va s => s.loseClaim tile 2 c code va

/-- Whether a descriptor's first read must still wait (R87, R180): a store of the tile may happen before its enqueue, its own group's or, by
R78, another's, until the tile's store queue is empty and other modules have answered. -/
def State.pumpHeld (s : State) (tile : Nat) : Bool := !(s.tile tile).storeQ.isEmpty || s.tileBoardBusy tile

/-- Whether the landing buffer has room for `k` bytes more (R189). -/
def Pump.room (p : Pump) (k : Nat) : Bool := !(decide (0 < p.landed) && decide (0x10000 < p.landed + k))

/-- A unit lands (R189, R194): what FEED units the pump holds bytes of is kept as positions. -/
def Pump.land (p : Pump) (u : Landed) (f : FeedUnit) : Pump :=
  let q := { p with landing := p.landing ++ [u] }
  if u.fill then q else { q with units := unitsOf q.unread (p.units ++ [f]) }

/-- A unit that a swap discarded is fetched again; its slices are counted already (R194, DEDUCED, log 44). -/
def State.refetch (s : State) (tile pump : Nat) (c : Claim) (ctx : Nat) (p : Pump) (u : FeedUnit) : State :=
  if p.room u.len = false then s
  else
    let x : PumpDesc := ⟨u.raw, 0, 0, 0, 0, u.pos, 0, false, 0, [], 0, false⟩
    let o := Owner.pump tile pump
    (s.elemRead o ctx x u.pos u.n).forPump tile c fun es t =>
      let bs := ((tDeliver u.raw 0 0 u.pos es.1).1.flatMap (·.2)).drop p.skip
      (t.boardDone (.pump tile pump)).putClaim tile
        (c.setPump pump ({ p with again := p.again.drop 1, skip := 0 }.land ⟨false, u.n, [(0, bs)]⟩ u))

/-- PUMP_NEAR_FETCH (R189): the next piece of the first descriptor that is not all fetched. Its first read waits for the stores
before its enqueue (R87). -/
def execPumpNearFetch (tile pump : Nat) (s : State) : Host.Outcome State Fault Refusal :=
  .next (s.onPump tile pump fun c b p =>
    match p.again, p.rd.find? fun d => !d.full with
    | u :: _, _ => s.refetch tile pump c b.cmd.ctx p u
    | [], none => s
    | [], some x =>
      let d := x.raw
      let n := tPiece d x.pos
      if (decide (x.pos = 0) && s.pumpHeld tile) || !p.room (tPieceBytes d n) then s
      else
        let o := Owner.pump tile pump
        let ctx := b.cmd.ctx
        let lost := (s.statVa ctx (tTid d)).isNone
        ((s.idxRead o ctx x x.pos n).bind fun y s0 => Go.keepIdx tile pump false y <| (s0.elemFetch o ctx y x.pos n).bind fun es s1 =>
          let r := tDeliver d x.scr x.stride x.pos es
          let more := decide (0 < r.2) && lost
          let add := if more && x.dropped then StatAdd.none else { StatAdd.none with spread := r.2 }
          (s1.statAdd o ctx (tTid d) add).bind fun _ s2 => .ok (r.1, { y with dropped := x.dropped || more }) s2).forPump tile c fun got t =>
            let full := decide (tTotal d ≤ x.pos + n)
            let p1 := { p with rd := modifyFirst (fun y => !y.full) (fun _ => { got.2 with pos := x.pos + n, full := full }) p.rd }
            (t.boardDone o).putClaim tile
              (c.setPump pump (p1.land ⟨decide (x.role = 1), n, got.1⟩ ⟨d, x.pos, n, (got.1.map (·.2.length)).sum⟩)))

/-- Bytes of memory between a descriptor's near fetch and its far prefetch. -/
def PumpDesc.ahead (x : PumpDesc) : Nat := (max x.far x.pos - x.pos) * memBits (tFmt x.raw) / 8

/-- Whether a descriptor has anything left to prefetch (R189). -/
def PumpDesc.prefetches (x : PumpDesc) : Bool := !x.full && decide (0 < tPfd x.raw) && decide (max x.far x.pos < tTotal x.raw)

/-- PUMP_FAR_PREFETCH (R189, R190): the lines of the next elements beyond the near fetch come into their cisterns, of the first descriptor that
has any left, a piece at most, and as many as its PFD and the 2 MiB over all leave; it never faults and never consumes poison. -/
def execPumpFarPrefetch (tile pump : Nat) (s : State) : Host.Outcome State Fault Refusal :=
  .next (s.onPump tile pump fun c b p =>
    match p.rd.find? (·.prefetches) with
    | none => s
    | some x =>
      let d := x.raw
      let at_ := max x.far x.pos
      let room := min (2 ^ (tPfd d + 10) - x.ahead) (0x200000 - (p.rd.map (·.ahead)).sum)
      let n := min (tPiece d at_) (min (tTotal d - at_) (8 * room / memBits (tFmt d)))
      let y := { x with far := at_ + n }
      if n = 0 then s
      else
        let ctx := b.cmd.ctx
        let idx : Nat → BitVec 32 := fun j => (Tbl.find x.idx j).getD (BitVec.ofNat 32
          (match State.spansOf ctx .read (chunks (tIbase d + 4 * j) 4) s with
          | .ok sp _ => leVal (sp.flatMap fun y => s.spanBytes .noone y)
          | _ => 0x80000000))
        let ls := (List.range n).filterMap fun i => tOffset d idx (at_ + i)
        let rs := ls.flatMap fun l => (tAddr d l, tBytes d l) :: (if isMx (tFmt d) then [(tScaleAddr d l, 1)] else [])
        let s1 := (lineChunks rs).foldl (fun (t : State) r =>
          match t.span ctx r.1 r.2 .read with
          | .ok y t1 =>
            if y.tgt ≠ 0 then t1
            else
              match t1.devReach (.pump tile pump) (some ctx) y.addr y.n true false with
              | .ok => (t1.cisRead (tReq d ctx true) (y.addr / 128) (List.range 128)).st
              | .asleep v => t1.wakeFor (some (.pump tile pump)) v
              | _ => t1
          | _ => t) s
        s1.putClaim tile (c.setPump pump { p with rd := modifyFirst (·.prefetches) (fun _ => y) p.rd }))

/-- PUMP_DELIVER (R178): the oldest landed unit goes to the feed queue, or into scratch (R179). -/
def execPumpDeliver (tile pump : Nat) (s : State) : Host.Outcome State Fault Refusal :=
  .next (s.onPump tile pump fun c b p =>
    match p.landing with
    | [] => s
    | u :: us =>
      let (ue, s) := s.tileSram .well tile
      if ue then s.loseClaim tile 2 c stPoisonConsumed 0
      else if u.fill = false then
        s.putClaim tile (c.setPump pump { p with landing := us, feed := p.feed ++ u.parts.flatMap (·.2) })
      else if u.parts.all (fun w => b.holds w.1 w.2.length) = false then s.loseClaim tile 2 c stPageFault 0
      else
        let t := s.tile tile
        let t1 := u.parts.foldl (fun (x : Tile) w => x.scratchWrite (b.base + w.1) w.2) t
        let p1 := { p with landing := us, rd := modifyFirst (fun y => decide (y.role = 1) && decide (y.out < y.pos)) (fun y => { y with out := y.out + u.n }) p.rd }
        (s.setTile tile t1).putClaim tile (c.setPump pump p1))

/-! ## Writing (R188, R181, R182) -/

/-- An element that is written: its code, its scale byte if it has one, and its statistics. -/
structure OutElem where
  code : Nat
  scale : Option Nat
  stat : Option ElemStat
  trunc : Nat
deriving DecidableEq, Repr, Inhabited

/-- Elements of a SPILL from scratch (R179): `k` from element `n`, and whether the scratch range is visible. -/
def State.spillRead (s : State) (tile : Nat) (b : Block) (x : PumpDesc) (n k : Nat) : Option (List OutElem) :=
  let d := x.raw
  let w := memBits (tFmt d)
  let row := max (tDext d 0) 1
  let at_ := x.scr + n / row * x.stride
  let off := n % row
  let lo := at_ + off * w / 8
  let sc := at_ + row * w / 8 + off / 32
  let ns := if isMx (tFmt d) then (k + 31) / 32 else 0
  if b.holds lo (k * w / 8) && b.holds sc ns then
    let m := (s.tile tile).scratch
    let cs := codesOf w k (Memory.reads m (b.base + lo) (k * w / 8))
    some (cs.zipIdx.map fun e =>
      ⟨e.1, if isMx (tFmt d) then some (Memory.read m (b.base + sc + e.2 / 32)).toNat else none, none, 0⟩)
  else none

/-- The next elements of a write descriptor, `k` at most: from the write queue, or from scratch; none for a scratch range beyond the
visible allocation. -/
def State.nextOut (s : State) (tile : Nat) (b : Block) (p : Pump) (x : PumpDesc) (k : Nat) : Option (List OutElem) :=
  let left := tTotal x.raw - x.pos
  if x.role = 2 then some ((p.writeQ.take (min k left)).map fun e => ⟨e.code, e.scale, e.stat, e.trunc⟩)
  else s.spillRead tile b x x.pos (min k (min left (tPiece x.raw x.pos)))

/-- The statistics that a descriptor's elements add to its record (R188): the elements it writes, and the truncation counts. -/
def outStats (os : List (OutElem × Option Int)) : StatAdd :=
  os.foldl (fun (a : StatAdd) e =>
    let a1 := { a with trunc := a.trunc + e.1.trunc }
    match e.1.stat, e.2 with
    | some t, some _ => a1.plus (StatAdd.ofElem t)
    | _, _ => a1) StatAdd.none

/-- Put the bits of an element into a table of byte values and masks, from address `a`: `k` bytes. -/
def maskBytes : Nat → Tbl (BitVec 8 × BitVec 8) → Nat → Nat → Nat → Tbl (BitVec 8 × BitVec 8)
  | 0, t, _, _, _ => t
  | k + 1, t, a, v, m =>
    let mk : BitVec 8 := BitVec.ofNat 8 m
    let old := Tbl.getD t a (0, 0)
    maskBytes k (Tbl.put t a ((old.1 &&& ~~~mk) ||| (BitVec.ofNat 8 v &&& mk), old.2 ||| mk)) (a + 1) (v / 256) (m / 256)

/-- The bytes that elements write, with the bits of each (R169, R181, R188): a later element of the delivery order stands. DESIGN CHOICE (log 48): a
descriptor whose format is not the one drained writes each code cut to its width, and a scale byte only where its own format is an MX one. -/
def outBytes (d : TDesc) (os : List (OutElem × Option Int)) : Tbl (BitVec 8 × BitVec 8) :=
  os.foldl (fun t e =>
    match e.2 with
    | none => t
    | some l =>
      let sh := tShift d l
      let w := memBits (tFmt d)
      let t1 := maskBytes (tBytes d l) t (tAddr d l) (e.1.code % 2 ^ w * 2 ^ sh) ((2 ^ w - 1) * 2 ^ sh)
      match e.1.scale with
      | some sc => if isMx (tFmt d) then Tbl.put t1 (tScaleAddr d l) (BitVec.ofNat 8 sc, 255) else t1
      | none => t1) []

/-- Runs of consecutive addresses. -/
def byteRuns : List (Nat × BitVec 8) → List (Nat × List (BitVec 8))
  | [] => []
  | (a, b) :: t =>
    match byteRuns t with
    | (a2, bs) :: rest => if a2 = a + 1 then (a, b :: bs) :: rest else (a, [b]) :: (a2, bs) :: rest
    | [] => [(a, [b])]

/-- The bytes that stand at addresses, as a merge of single bits finds them (R188): no request of the pump's reads them. -/
def State.vPeek (s : State) (o : Owner) (ctx : Nat) (as : List Nat) : Go (Nat → BitVec 8) :=
  (State.spansOf ctx .read (as.map fun a => (a, 1)) s).bind fun sp s1 =>
    let (here, s2) := s1.boardGather o ctx sp
    if here = false then .stall s2
    else
      match s2.reachAll o (some ctx) sp true false with
      | .failed => .lose stPoisonConsumed (as.headD 0) s2
      | .asleep d => .stall (s2.noteDom o d)
      | .busy => .stall (s2.takeTurn o (some ctx) (devLines sp))
      | .ok => .ok (byteOf (sp.map fun x => (x, s2.spanBytes o x))) s2

/-- Merge bits into a 4-byte word of another module (R188) by the atomics that a frame can carry (Table 12.3): the word is read, and a
compare-and-swap at its owner puts the merged word in its place, again with the word it finds until it stands (DESIGN CHOICE, log 44). -/
def State.farMerge (s : State) (o : Owner) (ctx word val mask : Nat) : Go Bool :=
  let kr := 2 ^ 61 + word
  let kc := 2 ^ 60 + word
  match s.boardAns o kr with
  | none => .ok false (if s.boardAsked o kr then s else s.boardAsk o none kr ctx 1 word (word % 2 ^ 43 + 3 * 2 ^ 43) [])
  | some a =>
    if a.poison then .lose stPoisonConsumed 0 s
    else
      let merged := fun (old : Nat) => BitVec.ofNat 64 (old &&& (2 ^ 32 - 1 - mask) ||| val)
      let swap := fun (old : Nat) (t : State) => t.boardAtom o kc ctx word 7 0 (BitVec.ofNat 64 old) (merged old)
      match s.boardAns o kc with
      | none => .ok false (if s.boardAsked o kc then s else swap (leVal a.bytes) s)
      | some r =>
        if r.poison then .lose stPoisonConsumed 0 s
        else if leVal r.bytes = leVal a.bytes then .ok true s
        else
          .ok false (swap (leVal r.bytes) { s with ridge := { s.ridge with
            answers := (s.ridge.answers.filter fun x => !(decide (x.owner = o) && decide (x.key = kc))).map fun x =>
              if x.owner = o ∧ x.key = kr then { x with bytes := r.bytes } else x } })

/-- Merge bits into several words of other modules; a stall until every one of them stands. -/
def State.farMerges (s : State) (o : Owner) (ctx : Nat) (ps : List (Nat × (BitVec 8 × BitVec 8))) : Go Unit :=
  let ws := (ps.map fun p => p.1 / 4 * 4).eraseDups
  (ws.foldl (fun (r : Go Bool) w => r.bind fun ok t =>
    let mine := ps.filter fun p => p.1 / 4 * 4 = w
    let sum := fun (f : BitVec 8 × BitVec 8 → BitVec 8) => (mine.map fun p => (f p.2).toNat * 2 ^ (8 * (p.1 % 4))).sum
    (t.farMerge o ctx w (sum (·.1)) (sum (·.2))).bind fun done u => .ok (ok && done) u) (.ok true s)).bind fun ok t =>
      if ok then .ok () t else .stall t

/-- Write scattered bytes with the marks of a request; a byte with bits that are not written keeps them (R188). -/
def State.vScatter (s : State) (o : Owner) (ctx : Nat) (q : MemReq) (t : Tbl (BitVec 8 × BitVec 8)) : Go Unit :=
  let part := t.filter fun e => e.2.2 ≠ 255
  (State.spansOf ctx .write (part.map fun e => (e.1, 1)) s).bind fun ps s0 =>
    let far := (ps.zip part).filter fun p => p.1.tgt = 1
    (s0.farMerges o ctx (far.map fun p => (p.1.addr, p.2.2))).bind fun _ s1 =>
      let here := t.filter fun e => !far.any fun p => p.2.1 = e.1
      (s1.vPeek o ctx ((here.filter fun e => e.2.2 ≠ 255).map (·.1))).bind fun rd s2 =>
        let bytes := here.map fun e => (e.1, e.2.1 ||| (if e.2.2 = 255 then 0 else rd e.1 &&& ~~~e.2.2))
        let runs := byteRuns bytes
        let cs := runs.flatMap fun r => chunks r.1 r.2.length
        (State.spansOf ctx .write cs s2).bind fun sp s3 => s3.writeSpans o ctx q (zipSpans sp (runs.flatMap (·.2)))

/-- A write descriptor after `k` of its elements. -/
def Claim.wrote (c : Claim) (pump k : Nat) (x : PumpDesc) (idx : Tbl (BitVec 32)) : Claim :=
  let p := c.pump pump
  let full := decide (tTotal x.raw ≤ x.pos + k)
  c.setPump pump { p with
    wr := modifyFirst (fun y => !y.full) (fun y => { y with pos := y.pos + k, full := full, idx := idx }) p.wr
    writeQ := if x.role = 2 then p.writeQ.drop k else p.writeQ }

/-- PUMP_WRITE (R188): the next elements of the first write descriptor that is not all written go to memory: of a SINK a row of the
write queue, of a SPILL a piece of a scratch row. -/
def execPumpWrite (tile pump : Nat) (s : State) : Host.Outcome State Fault Refusal :=
  .next (s.onPump tile pump fun c b p =>
    match p.wr.find? fun d => !d.full with
    | none => s
    | some x =>
      let d := x.raw
      if tAdd d || (tIdxEn d && decide (x.pos = 0) && s.pumpHeld tile) then s
      else
        match s.nextOut tile b p x (if x.role = 2 then 32 else 256) with
        | none => s.loseClaim tile 2 c stPageFault 0
        | some [] => s
        | some es =>
          let o := Owner.pump tile (2 + pump)
          let ctx := b.cmd.ctx
          let (ue, s) := s.tileSram (if x.role = 2 then .well else .scratch) tile
          if ue then s.loseClaim tile 2 c stPoisonConsumed 0
          else
          ((s.idxRead o ctx x x.pos es.length).bind fun y s1 => Go.keepIdx tile pump true y <|
            let os := es.zipIdx.map fun e => (e.1, if tHidden d y.idxAt (x.pos + e.2) then none else tOffset d y.idxAt (x.pos + e.2))
            match s1.statAdd o ctx (tTid d) (outStats os) with
            | .lose code va s2 => .lose code va s2
            | .stall s2 => .stall s2
            | .ok _ s2 =>
              match s2.vScatter o ctx (tReq d ctx false) (outBytes d os) with
              | .ok _ s3 => .ok y s3
              | .stall s3 => .stall ({ s1 with ridge := s3.ridge, fresh := s3.fresh, tiles := s3.tiles, out := s3.out }.keepTurns s3)
              | .lose code va s3 => .lose code va s3).forPump tile c fun y t =>
                ((t.boardDone o).putClaim tile (c.wrote pump es.length x y.idx)).blockLeave tile c.block)

/-- Add a record to the record that stands in memory (R182), with the judgements of its detectors at a pump's tile and the record's channel `u`: the
new value, or none where it is not added. DESIGN CHOICE (log 48): where both records have reserved bits set, that counts one. -/
def State.recordSum (s : State) (tile u old incoming : Nat) : Option Nat × State :=
  let dst := RawRec.ofNat old
  let inc := RawRec.ofNat incoming
  if dst.resv || inc.resv then (none, s.note detArrayInvalid tile)
  else
    let (ovr, s1) := if dst.acc.ovf then (false, s) else s.check detPumpAddOverflow u (dst.acc.placeOver dst.base inc)
    let r := dst.acc.place dst.base inc ovr
    let (_, s2) := s1.check detPumpAddTrunc u r.2
    (some (RawRec.toNat ⟨r.1, dst.base, false⟩), s2)

/-- An atomic on 8 bytes of another module: its old value, once the answer is here. -/
def State.farAtom (s : State) (o : Owner) (key ctx addr op v : Nat) : Go Nat :=
  match s.boardAns o key with
  | none => .stall (if s.boardAsked o key then s else s.boardAtom o key ctx addr op 2 (BitVec.ofNat 64 v) 0)
  | some a => if a.poison then .lose stPoisonConsumed 0 s else .ok (leVal a.bytes) s

/-- The flags of an accumulator as bits [211:208] of a record. -/
def Acc.flagBits (a : Acc) : Nat := b2n a.nan + 2 * b2n a.pinf + 4 * b2n a.ninf + 8 * b2n a.ovf

/-- Add `v` to the X of another module's record, word by word with the carries that the old values give, and OR flags into it: no concurrent addition
is lost (log 44). An addition that leaves the s192 range saturates the record. -/
def State.farAdd (s : State) (o : Owner) (ctx u addr v flags : Nat) : Go Unit :=
  let w := fun i => v / 2 ^ (64 * i) % 2 ^ 64
  let key := fun i => 2 ^ 59 + addr + 8 * i
  (s.farAtom o (key 0) ctx addr 0 (w 0)).bind fun o0 s1 =>
  let a1 := w 1 + (o0 + w 0) / 2 ^ 64
  (s1.farAtom o (key 1) ctx (addr + 8) 0 a1).bind fun o1 s2 =>
  let c1 := (o1 + a1) / 2 ^ 64
  (s2.farAtom o (key 2) ctx (addr + 16) 0 (w 2 + c1)).bind fun o2 s3 =>
  (if flags = 0 then Go.ok 0 s3 else s3.farAtom o (key 3) ctx (addr + 24) 4 (flags * 2 ^ 16)).bind fun _ s4 =>
  let top := sVal 64 o2 + sVal 64 (w 2) + c1
  if top < -(2 ^ 63) ∨ 2 ^ 63 ≤ top then
    let x := leBytes 24 (satS192 (decide (top < 0))).toNat
    .ok () ((s4.note detPumpAddOverflow u).boardWrite o none ctx (addr / 128)
      (bytesAt (addr % 128) x ++ [(addr % 128 + 26, BitVec.ofNat 8 (flags ||| 8))]))
  else .ok () s4

/-- Add one record at an address of a context. No frame of Table 12.3 carries a record of 32 bytes, where R182 has one atomic operation at the owner:
in another module's memory the record is read and the sum made by the atomics a frame can carry (DESIGN CHOICE, log 44). -/
def State.recordAdd (s : State) (o : Owner) (ctx tile : Nat) (q : MemReq) (va incoming : Nat) : Go Unit :=
  (s.span ctx va 32 .write).bind fun x s1 =>
    match x.tgt with
    | 0 =>
      match s1.devUpdate o q x.addr 32 fun old t => t.recordSum tile (t.chanOf x.addr) old incoming with
      | .done _ s3 => .ok () s3
      | .poison c s3 => .lose c va s3
      | .wait s3 => .stall s3
    | 1 =>
      match s1.boardAns o x.addr with
      | none => .stall (if s1.boardAsked o x.addr then s1 else s1.boardRead o ctx x.addr 32)
      | some a =>
        if a.poison then .lose stPoisonConsumed va s1
        else
          let u := s1.chanOf x.addr
          match s1.recordSum tile u (leVal a.bytes) incoming with
          | (none, s2) => .ok () s2
          | (some v, s2) =>
            let old := (RawRec.ofNat (leVal a.bytes)).acc
            let new := (RawRec.ofNat v).acc
            if new.ovf then .ok () (s2.boardWrite o none ctx (x.addr / 128) (bytesAt (x.addr % 128) (leBytes 32 v)))
            else s2.farAdd o ctx u x.addr (new.x - old.x).toNat new.flagBits
    | _ => .ok () (s1.check detPumpAddHost tile true).2

/-- PUMP_ADD (R182): the next record of the first write descriptor, which has ADD set, is added at its place. -/
def execPumpAdd (tile pump : Nat) (s : State) : Host.Outcome State Fault Refusal :=
  .next (s.onPump tile pump fun c b p =>
    match p.wr.find? fun d => !d.full with
    | none => s
    | some x =>
      let d := x.raw
      if !tAdd d || (tIdxEn d && decide (x.pos = 0) && s.pumpHeld tile) then s
      else
        match s.nextOut tile b p x 1 with
        | none => s.loseClaim tile 2 c stPageFault 0
        | some [] => s
        | some (e :: _) =>
          let o := Owner.pump tile (2 + pump)
          let ctx := b.cmd.ctx
          let (ue, s) := s.tileSram (if x.role = 2 then .well else .scratch) tile
          if ue then s.loseClaim tile 2 c stPoisonConsumed 0
          else
          ((s.idxRead o ctx x x.pos 1).bind fun y s1 => Go.keepIdx tile pump true y <|
            let l := tOffset d y.idxAt x.pos
            match s1.statAdd o ctx (tTid d) (outStats [(e, l)]) with
            | .lose code va s2 => .lose code va s2
            | .stall s2 => .stall s2
            | .ok _ s2 =>
              match l with
              | none => .ok y s2
              | some l =>
                match s2.recordAdd o ctx tile (tReq d ctx false) (tAddr d l) e.code with
                | .ok _ s3 => .ok y s3
                | .stall s3 => .stall ({ s1 with ridge := s3.ridge, fresh := s3.fresh, tiles := s3.tiles, out := s3.out }.keepTurns s3)
                | .lose code va s3 => .lose code va s3).forPump tile c fun y t =>
                  ((t.boardDone o).putClaim tile (c.wrote pump 1 x y.idx)).blockLeave tile c.block)

/-! ## Completion (R191) -/

/-- PUMP_DESC_COMPLETE (R191): the oldest descriptor of a side completes: a FEED that is all read, a FILL that is all in scratch, a
SINK or SPILL whose writes are acknowledged. -/
def execPumpDescComplete (tile pump : Nat) (wr : Bool) (s : State) : Host.Outcome State Fault Refusal :=
  .next (s.onPump tile pump fun c _ p =>
    match if wr then p.wr else p.rd with
    | [] => s
    | x :: rest =>
      let done := x.full && (if wr then !s.boardBusy (.pump tile (2 + pump)) else decide (x.role = 0) || decide (x.out = x.pos))
      if done then
        (s.putClaim tile (c.setPump pump (if wr then { p with wr := rest } else { p with rd := rest }))).blockLeave tile c.block
      else s)

end Sys2Proof.Machine
end

