-- ==== Sys2Proof/Machine/IllegalWord.lean ====
section
/-!
DEFINITION. The 64-bit instruction word (02 R52 to R55, R68): its fields, the form of every class and operation the spec assigns, and
the illegal word.
-/
namespace Sys2Proof.Machine

/-- The fields of a word (Table 2.3). -/
def insnOf (w : BitVec 64) : Insn :=
  ⟨w.extractLsb' 48 4, w.extractLsb' 43 5, w.getLsbD 42, w.extractLsb' 32 10, w.extractLsb' 24 8, w.extractLsb' 16 8,
   w.extractLsb' 8 8, w.extractLsb' 0 8⟩

/-- The class of a word. -/
def clsOf (w : BitVec 64) : Nat := field w 60 4

/-- The operation of a word in its class. -/
def opOf (w : BitVec 64) : Nat := field w 52 8

/-- The forms of class 0x0 (Table 2.6). -/
def formInt (op : Nat) (i : Insn) : Option Form :=
  match op with
  | 0x00 | 0x01 | 0x02 | 0x03 | 0x05 | 0x06 => some (formDAB intFmts i)
  | 0x04 => some (formDABC intFmts i)
  | 0x07 => some (formDA [1, 3] i)
  | 0x08 | 0x09 | 0x0A => some (formDAB [0, 2] i)
  | 0x0B => some (formShift [0, 2] i)
  | 0x0C => some (formShift intFmts i)
  | 0x0D => some (formDAB [0] i)
  | 0x0E | 0x0F | 0x10 => some (formDA [0, 2] i)
  | 0x11 => some (formIset i)
  | 0x12 => some (formSel i)
  | 0x13 => some (formMov i)
  | 0x14 => some (formMovhi i)
  | _ => none

/-- The forms of class 0x1 (Table 2.7). -/
def formFp (op : Nat) (i : Insn) : Option Form :=
  match op with
  | 0x00 | 0x01 | 0x02 => some (formFloat i false true)
  | 0x03 => some (formFloat i true true)
  | 0x04 | 0x05 => some (formFloat i false false)
  | 0x06 | 0x07 => some (formDA floatFmts i)
  | 0x08 => some (formFset i)
  | 0x09 | 0x0A => some (formDA [4, 5] i)
  | 0x0B | 0x0C | 0x0D | 0x0E | 0x0F => some (formDA [4] i)
  | _ => none

/-- The forms of classes 0x2 and 0x3 (Tables 2.8 and 2.9). -/
def formConvCross (cls op : Nat) (i : Insn) : Option Form :=
  match cls, op with
  | 2, 0x00 => some (formCvt i)
  | 2, 0x01 => some (formCvtPk i)
  | 2, 0x02 => some (formCvtUpk i)
  | 3, 0x00 => some (formVote i)
  | 3, 0x01 | 3, 0x02 => some (formShuffle i)
  | 3, 0x03 => some (formS2r i)
  | _, _ => none

/-- The forms of class 0x4 (Table 2.10). -/
def formMemory (op : Nat) (i : Insn) : Option Form :=
  match op with
  | 0x00 => some (formMem i [0, 1] 2 true)
  | 0x01 => some (formMem i [0, 2] 2 true)
  | 0x02 => some (formMem i [0, 1] 1 false)
  | 0x03 => some (formMem i [0, 2] 1 false)
  | 0x04 => some (formPref i)
  | 0x05 => some (formScopy i)
  | 0x06 => some (formScwait i)
  | _ => none

/-- The forms of class 0x6 (Table 2.12). -/
def formControl (op : Nat) (i : Insn) : Option Form :=
  match op with
  | 0x00 | 0x12 | 0x3F => some (formCtl i 0 0 false)
  | 0x01 | 0x11 | 0x13 => some (formCtl i 0 0 true)
  | 0x02 | 0x03 | 0x10 => some (formCtl i 0 1 true)
  | 0x04 => some (formCtl i 2 0 true)
  | 0x05 => some (formCtl i 0 2 false)
  | 0x14 => some (formCtl i 0 1 false)
  | 0x20 => some (formElect i)
  | _ => none

/-- The forms of class 0x7 (Table 3.4). -/
def formSync (op : Nat) (i : Insn) : Option Form :=
  match op with
  | 0x00 => some (formFence i)
  | 0x01 => some (formBar i)
  | 0x02 => some (formWaitne i)
  | 0x03 => some (formEvsig i)
  | 0x04 => some (formEvwait i)
  | 0x05 => some (formUwait i)
  | _ => none

/-- The forms of class 0x8 (Table 4.2). -/
def State.formArrays (s : State) (g : GRef) (op : Nat) (i : Insn) : Option Form :=
  match op with
  | 0x00 => some (formAload s g i)
  | 0x01 => some (formAstream s g i)
  | 0x02 => some (formGpair s g i)
  | 0x03 => some (formWdrain s g i)
  | 0x04 => some (formWreduce s g i)
  | 0x05 => some (formWacc s g i)
  | 0x06 => some (formWclr s g i)
  | 0x07 => some (formAmode s g i)
  | _ => none

/-- The form of a class and operation, none where they are unassigned (R53, Table 2.4). -/
def State.formOf (s : State) (g : GRef) (cls op : Nat) (i : Insn) : Option Form :=
  match cls with
  | 0x0 => formInt op i
  | 0x1 => formFp op i
  | 0x2 | 0x3 => formConvCross cls op i
  | 0x4 => formMemory op i
  | 0x5 => if op < 8 then some (formAtom op i) else none
  | 0x6 => formControl op i
  | 0x7 => formSync op i
  | 0x8 => s.formArrays g op i
  | 0x9 => if op = 0 then some (formPdesc s g i) else none
  | 0xA => match op with
    | 0 => some (formRnd i)
    | 1 => some (formRkey i)
    | _ => none
  | 0xB => match op with
    | 0 => some (formStat i 2 0 true)
    | 1 => some (formStat i 0 0 false)
    | 2 => some (formStat i 0 2 true)
    | _ => none
  | _ => none

/-- The commands that the operations of a class spell, by OP (Tables 2.4, 2.6 to 2.12, 3.3, 4.2, 6.6, 7.9, 5.9). -/
def wordOps (cls : Nat) : List (Nat × (GRef → Insn → Instr)) :=
  match cls with
  | 0x0 => [(0x00, .iadd), (0x01, .isub), (0x02, .imul), (0x03, .imulhi), (0x04, .imad), (0x05, .imin), (0x06, .imax), (0x07, .iabs),
      (0x08, .andB), (0x09, .orB), (0x0A, .xorB), (0x0B, .shl), (0x0C, .shr), (0x0D, .rotl), (0x0E, .popc), (0x0F, .clz), (0x10, .brev),
      (0x11, .iset), (0x12, .sel), (0x13, .mov), (0x14, .movhi)]
  | 0x1 => [(0x00, .fadd), (0x01, .fsub), (0x02, .fmul), (0x03, .ffma), (0x04, .fmin), (0x05, .fmax), (0x06, .fabs), (0x07, .fneg),
      (0x08, .fset), (0x09, .frcp), (0x0A, .frsq), (0x0B, .fsqrt), (0x0C, .fexp2), (0x0D, .flog2), (0x0E, .fsinpi), (0x0F, .fcospi)]
  | 0x2 => [(0x00, .cvt), (0x01, .cvtPk), (0x02, .cvtUpk)]
  | 0x3 => [(0x00, .vote), (0x01, .bcast), (0x02, .shfl), (0x03, .s2r)]
  | 0x4 => [(0x00, .ld), (0x01, .st), (0x02, .lds), (0x03, .sts), (0x04, .pref), (0x05, .scopy), (0x06, .scwait)]
  | 0x5 => [(0x00, .atomAdd), (0x01, .atomMin), (0x02, .atomMax), (0x03, .atomAnd), (0x04, .atomOr), (0x05, .atomXor), (0x06, .atomExch),
      (0x07, .atomCas)]
  | 0x6 => [(0x00, .nop), (0x01, .bra), (0x02, .brany), (0x03, .brall), (0x04, .callG), (0x05, .retG), (0x10, .mpush), (0x11, .melse),
      (0x12, .mpop), (0x13, .mpushl), (0x14, .mbrk), (0x20, .elect), (0x3F, .exitG)]
  | 0x7 => [(0x00, .fence), (0x01, .bar), (0x02, .waitne), (0x03, .evsig), (0x04, .evwait), (0x05, .uwait)]
  | 0x8 => [(0x00, .aload), (0x01, .astream), (0x02, .gpair), (0x03, .wdrain), (0x04, .wreduce), (0x05, .wacc), (0x06, .wclr), (0x07, .amode)]
  | 0x9 => [(0x00, .pdesc)]
  | 0xA => [(0x00, .rnd), (0x01, .rkey)]
  | 0xB => [(0x00, .strd), (0x01, .stclr), (0x02, .stadd)]
  | _ => []

/-- The command that a word spells for a group (R52, R56): none where CLS or OP is unassigned. -/
def wordCommand (g : GRef) (w : BitVec 64) : Option Instr :=
  ((wordOps (clsOf w)).find? fun e => e.1 = opOf w).map fun e => e.2 g (insnOf w)

/-- Whether a word is illegal for a group (R53, R68). -/
def State.wordIllegal (s : State) (g : GRef) (w : BitVec 64) : Bool :=
  match s.formOf g (clsOf w) (opOf w) (insnOf w) with
  | some f => !f.ok (insnOf w)
  | none => true

/-- What a group that reaches a word executes (R52 to R54, R56, R68): the command the word spells, or the illegal word. The fetch itself is
the row's cut: the command comes from outside (log 1). -/
def State.wordInstr (s : State) (g : GRef) (w : BitVec 64) : Instr :=
  if s.wordIllegal g w then .illegalWord g w else (wordCommand g w).getD (.illegalWord g w)

/-- ILLEGAL_WORD (R54): a group that may issue reaches an illegal word and executes it as a counted no-operation; a legal word is no
illegal one (log 2). -/
def execIllegalWord (g : GRef) (w : BitVec 64) (s : State) : Host.Outcome State Fault Refusal :=
  .next (
    match s.ready g with
    | none => s
    | some gr =>
      if s.wordIllegal g w then (((s.issued g gr.pc.toNat []).judge detIllegalInsn g.tile true).2).illegal g gr else s)

end Sys2Proof.Machine
end

