-- ==== Sys2Proof/Machine/Image.lean ====
section
/-!
DEFINITION. The structure image as bytes and the checks of a load on it (10 R281 to R293, R297; 12 R354, R355; 14 R381, R383): the parts of
an image, the public keys and signatures, and the failure code that the checks of Table 10.12 give.
-/
namespace Sys2Proof.Machine

/-! ## Bytes, digests and signatures -/

/-- `n` bytes of a byte string from byte `o`. -/
def bytesAt2 (b : List (BitVec 8)) (o n : Nat) : List (BitVec 8) := (b.drop o).take n

/-- The little-endian value of `n` bytes from byte `o` (R5). -/
def leAt (b : List (BitVec 8)) (o n : Nat) : Nat := leVal (bytesAt2 b o n)

/-- Whether a signature block is right for its position (R381, Table 10.3). -/
def blockOk (kind : Nat) (key : Nat → Option (List (BitVec 8))) (msg blk : List (BitVec 8)) : Bool :=
  let h := leAt blk 0 16
  decide (bitsOf h 0 8 = kind) && decide (bitsOf h 8 56 = 0) && decide (bitsOf h 66 62 = 0) &&
  sigOk (key (bitsOf h 64 2)) msg (bytesAt2 blk 16 96)

/-! ## Sections (Tables 10.1, 10.2, 10.4) -/

/-- A section: its type, version, reserved bits and body. -/
structure Sect where
  typ : Nat
  ver : Nat
  resv : Nat
  body : List (BitVec 8)
deriving DecidableEq, Repr, Inhabited

/-- `n` sections that fill the bytes exactly; none where one overruns them or they end before them. -/
def sectsOf : Nat → List (BitVec 8) → Option (List Sect)
  | 0, b => if b = [] then some [] else none
  | n + 1, b =>
    let h := leAt b 0 16
    let r := b.drop 16
    if b.length < 16 ∨ r.length < bitsOf h 32 32 then none
    else (sectsOf n (r.drop (bitsOf h 32 32))).map fun l => ⟨bitsOf h 0 16, bitsOf h 16 16, bitsOf h 64 64, r.take (bitsOf h 32 32)⟩ :: l

/-- The first body of a type. -/
def sectBody (l : List Sect) (t : Nat) : Option (List (BitVec 8)) := (l.find? fun x => x.typ = t).map (·.body)

/-- Whether a body has the length that its type and its first word give it (Tables 10.4 to 10.11). -/
def sectLen (x : Sect) : Bool :=
  let n := x.body.length
  let w := leAt x.body 0 8
  decide (n % 8 = 0) &&
  (if x.typ = 0x10 then decide (8 ≤ n) && decide (n = 8 + 32 * bitsOf w 0 5)
   else if x.typ = 0x20 then decide (8 ≤ n) && decide (n = if bitsOf w 19 1 = 1 then 80 else 32848)
   else if x.typ = 0x30 then decide (24 ≤ n)
   else if x.typ = 0x40 then decide (n = 16)
   else if x.typ = 0x50 then decide (n = 1168)
   else if x.typ = 0x60 then decide (n = 16)
   else if x.typ = 0x70 then decide (8 ≤ n) && decide (n = 8 + (bitsOf w 32 16 + 7) / 8 * 8)
   else false)

/-- Whether types rise strictly from above `lo`. -/
def typesRise : Nat → List Sect → Bool
  | _, [] => true
  | lo, x :: l => decide (lo < x.typ) && typesRise x.typ l

/-- The checks of code SECTION. -/
def sectsOk (l : List Sect) : Bool :=
  typesRise 0 l && l.all (fun x => decide (x.ver = 1) && decide (x.resv = 0) && sectLen x) &&
  [0x10, 0x20, 0x50, 0x60].all fun t => l.any fun x => x.typ = t

/-! ## Partitions (R283, R284) -/

/-- A partition entry of Table 10.5 from its 32 bytes. -/
def partOfBits (e : Nat) : PartEnt :=
  ⟨bitsOf e 0 8, bitsOf e 8 8, bitsOf e 16 8, bitsOf e 24 8, bitsOf e 32 7, bitOf e 39, bitsOf e 40 12, bitsOf e 64 20, bitsOf e 84 9,
   bitsOf e 128 7⟩

/-- Whether an entry's reserved bits are zero. -/
def partResvOk (e : Nat) : Bool := decide (bitsOf e 52 12 = 0) && decide (bitsOf e 93 35 = 0) && decide (e / 2 ^ 135 = 0)

/-- Whether a partition's fields lie in their ranges and meet the rules of R284 that concern it alone. -/
def PartEnt.ok (p : PartEnt) : Bool :=
  decide (1 ≤ p.sw) && decide (1 ≤ p.sh) && decide (p.sx0 + p.sw ≤ 16) && decide (p.sy0 + p.sh ≤ 16) &&
  decide (1 ≤ p.slots) && decide (p.slots ≤ 64) && decide (10 ≤ p.noprog) && decide (p.noprog ≤ 600000) &&
  decide (p.regions ≠ 0) && decide (p.stage ≤ 64) &&
  (if p.swap then decide (128 ≤ p.sw * p.sh) && decide (p.slots ≤ 48) && decide (p.slots ≤ p.swapMax + 1) else decide (p.swapMax = 0))

/-- Whether two rectangles share a spur. -/
def PartEnt.meets (p q : PartEnt) : Bool :=
  decide (p.sx0 < q.sx0 + q.sw) && decide (q.sx0 < p.sx0 + p.sw) && decide (p.sy0 < q.sy0 + q.sh) && decide (q.sy0 < p.sy0 + p.sh)

/-- Whether no two partitions of a list share a spur. -/
def partsApart : List PartEnt → Bool
  | [] => true
  | p :: l => l.all (fun q => !p.meets q) && partsApart l

/-- The context records a partition may need (R284, R308). -/
def PartEnt.records (p : PartEnt) : Nat := if p.swap then p.swapMax + 1 else p.slots

/-- The partitions of a PART body, or none where a check of code PARTITION fails. -/
def partsOfBody (b : List (BitVec 8)) : Option (List PartEnt) :=
  let w := leAt b 0 8
  let n := bitsOf w 0 5
  let es := (List.range n).map fun i => leAt b (8 + 32 * i) 32
  let ps := es.map partOfBits
  if w / 32 = 0 ∧ 1 ≤ n ∧ n ≤ 16 ∧ es.all partResvOk ∧ ps.all PartEnt.ok ∧ partsApart ps ∧ (ps.map (·.slots)).sum ≤ 64 ∧
      (ps.map PartEnt.records).sum ≤ 4096
  then some ps else none

/-- The partition of a spur. -/
def partOfSpur (ps : List PartEnt) (n : Nat) : Option Nat :=
  ps.findIdx? fun p => decide (p.sx0 ≤ n % 16) && decide (n % 16 < p.sx0 + p.sw) && decide (p.sy0 ≤ n / 16) && decide (n / 16 < p.sy0 + p.sh)

/-! ## Ridge (R288, R354, R355) -/

/-- The RIDGE and BOARD sections: port roles, NODE with the two counts as one word, route entries, groups. -/
structure RidgeImg where
  roles : List Nat
  node : Nat
  routes : List Nat
  groups : List GroupEnt
deriving DecidableEq, Repr, Inhabited

/-- Whether a route entry is well formed (R355). -/
def routeOk (roles : List Nat) (e : Nat) : Bool :=
  decide (bitsOf e 0 20 ≤ bitsOf e 20 20) && decide (e / 2 ^ 57 = 0) && decide (roles.getD (bitsOf e 40 5) 0 ≠ 0) &&
  (!bitOf e 50 || decide (roles.getD (bitsOf e 45 5) 0 ≠ 0))

/-- Whether a list holds no value twice. -/
def noTwice (l : List Nat) : Bool := decide (l.eraseDups.length = l.length)

/-- The group entry that begins a byte string, and what follows it; none where a check of R355 on it fails. -/
def groupOfBytes (node : Nat) (b : List (BitVec 8)) : Option (GroupEnt × List (BitVec 8)) :=
  let w := leAt b 0 8
  let v := leAt b 8 8
  let tree := bitOf w 8
  let n := bitsOf w 9 21
  let rank := bitsOf w 30 20
  let cnt := if tree then bitsOf v 20 5 else n
  let size := (4 * cnt + 7) / 8 * 8
  let r := b.drop 16
  if b.length < 16 ∨ n = 0 ∨ 1048576 < n ∨ n ≤ rank ∨ (tree = false ∧ 64 < n) ∨ w / 2 ^ 50 ≠ 0 ∨ v / 2 ^ 25 ≠ 0 ∨
      (tree = false ∧ v ≠ 0) ∨ r.length < size then none
  else
    let l := (List.range cnt).map fun i => leAt r (4 * i) 4
    let pad := bytesAt2 r (4 * cnt) (size - 4 * cnt)
    if l.any (fun x => decide (2 ^ 20 ≤ x)) || pad.any (fun x => decide (x ≠ 0)) || !noTwice l ||
        (if tree then decide (node ∈ l) else decide (l[rank]? ≠ some node)) then none
    else some (⟨bitsOf w 0 8, tree, n, rank, bitsOf v 0 20, l⟩, r.drop size)

/-- `k` group entries that fill the bytes exactly. -/
def groupsOfBytes (node : Nat) : Nat → List (BitVec 8) → Option (List GroupEnt)
  | 0, b => if b = [] then some [] else none
  | k + 1, b =>
    match groupOfBytes node b with
    | some (g, r) => (groupsOfBytes node k r).map fun l => g :: l
    | none => none

/-- The RIDGE body, or none where a check of code RIDGE on it fails. -/
def ridgeOfBody (b : List (BitVec 8)) : Option RidgeImg :=
  let w := leAt b 16 8
  let roles := (List.range 32).map fun p => bitsOf (leAt b 0 16) (4 * p) 4
  let nr := bitsOf w 20 16
  let routes := (List.range nr).map fun i => leAt b (24 + 8 * i) 8
  if roles.any (fun r => decide (4 < r)) || decide (w / 2 ^ 44 ≠ 0) || decide (4096 < nr) || decide (b.length < 24 + 8 * nr) ||
      !routes.all (routeOk roles) then none
  else
    match groupsOfBytes (bitsOf w 0 20) (bitsOf w 36 8) (b.drop (24 + 8 * nr)) with
    | some gs => if noTwice (gs.map (·.group)) then some ⟨roles, w, routes, gs⟩ else none
    | none => none

/-- What an image without a RIDGE section gives (Table 10.4). -/
def RidgeImg.absent : RidgeImg := ⟨List.replicate 32 0, 0, [], []⟩

/-- Whether a BOARD body is valid (R289, Table 10.12). -/
def boardOk (w : Nat) : Bool :=
  decide (bitsOf w 3 5 = 0) && decide (bitsOf w 12 20 = 0) && decide (w / 2 ^ 67 = 0) && decide (1 ≤ bitsOf w 8 4) &&
  decide (bitsOf w 8 4 ≤ 8) && decide (bitsOf w 0 3 < bitsOf w 8 4)

/-! ## Power (R290, R291) -/

/-- The VOTE words of a POWER body. -/
def votesOfBody (b : List (BitVec 8)) : List Nat := (List.range 282).map fun d => leAt b (40 + 4 * d) 4

/-- Whether a domain's VOTE word is valid (R291). -/
def voteOk (ps : List PartEnt) (d v : Nat) : Bool :=
  decide (v / 2 ^ 18 = 0) && decide (bitsOf v 0 16 < 2 ^ ps.length) &&
  (if d < 256 then decide (bitsOf v 0 16 = (match partOfSpur ps d with | some p => 2 ^ p | none => 0)) else true) &&
  (if d = 280 then decide (bitsOf v 16 2 ≠ 0) else true)

/-- Whether a POWER body is valid. -/
def powerOk (ps : List PartEnt) (b : List (BitVec 8)) : Bool :=
  decide (leAt b 0 8 < 16) && bitOf (leAt b 0 8) 3 && (List.range 282).all fun d => voteOk ps d (leAt b (40 + 4 * d) 4)

/-! ## Memory (R286, R287: static stage) -/

/-- The MEMORY body: NP, CEIL, whether tables are given, CIS_ERR_CFG, the channels CHAN enables, and the tables as CHAN and OCC. -/
structure MemImg where
  np : Nat
  ceil : Nat
  given : Bool
  err : Nat
  chans : List Nat
  spread : List Nat
  near : List Nat
deriving DecidableEq, Repr, Inhabited

/-- The MEMORY body, or none where a check of the static stage fails. -/
def memOfBody (b : List (BitVec 8)) : Option MemImg :=
  let w := leAt b 0 8
  let e := leAt b 8 8
  let given := !bitOf w 19
  let tab := fun (o : Nat) => if given then (List.range 4096).map (fun i => leAt b (o + 4 * i) 4) else []
  let chans := (List.range 512).filter fun n => bitOf (leAt b 16 64) n
  let maps := tab 80 ++ tab 16464
  if 24576 < bitsOf w 0 15 ∨ 12 < bitsOf w 15 4 ∨ w / 2 ^ 20 ≠ 0 ∨ e / 2 ^ 48 ≠ 0 ∨ bitsOf e 16 16 = 0 ∨ 60000 < bitsOf e 16 16 ∨
      bitsOf e 32 8 = 0 ∨ chans = [] ∨ maps.any (fun x => decide (bitsOf x 12 19 ≠ 0)) then none
  else some ⟨bitsOf w 0 15, bitsOf w 15 4, given, e, chans, (tab 80).map (· % 4096), (tab 16464).map (· % 4096)⟩

/-! ## Debug (R293, R383) -/

/-- Whether the owner debug token serves an image (R383, Table 14.2): the DEBUG and INJECT bits asked for, and the image's SEQ. -/
def State.tokenOk (s : State) (t : List (BitVec 8)) (ask seq : Nat) : Bool :=
  decide (leAt t 0 4 = 0x4B544A46) && decide (leAt t 4 2 = 1) && decide (leAt t 6 1 < 4) && decide (leAt t 32 32 = 0) &&
  decide (leAt t 8 8 = (s.reg regIdentSerial).toNat) && decide (ask &&& leAt t 6 1 = ask) && decide (leAt t 16 8 ≤ seq) &&
  decide (seq ≤ leAt t 24 8) && sigOk (if leAt t 7 1 < 4 then s.ownerKey (leAt t 7 1) else none) (t.take 64) (bytesAt2 t 64 96)

/-- Whether the DEBUG section is valid; `conf` says that FEATURES offers CONF. -/
def State.debugOk (s : State) (b : List (BitVec 8)) (seq : Nat) (conf : Bool) : Bool :=
  let w := leAt b 0 8
  let n := bitsOf w 32 16
  decide (bitsOf w 2 30 = 0) && decide (bitsOf w 48 16 = 0) && decide (n ≤ 4096) && (b.drop (8 + n)).all (fun x => x = 0) &&
  (decide (bitsOf w 0 2 = 0) || (decide (n = 160) && s.tokenOk (bytesAt2 b 8 160) (bitsOf w 0 2) seq && !conf))

/-! ## The static stage (R296, R297) -/

/-- An image that has passed the static stage. -/
structure ImgRaw where
  seq : Nat
  lock : Bool
  parts : List PartEnt
  mem : MemImg
  ridge : RidgeImg
  board : Nat
  power : List (BitVec 8)
  offer : Nat
  debug : Nat
  owner : Bool
  digest : List (BitVec 8)
  token : List (BitVec 8)
deriving DecidableEq, Repr, Inhabited

/-- What a check of an image gives: an image that passes, or the failure code of Table 10.12. -/
inductive Checked where
  | ok (i : ImgRaw)
  | bad (code : Nat)
deriving DecidableEq, Repr, Inhabited

/-- The checks of the sections of an image in the order of Table 10.12. -/
def State.checkSects (s : State) (req : Bool) (l : List Sect) (b : List (BitVec 8)) : Checked :=
  let body := fun (t : Nat) => (sectBody l t).getD []
  let seq := leAt b 16 8
  if sectsOk l = false then .bad 7
  else
    match partsOfBody (body 0x10) with
    | none => .bad 8
    | some ps =>
      let bw := match sectBody l 0x40 with | some x => leAt x 0 16 | none => 0x100
      match (match sectBody l 0x30 with | some x => ridgeOfBody x | none => some RidgeImg.absent) with
      | none => .bad 9
      | some r =>
        if 1 < bitsOf bw 8 4 ∧ bitsOf r.node 0 3 ≠ bitsOf bw 64 3 then .bad 9
        else if boardOk bw = false then .bad 10
        else if powerOk ps (body 0x50) = false then .bad 11
        else
          let offer := leAt (body 0x60) 0 16
          if 256 ≤ offer then .bad 12
          else
            match memOfBody (body 0x20) with
            | none => .bad 13
            | some m =>
              match sectBody l 0x70 with
              | none => .ok ⟨seq, bitOf (leAt b 0 64) 192, ps, m, r, bw, body 0x50, offer, 0, req, bytesAt2 b (leAt b 8 4) 48, []⟩
              | some d =>
                if s.debugOk d seq (bitOf offer 0) then
                  .ok ⟨seq, bitOf (leAt b 0 64) 192, ps, m, r, bw, body 0x50, offer, leAt d 0 8 % 4, req,
                    bytesAt2 b (leAt b 8 4) 48, if leAt d 0 8 % 4 = 0 then [] else bytesAt2 d 8 160⟩
                else .bad 14

/-- The checks of the signatures and the stepping (R282, R381); `req` says that an owner signature is required. -/
def State.checkSigs (s : State) (req : Bool) (l : List Sect) (b : List (BitVec 8)) : Checked :=
  let body := leAt b 8 4
  let msg := b.take (body + 48)
  let step := s.fld regIdentStep 0 8
  if blockOk 1 s.fjKey msg (bytesAt2 b (body + 48) 112) = false then .bad 4
  else if req = true ∧ (b.length ≠ body + 272 ∨ blockOk 2 s.ownerKey msg (bytesAt2 b (body + 160) 112) = false) then .bad 5
  else if step < leAt b 12 1 ∨ leAt b 13 1 < step then .bad 6
  else s.checkSects req l b

/-- The static stage (R296): the checks of Table 10.12, in order, up to the first failure. -/
def State.checkImage (s : State) (req : Bool) (b : List (BitVec 8)) : Checked :=
  let h := leAt b 0 64
  let body := bitsOf h 64 32
  if b = [] ∨ bitsOf h 0 32 ≠ 0x49534A46 then .bad 1
  else if b.length < 64 ∨ bitsOf h 32 16 ≠ 1 ∨ 0x200000 < body ∨ 0x200000 < b.length ∨ (b.length ≠ body + 160 ∧ b.length ≠ body + 272) ∨
      bitsOf h 48 16 < 4 ∨ 7 < bitsOf h 48 16 ∨ body < 64 ∨ bitsOf h 112 16 ≠ 0 ∨ h / 2 ^ 193 ≠ 0 ∨ bitsOf h 128 64 = 0 then .bad 2
  else
    match sectsOf (bitsOf h 48 16) (bytesAt2 b 64 (body - 64)) with
    | none => .bad 2
    | some l => if shaBytes (b.take body) ≠ bytesAt2 b body 48 then .bad 3 else s.checkSigs req l b

/-- Whether the checks have come as far as the owner block. -/
def Checked.pastVendor (c : Checked) : Bool :=
  match c with
  | .ok _ => true
  | .bad n => decide (4 < n)

/-- An image is checked for a load or a COMMIT. An owner block that is ignored, because no owner is enrolled or an injector fires on it,
counts (R381, R432). -/
def State.checkCount (s : State) (b : List (BitVec 8)) : Checked × State :=
  let c := s.checkImage s.ownerRequired b
  if c.pastVendor && decide (b.length = leAt b 8 4 + 272) then
    let (ign, s1) := s.check detSecOwnerIgnored 0 (!s.ownerRequired)
    (if ign then s.checkImage false b else c, s1)
  else (c, s)

end Sys2Proof.Machine
end

