-- ==== Sys2Proof/Machine/Load.lean ====
section
/-!
DEFINITION. Loading a structure image (10 R285, R287, R294 to R301; 09 R249 to R251, R278; 15 R403): the apply point, the hardware stage, the
flash slots and the load commands.
-/
namespace Sys2Proof.Machine

/-! ## Channels and map tables (R251, R287) -/

/-- Whether a table is valid for a list of channels: each occurs exactly once with each occurrence number in the first 8 × len entries. -/
def mapValid (tab chans : List Nat) : Bool :=
  let used := tab.take (8 * chans.length)
  chans.all fun c => (List.range 8).all fun o => decide ((used.filter fun e => e = c + 512 * o).length = 1)

/-- The default SPREAD order of a list of channels: by the key 8 × (n mod 64) + n div 64. -/
def spreadOrder (chans : List Nat) : List Nat :=
  ((List.range 512).map fun k => 64 * (k % 8) + k / 8).filter fun n => decide (n ∈ chans)

/-- A default table over a list of channels, whose occurrence o is turned by `k` × o. -/
def defaultTab (l : List Nat) (k : Nat) : List Nat :=
  (List.range 8).flatMap fun o => (List.range l.length).map fun j => l.getD ((j + k * o) % l.length) 0 + 512 * o

/-- The channels of a crest among a list. -/
def crestChans (chans : List Nat) (c : Nat) : List Nat := chans.filter fun n => n / 64 = c

/-- Both tables of a load: SPREAD, and a segment for each crest. -/
structure Maps where
  spread : List Nat
  near : List (List Nat)
deriving DecidableEq, Repr, Inhabited

/-- The default tables. -/
def defaultMaps (chans : List Nat) : Maps :=
  ⟨defaultTab (spreadOrder chans) 65, (List.range 8).map fun c => defaultTab (crestChans chans c) 9⟩

/-- The given tables, cut to the entries in use. -/
def givenMaps (m : MemImg) (chans : List Nat) : Maps :=
  ⟨m.spread.take (8 * chans.length), (List.range 8).map fun c => ((m.near.drop (512 * c)).take (8 * (crestChans chans c).length))⟩

/-- Whether the given tables are valid. -/
def givenOk (m : MemImg) (chans : List Nat) : Bool :=
  mapValid m.spread chans && (List.range 8).all fun c => mapValid ((m.near.drop (512 * c)).take 512) (crestChans chans c)

/-- Channels as a load settles them (R287, R278): those left, those that a mark removes, those that fail training. -/
structure Settled where
  chans : List Nat
  marked : List Nat
  failed : List Nat
deriving DecidableEq, Repr, Inhabited

/-- Settle the channels: whether a channel trains is left to the hardware (a free choice for each). -/
def State.settleChans (s : State) (m : MemImg) : Settled × State :=
  let marked := m.chans.filter fun n => decide (n ∈ s.log.marks)
  let failed := m.chans.filter fun n => !decide (n ∈ s.log.marks) && Config.freeChoice (s.fresh + n)
  (⟨m.chans.filter fun n => !decide (n ∈ marked) && !decide (n ∈ failed), marked, failed⟩, { s with fresh := s.fresh + 512 })

/-- The tables of a load, or none where it fails with MEMORY (R287). -/
def State.mapsOf (m : MemImg) (parts : List PartEnt) (t : Settled) : Option Maps :=
  let usual := decide (t.marked = []) && decide (t.failed = []) && m.given
  if t.chans = [] ∨ (usual ∧ givenOk m t.chans = false) ∨ t.chans.length * (24576 - m.np) * 65536 < stageBytes parts then none
  else some (if usual then givenMaps m t.chans else defaultMaps t.chans)

/-! ## The apply point (R296) -/

/-- Whether a register keeps its value when an image is applied: the identity page, DET, CLK and what the always-on block measures, and
fuse values (R296, R408, Table 15.7). -/
def keptAtLoad (off : Nat) : Bool :=
  decide (off < 0x1000) || (decide (0xC00000 ≤ off) && decide (off < 0xE00000)) || (decide (0x808000 ≤ off) && decide (off < 0x810000)) ||
  decide (off = regPwrMeter) || decide (off = regPwrSteps) || decide (off = regPwrLastWake) || decide (off = regSecStatus) ||
  decide (off = regSecFwSvn) || decide (0x1C01000 ≤ off) ||
  (List.range 4).any (fun p => off = regEthMac p) || (List.range 16).any (fun q => off = regCkpQpCtrl q)

/-- The blocks of the old image are gone: their registers hold their reset values, the tiles, cisterns, directories, device memory, links and
engines are clear, and every injector is disarmed (R296, R430). LQPN of a queue pair comes from fuses and stays. -/
def State.blocksGone (s : State) : State :=
  let lqpn := (List.range 16).map fun q => (regCkpQpCtrl q, (s.reg (regCkpQpCtrl q)).toNat / 256 * 256)
  let keep := fun (e : Nat × BitVec 64) => keptAtLoad e.1
  let s1 : State := { s with
    regs := ⟨s.regs.vals.filter keep, s.regs.shadow.filter fun (e : Nat × BitVec 32) => decide (e.1 < 0x1000),
      s.regs.held.filter fun (e : Nat × BitVec 32) => decide (e.1 < 0x1000)⟩
    mem := { s.mem with hbm := [], poison := [], tags := [], cis := [], xlat := [] }
    tiles := []
    hif := State.reset.hif
    armed := []
    worked := []
    load := { s.load with img := none, locked := false, repair := [] }
    eng := State.reset.eng
    ridge := State.reset.ridge
    eth := []
    trust := { s.trust with slots := [], pages := [], ide := .noKeys, ideKeys := [] }
    pwr := { s.pwr with step := none, since := 0, doms := [] } }
  (lqpn.foldl (fun (t : State) e => t.setReg e.1 (BitVec.ofNat 64 e.2)) s1).setFld regSecStatus 12 52 0

/-- Nothing is in effect: IDENT_LOAD_STATUS.SOURCE, IDENT_LOAD_SEQ and IDENT_LOAD_DIGEST say so. -/
def State.noImage (s : State) : State :=
  (List.range 6).foldl (fun (t : State) i => t.setReg (regIdentLoadDigest i) 0) ((s.setFld regIdentLoadStatus 16 2 0).setReg regIdentLoadSeq 0)

/-- Every context ends as a partition reset ends it (R296, R422), without waiting (log 47). -/
def State.endContexts (s : State) : State :=
  (s.hif.ctxs.map (·.1)).foldl (fun (t : State) c => t.destroyNow c 5) s

/-- The apply point (R296). -/
def State.applyPoint (s : State) : State := s.endContexts.blocksGone.noImage

/-! ## The hardware stage (R31, R285, R287, R296) -/

/-- Every load applies the fuses' repair map before the mesh is configured (R31). -/
def State.applyRepair (s : State) : State := { s with load := { s.load with repair := s.load.fuseMap } }

/-- The physical row, within its crest, of the tile with logical coordinates (R31): a tile at or below the disabled one of its column lies one row
further on. -/
def State.physRow (s : State) (x y : Nat) : Nat :=
  match Tbl.find s.load.repair (32 * (2 * (y / 16) + x / 32) + x % 32) with
  | some d => if y % 16 < d then y % 16 else y % 16 + 1
  | none => y % 16

/-- The start and size of a region (Table 9.1). -/
def rgnSize (m : MemImg) (chans : List Nat) (g : Nat) : Nat :=
  if g = 0 then chans.length * (24576 - m.np) * 65536 else (crestChans chans (g - 1)).length * m.np * 65536

/-- CIS as an image sets it (Tables 9.8 to 9.12). -/
def State.programCis (s : State) (m : MemImg) (t : Settled) (maps : Maps) : State :=
  let len := fun (g : Nat) => if g = 0 then t.chans.length else (crestChans t.chans (g - 1)).length
  let s1 := (s.setReg regCisCfg (BitVec.ofNat 64 (t.chans.length + m.np * 2 ^ 10 + m.ceil * 2 ^ 25))).setReg regCisErrCfg (BitVec.ofNat 64 m.err)
  let s2 := (List.range 8).foldl (fun (u : State) c => u.setFld regCisCrest (7 * c) 7 (len (c + 1))) s1
  let s3 := (List.range 9).foldl (fun (u : State) g =>
    (u.setReg (regCisRgnBase g) (BitVec.ofNat 64 ((List.range g).map (rgnSize m t.chans)).sum)).setReg (regCisRgnSize g)
      (BitVec.ofNat 64 (rgnSize m t.chans g + len g * 2 ^ 40))) s2
  let s4 := (List.range 512).foldl (fun (u : State) n =>
    u.setFld (regCisChan n) 0 2 (if n ∈ t.failed then 3 else if n ∈ t.chans then 0 else 2)) s3
  let put := fun (reg : Nat → Nat) (u : State) (l : List Nat) (o : Nat) =>
    (l.zipIdx o).foldl (fun (v : State) e => v.setReg (reg e.2) (BitVec.ofNat 64 (e.1 + 2 ^ 31))) u
  (List.range 8).foldl (fun (u : State) c => put regCisNearMap u (maps.near.getD c []) (512 * c)) (put regCisSpreadMap s4 maps.spread 0)

/-- The divider of an operating point (Table 1.4). -/
def opDiv (op : Nat) : Nat := match op with | 0 => 8 | 1 => 10 | 2 => 12 | _ => 16

/-- The fastest allowed point: OPMASK allows it, and it is not faster than the cap (R403). -/
def fastestOp (mask cap : Nat) : Nat := ((List.range 4).find? fun i => decide (cap ≤ i) && bitOf mask i).getD 3

/-- PWR and CLK as an image sets them (R290, R403, Tables 15.8, 15.9). A module whose reference is still lost stays at OP3 (R402). -/
def State.programPwr (s : State) (b : List (BitVec 8)) : State :=
  let mask := leAt b 0 1
  let op := if s.pwr.refHold then 3 else fastestOp mask 0
  let s1 := s.setReg regPwrStatus (BitVec.ofNat 64 (op + op * 4 + mask * 32))
  let s2 := (s1.setFld regClkStatus 8 8 (opDiv op)).setFld regIdentStatus 2 1 (b2n (fastestOp mask 0 < op))
  let s3 := (List.range 4).foldl (fun (u : State) c => u.setReg (regPwrTimer c) (BitVec.ofNat 64 (leAt b (8 + 8 * c) 8))) s2
  (votesOfBody b).zipIdx.foldl (fun (u : State) e =>
    let host := bitsOf e.1 16 1
    ((u.setFld (regPwrHostVote (e.2 / 64)) (e.2 % 64) 1 host).setFld (regPwrDom e.2) 32 1 host).setFld (regPwrDom e.2) 33 1 (bitsOf e.1 17 1)) s3

/-- RDG as an image sets it (R288, R289, R339, R349): every port with a role begins to train. -/
def State.programRdg (s : State) (r : RidgeImg) (bw : Nat) : State :=
  let win := bitsOf bw 64 3
  let board := bitsOf bw 32 32 + win * 2 ^ 32 + bitsOf bw 8 4 * 2 ^ 35 + bitsOf bw 0 3 * 2 ^ 39 + 2 ^ (48 + win)
  let s1 := (s.setReg regRdgNode (BitVec.ofNat 64 r.node)).setReg regRdgBoard (BitVec.ofNat 64 board)
  let s2 := r.roles.zipIdx.foldl (fun (u : State) e =>
    u.setReg (regRdgPortStatus e.2) (BitVec.ofNat 64 (e.1 + (if e.1 = 0 then 0 else 16)))) s1
  r.routes.zipIdx.foldl (fun (u : State) e => u.setReg (regRdgRoute e.2) (BitVec.ofNat 64 e.1)) s2

/-- What an image sets in State beyond the registers. -/
def imgOf (i : ImgRaw) : Img :=
  ⟨i.parts, i.ridge.groups, (votesOfBody i.power).zipIdx.map fun e => (e.2, BitVec.ofNat 32 e.1), bitOf i.debug 0, bitOf i.debug 1, i.lock, i.owner,
    i.token⟩

/-- The remaining blocks (R292, R293, R301, R308). -/
def State.programRest (s : State) (i : ImgRaw) : State :=
  let s1 := (s.setReg regFeatOfferLo (BitVec.ofNat 64 i.offer)).setReg regFeatOfferHi (BitVec.ofNat 64 (i.offer / 2 ^ 64))
  let s2 := (s1.setFld regInjStatus 16 1 (b2n (bitOf i.debug 1))).setFld regSecStatus 12 2 i.debug
  { s2 with load := { s2.load with img := some (imgOf i), locked := !i.lock } }.setTblOk

/-- IDENT_LOAD_STATUS of a load that has ended well, and the identity of the image in effect (R296, R298). -/
def State.loadedStatus (s : State) (i : ImgRaw) (src : Nat) : State :=
  let s1 := (((s.setFld regIdentLoadStatus 0 2 2).setFld regIdentLoadStatus 8 4 0).setFld regIdentLoadStatus 16 2 src).setReg regIdentLoadSeq
    (BitVec.ofNat 64 i.seq)
  (List.range 6).foldl (fun (t : State) k => t.setReg (regIdentLoadDigest k) (BitVec.ofNat 64 (leAt i.digest (8 * k) 8))) s1

/-- A load fails with a code (R297): a LOAD_FAIL record, and the failure in IDENT_LOAD_STATUS; STATE stays LOADED where an image is in
effect. -/
def State.loadFail (s : State) (code src : Nat) : State :=
  let s1 := s.logRec 5 0xFF code 0 0xFFFF src false
  ((s1.setFld regIdentLoadStatus 0 2 (if s1.loaded then 2 else 3)).setFld regIdentLoadStatus 8 4 code).setFld regIdentLoadStatus 18 2 src

/-- The records of the channels a load maps out (R278, Table 16.7); the spec gives their CODE no value. -/
def State.logMapOut (s : State) (l : List Nat) : State :=
  l.foldl (fun (t : State) n => let (v, t1) := t.free; t1.logRec 4 0xFF (v.toNat % 256) n 0xFFFF n false) s

/-- The hardware stage of an image that has passed the static stage, after its apply point: whether the image is in effect. -/
def State.hardware (s : State) (i : ImgRaw) (src : Nat) : Bool × State :=
  let (t, s1) := s.applyRepair.settleChans i.mem
  let s2 := s1.logMapOut (t.marked ++ t.failed)
  match State.mapsOf i.mem i.parts t with
  | none => (false, s2.loadFail 13 src)
  | some maps => (true, ((((s2.programCis i.mem t maps).programPwr i.power).programRdg i.ridge i.board).programRest i).loadedStatus i src)

/-! ## Loads from flash (R294) -/

/-- Which valid slot the flash rule takes first: the higher SEQ, A where they are equal. -/
def slotOrder (a b : Checked) : List (ImgRaw × Nat) :=
  match a, b with
  | .ok x, .ok y => if y.seq ≤ x.seq then [(x, 1), (y, 2)] else [(y, 2), (x, 1)]
  | .ok x, .bad _ => [(x, 1)]
  | .bad _, .ok y => [(y, 2)]
  | .bad _, .bad _ => []

/-- Try the valid slots in order until one is in effect. -/
def State.trySlots (s : State) : List (ImgRaw × Nat) → Bool × State
  | [] => (false, s)
  | (i, src) :: l =>
    let (ok, s1) := s.applyPoint.hardware i src
    if ok then (true, s1) else s1.trySlots l

/-- The record of a slot whose image is not valid. -/
def State.logSlot (s : State) (c : Checked) (src : Nat) : State :=
  match c with
  | .ok _ => s
  | .bad code => s.logRec 5 0xFF code 0 0xFFFF src false

/-- The static stage of a load from flash (R294): the valid slots in the order in which they are tried, every other slot's failure in the log. With
neither slot valid the load has failed with slot B's code. -/
def State.flashStatic (s : State) : List (ImgRaw × Nat) × State :=
  let (a, s1) := s.checkCount s.load.slotA
  let (b, s2) := s1.checkCount s.load.slotB
  match a, b with
  | .bad ca, .bad cb => ([], (s2.logRec 5 0xFF ca 0 0xFFFF 1 false).loadFail cb 2)
  | _, _ => (slotOrder a b, (s2.logSlot a 1).logSlot b 2)

/-- Load from flash (R294), as one step of a bring-up or a reset. -/
def State.flashLoad (s : State) : State :=
  let (l, s1) := s.flashStatic
  (s1.trySlots l).2

/-! ## The load commands (R295, R299) -/

/-- BUSY clears with a result. -/
def State.cmdRes (s : State) (r : Nat) : State := (s.setFld regIdentLoadStatus 2 1 0).setFld regIdentLoadStatus 20 4 r

/-- A load command begins: BUSY reads 1, and STATE reads LOADING for a load. -/
def State.loadRun (s : State) (r : LoadRun) : State :=
  let s1 := { s with load := { s.load with running := some r } }.setFld regIdentLoadStatus 2 1 1
  match r with
  | .load | .reload | .hardware _ _ => s1.setFld regIdentLoadStatus 0 2 1
  | .clear | .append _ | .commit _ _ => s1

/-- A load command written to IDENT_LOAD_CMD: refused as busy while BUSY reads 1 (R299). Nothing takes it while the Cairn does not run. -/
def State.loadCmd (s : State) (cmd len : Nat) (k : State → State) : State :=
  if s.pwr.phase ≠ .up then s
  else
    s.regWrite regIdentLoadCmd (BitVec.ofNat 64 (cmd + len * 2 ^ 32)) false fun t =>
      if t.fld regIdentLoadStatus 2 1 = 1 then t.setFld regIdentLoadStatus 20 4 1 else k t

/-- Replace the staged bytes. -/
def State.setStaged (s : State) (b : List (BitVec 8)) : State :=
  { s with load := { s.load with staged := b } }.setReg regIdentLoadStaged (BitVec.ofNat 64 b.length)

/-- APPEND (R299) of `len` bytes of the data window. -/
def State.appendStaging (s : State) (len : Nat) : State :=
  if len < 8 ∨ 2048 < len ∨ len % 8 ≠ 0 then s.setFld regIdentLoadStatus 20 4 5
  else if 0x200000 < s.load.staged.length + len then s.setFld regIdentLoadStatus 20 4 2
  else s.loadRun (.append len)

/-- LOAD (R296, R299). -/
def State.loadStaging (s : State) : State :=
  if s.load.staged = [] then s.setFld regIdentLoadStatus 20 4 3 else s.loadRun .load

/-- SEQ of a valid image. -/
def Checked.seq (c : Checked) : Option Nat :=
  match c with
  | .ok i => some i.seq
  | .bad _ => none

/-- Whether COMMIT writes slot B: the slot that the flash rule would not choose; A where neither is valid (R295). -/
def inactiveB (a b : Option Nat) : Bool :=
  match a, b with
  | some x, some y => decide (y ≤ x)
  | some _, none => true
  | none, _ => false

/-- Write a flash slot. -/
def State.setSlot (s : State) (slotB : Bool) (b : List (BitVec 8)) : State :=
  { s with load := if slotB then { s.load with slotB := b } else { s.load with slotA := b } }

/-- COMMIT and LOAD_COMMIT (R295): where R295 accepts the staged image, its writing into the inactive slot begins and BUSY reads 1; until it ends the
slot is not valid, and a PERST#, RESET_N or power loss leaves it so (R299). -/
def State.commitStaging (s : State) (thenLoad : Bool) : State :=
  if s.load.staged = [] then s.setFld regIdentLoadStatus 20 4 3
  else
    let (c, s1) := s.checkCount s.load.staged
    let a := (s1.checkImage s1.ownerRequired s1.load.slotA).seq
    let b := (s1.checkImage s1.ownerRequired s1.load.slotB).seq
    match c with
    | .bad _ => s1.setFld regIdentLoadStatus 20 4 4
    | .ok i =>
      if a.any (fun x => decide (i.seq ≤ x)) || b.any (fun x => decide (i.seq ≤ x)) then s1.setFld regIdentLoadStatus 20 4 4
      else
        let inB := inactiveB a b
        (s1.setSlot inB []).loadRun (.commit inB thenLoad)

/-- A COMMIT's writing ends (R295). Whether the bytes read back with their digest is left to the flash (a free choice); where they do not, the slot
stays erased and CODE reads FLASH; else the slot holds the image, and LOAD_COMMIT goes on to load from flash. -/
def State.commitEnd (s : State) (inB thenLoad : Bool) : State :=
  let (bad, s1) := s.choose
  if bad then ((s1.setFld regIdentLoadStatus 8 4 15).setFld regIdentLoadStatus 18 2 (if inB then 2 else 1)).cmdRes 0
  else
    let s2 := s1.setSlot inB s1.load.staged
    if thenLoad then s2.loadRun .reload else s2.cmdRes 0

/-- The static stage of a host LOAD ends (R296, R297): at a failure the image in effect stays; otherwise the apply point comes. -/
def State.loadStatic (s : State) : State :=
  let (c, s1) := s.checkCount s.load.staged
  match c with
  | .bad code => (s1.loadFail code 3).cmdRes 0
  | .ok _ => s1.applyPoint.loadRun (.hardware s.ownerRequired [3])

/-- The static stage of a load from flash ends (R294). -/
def State.reloadStatic (s : State) : State :=
  let (l, s1) := s.flashStatic
  if l = [] then s1.cmdRes 0 else s1.applyPoint.loadRun (.hardware s.ownerRequired (l.map (·.2)))

/-- The bytes of a source (Table 10.13). -/
def State.source (s : State) (src : Nat) : List (BitVec 8) :=
  if src = 1 then s.load.slotA else if src = 2 then s.load.slotB else s.load.staged

/-- The hardware stage ends (R296): the image is in effect, or the next source is tried, or the module stays without an image (R297). -/
def State.hardwareEnd (s : State) (req : Bool) : List Nat → State
  | [] => s.cmdRes 0
  | src :: rest =>
    match s.checkImage req (s.source src) with
    | .bad code => (s.loadFail code src).cmdRes 0
    | .ok i =>
      let (ok, s1) := s.hardware i src
      if ok ∨ rest = [] then s1.cmdRes 0 else s1.loadRun (.hardware req rest)

/-- A running load command, or a stage of it, ends. -/
def State.loadEnd (s : State) (r : LoadRun) : State :=
  let t := { s with load := { s.load with running := none } }
  match r with
  | .clear => (t.setStaged []).cmdRes 0
  | .append len =>
    (t.setStaged (t.load.staged ++ (List.range (len / 8)).flatMap fun i => leBytes 8 (t.reg (regIdentLoadData i)).toNat)).cmdRes 0
  | .load => t.loadStatic
  | .reload => t.reloadStatic
  | .commit inB thenLoad => t.commitEnd inB thenLoad
  | .hardware req srcs => t.hardwareEnd req srcs

/-- A ms passes for a load command that runs: whether it, or its stage, ends in it is a free choice (log 11). -/
def State.loadTick (s : State) : State :=
  match s.load.running with
  | none => s
  | some r =>
    let (ends, s1) := s.choose
    if ends then s1.loadEnd r else s1

/-- CLEAR (R299). -/
def execLoadClear (s : State) : Host.Outcome State Fault Refusal := .next (s.loadCmd 1 0 fun t => t.loadRun .clear)

/-- APPEND (R299). -/
def execLoadAppend (len : Nat) (s : State) : Host.Outcome State Fault Refusal := .next (s.loadCmd 2 len fun t => t.appendStaging len)

/-- LOAD (R296). -/
def execLoadStaged (s : State) : Host.Outcome State Fault Refusal := .next (s.loadCmd 3 0 State.loadStaging)

/-- COMMIT (R295). -/
def execLoadCommitSlot (s : State) : Host.Outcome State Fault Refusal := .next (s.loadCmd 4 0 fun t => t.commitStaging false)

/-- LOAD_COMMIT (R295): commit, then load from flash. -/
def execLoadCommitLoad (s : State) : Host.Outcome State Fault Refusal :=
  .next (s.loadCmd 5 0 fun t => t.commitStaging true)

/-- RELOAD (R294). -/
def execLoadReload (s : State) : Host.Outcome State Fault Refusal := .next (s.loadCmd 6 0 fun t => t.loadRun .reload)

end Sys2Proof.Machine
end

