-- ==== Sys2Proof/Machine/Monitor.lean ====
section
/-!
DEFINITION. The Teilo monitor (16 R436 to R439): its commands, their answers, and the lines it refuses.
-/
namespace Sys2Proof.Machine

/-- Whether the monitor answers: the Cairn firmware runs (R436). -/
def State.monitorUp (s : State) : Bool := decide (s.pwr.phase = .up) || decide (s.pwr.phase = .offEntry)

/-- An answer: data lines, then the final line (R437). -/
def State.say (s : State) (lines : List (String × List Nat)) (fin : String) : State := s.emit (.monitor lines fin)

/-- A refused command changes nothing (R438). -/
def State.refuse (s : State) (name : String) : State := s.say [] ("ERR " ++ name)

/-- A command line arrives: without the Cairn it is discarded; where an injector says so, its characters have a framing error (R432, R437);
otherwise the command runs. -/
def State.line (s : State) (k : State → State) : State :=
  if s.monitorUp then
    let (bad, s1) := s.check detMonRxErr 0 false
    if bad then s1.refuse "FRAMING" else k s1
  else s

/-- What a command needs beyond an image (Table 16.8). -/
inductive Need where
  | image
  | debug
  | inject
deriving DecidableEq, Repr

/-- Whether the image in effect gives it. -/
def State.has (s : State) (n : Need) : Bool :=
  match n with
  | .image => true
  | .debug => s.load.img.any fun i => i.debug
  | .inject => s.load.img.any fun i => i.inject

/-- A command that needs an image (R438): `ok` says that its values are in range. -/
def State.command (s : State) (n : Need) (ok : Bool) (k : State → State) : State :=
  s.line fun t =>
    if t.loaded = false then t.refuse "NOIMAGE"
    else if t.has n = false then t.refuse "NODEBUG"
    else if ok then k t
    else t.refuse "RANGE"

/-- MONITOR_UNKNOWN_COMMAND (R438). -/
def execMonitorUnknownCommand (s : State) : Host.Outcome State Fault Refusal := .next (s.line fun t => t.refuse "SYNTAX")

/-- ID (Table 16.8). -/
def execMonId (s : State) : Host.Outcome State Fault Refusal :=
  .next (s.line fun t => t.say
    [("PART", [(t.reg regIdentPartLo).toNat, (t.reg regIdentPartHi).toNat]), ("STEP", [t.fld regIdentStep 0 8]),
     ("FW", [t.fld regIdentStep 8 8, t.fld regIdentStep 16 8]), ("SERIAL", [(t.reg regIdentSerial).toNat])] "OK")

/-- The domains or channels, below `n`, whose STATE has a value. -/
def State.inState (s : State) (n v bits : Nat) (reg : Nat → Nat) : List Nat := (List.range n).filter fun i => decide (s.fld (reg i) 0 bits = v)

/-- STATUS (Table 16.8). -/
def execMonStatus (s : State) : Host.Outcome State Fault Refusal :=
  .next (s.line fun t =>
    let f := fun (lo n : Nat) => t.fld regIdentLoadStatus lo n
    t.say ([("LOAD", [f 0 2, f 8 4, f 16 2, f 2 1]), ("HEARTBEAT", [(t.reg regIdentHeartbeat).toNat]), ("TJMAX", [t.fld regIdentStatus 3 8]),
        ("ALERT", [t.fld regIdentStatus 1 1])] ++
      (if t.loaded then
        [("OP", [t.fld regPwrStatus 0 2]), ("THROTTLE", [t.fld regIdentStatus 2 1]), ("REF_OK", [t.fld regClkStatus 1 1]),
         ("FAILED", t.inState 282 6 3 regPwrDom), ("SUSPECT", t.inState 512 1 2 regCisChan)]
       else [])) "OK")

/-- The rates of R436. -/
def baudRates : List Nat := [9600, 19200, 57600, 115200, 230400, 460800, 921600]

/-- BAUD (R436): the new rate takes effect after the OK. -/
def execMonBaud (rate : Nat) (s : State) : Host.Outcome State Fault Refusal :=
  .next (s.command .image (decide (rate ∈ baudRates)) fun t => { t.say [] "OK" with baud := rate })

/-- Names of Table 16.1, in order, from index 0. -/
def detNames0 : List String :=
  ["DET_REG_VIOLATION", "DET_CTX_LOST", "DET_ALIGN_FAULT", "DET_ALIAS_FAULT", "DET_PAGE_FAULT", "DET_POISON_CONSUMED", "DET_NO_PROGRESS",
  "DET_ILLEGAL_INSN", "DET_SCOPY_INVALID", "DET_ATOM_MISALIGNED", "DET_MSTACK_UNDERFLOW", "DET_MSTACK_OVERFLOW", "DET_WRONG_SCOPE",
  "DET_ATOM_HOST", "DET_WAIT_OVERFLOW", "DET_EVENT_INVALID", "DET_ARRAY_INVALID", "DET_AMODE_MISMATCH", "DET_WELL_BASE_MISMATCH",
  "DET_WELL_BOUND", "DET_WELL_OVERFLOW", "DET_STAT_DROPPED", "DET_PUMP_DESC_INVALID", "DET_PUMP_DISCARD"]

/-- Names of Table 16.1, in order, from index 24. -/
def detNames1 : List String :=
  ["DET_PUMP_ADD_TRUNC", "DET_PUMP_ADD_OVERFLOW", "DET_PUMP_ADD_HOST", "DET_UPD_INVALID", "DET_UPD_REPEAT", "DET_UPD_STALE_STEP",
  "DET_UPD_NONFINITE", "DET_SCHED_REPEAT", "DET_COLL_BOUND", "DET_COLL_TRUNC", "DET_COLL_OVERFLOW", "DET_COLL_POISON", "DET_DEAD_REREAD",
  "DET_PIN_OVER_QUOTA", "DET_PIN_CEILING", "DET_WIN_MISMATCH", "DET_CIS_CFG_REJECT", "DET_HBM_CE", "DET_HBM_UE", "DET_SRAM_CE", "DET_SRAM_UE",
  "DET_PARITY", "DET_HOST_POISON_READ", "DET_CHAN_SUSPECT"]

/-- Names of Table 16.1, in order, from index 48. -/
def detNames2 : List String :=
  ["DET_FEATURE_ABSENT", "DET_FEAT_REJECT", "DET_ADM_REFUSED", "DET_CMD_INVALID", "DET_DOORBELL_INVALID", "DET_EVENT_STALE",
  "DET_EVENT_SATURATED", "DET_EVENT_POISONED", "DET_EVR_OVERFLOW", "DET_BAR4_RANGE", "DET_SWAP_REFUSED", "DET_RDG_BRINGUP", "DET_RDG_CRC",
  "DET_RDG_SEQ", "DET_RDG_CREDIT", "DET_RDG_RETRAIN", "DET_RDG_MALFORMED", "DET_RDG_NAK_SENT", "DET_RDG_NAK_RECV", "DET_RDG_PEER_CHANGE",
  "DET_RDG_WIN_CONFLICT", "DET_RDG_TIMEOUT", "DET_RDG_LATE", "DET_ETH_RX_ERR"]

/-- Names of Table 16.1, in order, from index 72. -/
def detNames3 : List String :=
  ["DET_ETH_RX_DROP", "DET_ETH_ROCE", "DET_ETH_PFC_WD", "DET_PCIE_ERR", "DET_PCIE_CPL", "DET_CKP_STAGE", "DET_CKP_STAGE_FULL",
  "DET_CKP_POISON_LINE", "DET_CKP_FAIL", "DET_CKP_CRC", "DET_CKP_RESTORE_SKIP", "DET_CKP_CFG_REJECT", "DET_SEC_TAG_DENY", "DET_SEC_KEY_FULL",
  "DET_SEC_MBX_REFUSED", "DET_SEC_OWNER_IGNORED", "DET_PWR_ENVELOPE", "DET_PWR_THERM", "DET_PWR_FAST", "DET_PWR_WAKE_IN_ENTRY",
  "DET_PWR_DISCARD", "DET_PWR_WAKE_FAIL", "DET_CLK_REF_LOSS", "DET_MON_RX_ERR"]

/-- Names of Table 16.1, in order, from index 96. -/
def detNames4 : List String := ["DET_LOG_SUPPRESSED"]

/-- The names of the counters, by index (Table 16.1). -/
def detNames : List String := detNames0 ++ detNames1 ++ detNames2 ++ detNames3 ++ detNames4

/-- A character of a line with its case taken away (R437). -/
def upChar (b : BitVec 8) : Char := Char.ofNat (if 97 ≤ b.toNat ∧ b.toNat ≤ 122 then b.toNat - 32 else b.toNat)

/-- The counter that CNT names, where there is one. -/
def cntIndex (c : CntSel) : Option Nat :=
  match c with
  | .index i => some i
  | .name t => (List.range 0x61).find? fun i => (detNames.getD i "").toList = t.map upChar

/-- CNT of one counter (Table 16.8): an unknown name is wrong syntax (log 38). -/
def execMonCnt (i : CntSel) (s : State) : Host.Outcome State Fault Refusal :=
  .next (
    match cntIndex i with
    | some k => s.command .image (decide (k < 0x61)) fun t => t.say [("CNT", [(t.reg (regDetCounter k)).toNat])] "OK"
    | none => s.command .image true fun t => t.refuse "SYNTAX")

/-- CNT ALL (Table 16.8). -/
def execMonCntAll (s : State) : Host.Outcome State Fault Refusal :=
  .next (s.command .image true fun t => t.say
    (((List.range 0x61).filter fun i => t.reg (regDetCounter i) ≠ 0).map fun i => ("CNT", [i, (t.reg (regDetCounter i)).toNat])) "OK")

/-- CNTCLR (Table 16.8): one counter, or all as CLEAR_ALL. -/
def execMonCntclr (i : Option Nat) (s : State) : Host.Outcome State Fault Refusal :=
  .next (
    match i with
    | some k => s.command .image (decide (k < 0x61)) fun t => (t.setReg (regDetCounter k) 0).say [] "OK"
    | none => s.command .image true fun t => t.clearCounters.say [] "OK")

/-- A record's line: its fields. -/
def LogRec.line (r : LogRec) : String × List Nat :=
  if r.ok then ("LOG", [r.typ, b2n r.inj, r.boot, r.time, r.det, r.code, r.unit, r.ctx, r.arg]) else ("BAD", [])

/-- LOG (Table 16.8). -/
def execMonLog (n : Nat) (s : State) : Host.Outcome State Fault Refusal :=
  .next (s.command .image (decide (1 ≤ n) && decide (n ≤ 1024)) fun t => t.say ((t.log.recs.take n).map LogRec.line) "OK")

/-- MARKS (Table 16.8). -/
def execMonMarks (s : State) : Host.Outcome State Fault Refusal :=
  .next (s.command .image true fun t => t.say [("MARKS", t.log.marks)] "OK")

/-- A monitor write that breaks a register rule (R439). -/
def State.monViolation (s : State) (off : Nat) : State := (s.violation off 0 true).refuse "RANGE"

/-- The writes of INJ ARM: INJ_SKIP, INJ_PERIOD, then INJ_CTRL with ARM = 1; the first that breaks a rule refuses the command. -/
def State.monArm (s : State) (j : Nat) (ctrl skip period : BitVec 64) : State :=
  let (b1, s1) := s.judge detRegViolation 0 (s.isArmed j)
  if b1 then s1.monViolation (regInjSkip j)
  else
    let (b2, s2) := s1.judge detRegViolation 0 false
    if b2 then s2.monViolation (regInjPeriod j)
    else
      let (b3, s3) := s2.judge detRegViolation 0 (s2.injBad j ctrl (field period 0 32))
      if b3 then s3.monViolation (regInjCtrl j)
      else (((s3.regPlain (regInjSkip j) skip).regPlain (regInjPeriod j) period).injSet j ctrl).say [] "OK"

/-- INJ ARM (Table 16.8): ONE writes no period and no limit. -/
def execMonInjArm (j point unit : Nat) (periodic : Bool) (skip period limit : Nat) (s : State) : Host.Outcome State Fault Refusal :=
  let p := if periodic then period else 0
  let l := if periodic then limit else 0
  .next (s.command .inject
    (decide (j < 16) && decide (point < 256) && decide (unit < 2 ^ 16) && decide (skip < 2 ^ 32) && decide (p < 2 ^ 32) && decide (l < 2 ^ 32))
    fun t => t.monArm j (BitVec.ofNat 64 (1 + b2n periodic * 8 + point * 2 ^ 8 + unit * 2 ^ 16)) (BitVec.ofNat 64 skip)
      (BitVec.ofNat 64 (p + l * 2 ^ 32)))

/-- INJ OFF (Table 16.8): writes DISARM = 1. -/
def execMonInjOff (i : Option Nat) (s : State) : Host.Outcome State Fault Refusal :=
  .next (
    match i with
    | some j => s.command .inject (decide (j < 16)) fun t => (t.disarm j).say [] "OK"
    | none => s.command .inject true fun t => ((List.range 16).foldl (fun (u : State) j => u.disarm j) t).say [] "OK")

/-- INJ LIST (Table 16.8). -/
def execMonInjList (s : State) : Host.Outcome State Fault Refusal :=
  .next (s.command .inject true fun t => t.say
    (((List.range 16).filter fun j => t.isArmed j).map fun j =>
      let c := regInjCtrl j
      ("INJ", [j, t.fld c 8 8, t.fld c 16 16, t.fld c 3 1, (t.reg (regInjFired j)).toNat])) "OK")

/-- Free words. -/
def State.frees : Nat → State → List Nat × State
  | 0, s => ([], s)
  | n + 1, s =>
    let (v, s1) := s.free
    let (l, s2) := State.frees n s1
    (v.toNat :: l, s2)

/-- Whether `n` words from an offset lie in the TILE window, which takes the upper half of BAR0 (Table 11.2). -/
def tileRange (off n : Nat) : Bool := decide (off % 8 = 0) && decide (off + 8 * n ≤ 0x2000000)

/-- TILE RD (Table 16.8): no file of the spec says what the words of the window are; they are free values. -/
def execMonTileRd (off n : Nat) (s : State) : Host.Outcome State Fault Refusal :=
  .next (s.command .debug (decide (1 ≤ n) && decide (n ≤ 64) && tileRange off n) fun t =>
    let (l, t1) := State.frees n t
    t1.say [("TILE", l)] "OK")

/-- TILE WR (Table 16.8, R439): what a word of the window stands for is in no file of the spec; the write is judged and answered. -/
def execMonTileWr (off : Nat) (_v : BitVec 64) (s : State) : Host.Outcome State Fault Refusal :=
  .next (s.command .debug true fun t =>
    let (bad, t1) := t.judge detRegViolation 0 (!tileRange off 1)
    if bad then t1.monViolation (0x2000000 + off) else t1.say [] "OK")

/-- MARKCLR (R435, Table 16.8). -/
def execMonMarkclr (i : Option Nat) (s : State) : Host.Outcome State Fault Refusal :=
  .next (
    match i with
    | some n => s.command .debug (decide (n < 512)) fun t =>
        { t with log := { t.log with marks := t.log.marks.filter fun m => m ≠ n } }.say [] "OK"
    | none => s.command .debug true fun t => { t with log := { t.log with marks := [] } }.say [] "OK")

/-! ## Lines as they come (R437, R438) -/

/-- The commands of Table 16.8. -/
inductive MonCmd where
  | id
  | status
  | baud (rate : Nat)
  | cnt (i : CntSel)
  | cntAll
  | cntclr (i : Option Nat)
  | log (n : Nat)
  | marks
  | injArm (j point unit : Nat) (periodic : Bool) (skip period limit : Nat)
  | injOff (i : Option Nat)
  | injList
  | tileRd (off n : Nat)
  | tileWr (off : Nat) (v : BitVec 64)
  | markclr (i : Option Nat)
deriving DecidableEq, Repr

/-- The words of a line, in capitals. -/
def monWords (text : List (BitVec 8)) : List (List Char) :=
  ((text.map upChar).splitOn ' ').filter fun w => w ≠ []

/-- A digit of a base. -/
def digitOf (base : Nat) (c : Char) : Option Nat :=
  let v := if '0' ≤ c ∧ c ≤ '9' then c.toNat - 48 else if 'A' ≤ c ∧ c ≤ 'F' then c.toNat - 55 else 16
  if v < base then some v else none

/-- Digits of a base as a number. -/
def digitsVal (base : Nat) (ds : List Char) : Option Nat :=
  if ds = [] then none else ds.foldl (fun a c => a.bind fun n => (digitOf base c).map fun d => n * base + d) (some 0)

/-- A number (R437): decimal, or hexadecimal after 0x, underscores left out. -/
def monNum (w : List Char) : Option Nat :=
  match w.filter fun c => c ≠ '_' with
  | '0' :: 'X' :: h => digitsVal 16 h
  | ds => digitsVal 10 ds

/-- A number, or ALL. -/
def monSel (w : List Char) : Option (Option Nat) := if w = "ALL".toList then some none else (monNum w).map some

/-- The counter that a word of CNT names. -/
def monCntSel (w : List Char) : CntSel :=
  match monNum w with
  | some i => .index i
  | none => .name (w.map fun c => BitVec.ofNat 8 c.toNat)

/-- The operands of INJ ARM after its mode: SKIP, and PERIOD and LIMIT where they stand. -/
def monArmArgs (j point unit : Nat) (mode : List Char) (ns : List Nat) : Option MonCmd :=
  match ns with
  | [skip] => if mode = "ONE".toList then some (.injArm j point unit false skip 0 0) else none
  | [skip, period] => if mode = "PER".toList then some (.injArm j point unit true skip period 0) else none
  | [skip, period, limit] => if mode = "PER".toList then some (.injArm j point unit true skip period limit) else none
  | _ => none

/-- The command that a line spells (Table 16.8), or none where its syntax is wrong. -/
def monParse (ws : List (List Char)) : Option MonCmd :=
  let is := fun (w : List Char) (k : String) => decide (w = k.toList)
  match ws with
  | [a] =>
    if is a "ID" then some .id else if is a "STATUS" then some .status else if is a "MARKS" then some .marks
    else if is a "LOG" then some (.log 16) else none
  | [a, b] =>
    if is a "BAUD" then (monNum b).map .baud
    else if is a "CNT" then (if is b "ALL" then some .cntAll else some (.cnt (monCntSel b)))
    else if is a "CNTCLR" then (monSel b).map .cntclr
    else if is a "LOG" then (monNum b).map .log
    else if is a "MARKCLR" then (monSel b).map .markclr
    else if is a "INJ" && is b "LIST" then some .injList
    else none
  | [a, b, c] =>
    if is a "INJ" && is b "OFF" then (monSel c).map .injOff
    else if is a "TILE" && is b "RD" then (monNum c).map fun o => .tileRd o 1
    else none
  | [a, b, c, d] =>
    if is a "TILE" && is b "RD" then (monNum c).bind fun o => (monNum d).map fun n => .tileRd o n
    else if is a "TILE" && is b "WR" then (monNum c).bind fun o => (monNum d).map fun v => .tileWr o (BitVec.ofNat 64 v)
    else none
  | a :: b :: c :: d :: e :: f :: rest =>
    if is a "INJ" && is b "ARM" then
      match monNum c, monNum d, monNum e, rest.mapM monNum with
      | some j, some point, some unit, some ns => monArmArgs j point unit f ns
      | _, _, _, _ => none
    else none
  | _ => none

/-- A command of the monitor as its row answers it. -/
def State.monRun (s : State) (c : MonCmd) : State :=
  let go := fun (o : Host.Outcome State Fault Refusal) => match o with | .next t => t | _ => s
  match c with
  | .id => go (execMonId s)
  | .status => go (execMonStatus s)
  | .baud r => go (execMonBaud r s)
  | .cnt i => go (execMonCnt i s)
  | .cntAll => go (execMonCntAll s)
  | .cntclr i => go (execMonCntclr i s)
  | .log n => go (execMonLog n s)
  | .marks => go (execMonMarks s)
  | .injArm j point unit per skip period limit => go (execMonInjArm j point unit per skip period limit s)
  | .injOff i => go (execMonInjOff i s)
  | .injList => go (execMonInjList s)
  | .tileRd o n => go (execMonTileRd o n s)
  | .tileWr o v => go (execMonTileWr o v s)
  | .markclr i => go (execMonMarkclr i s)

/-- A line that is answered ERR FRAMING or ERR LONG (R437). -/
def State.rxError (s : State) (name : String) : State := (s.note detMonRxErr 0).refuse name

/-- MONITOR_RX_ERROR (R437): a framing error or over-long input; a line over 256 characters is such input, and any other line is the command it
spells, or has wrong syntax. A line without a word is no command. -/
def execMonitorRxError (rx : MonRx) (s : State) : Host.Outcome State Fault Refusal :=
  .next (
    if s.monitorUp = false then s
    else
      match rx with
      | .framing => s.rxError "FRAMING"
      | .long => s.rxError "LONG"
      | .line text =>
        if 256 < text.length then s.rxError "LONG"
        else if monWords text = [] then s
        else
          match monParse (monWords text) with
          | some c => s.monRun c
          | none => s.line fun t => t.refuse "SYNTAX")

end Sys2Proof.Machine
end

