-- ==== Sys2Proof/Machine/RidgeFrame.lean ====
section
/-!
DEFINITION. Routed Ridge frames as they arrive (12 R340, R343, R345, R348 to R353): what is refused, what is forwarded, the board memory frames
and their answers, signals, collectives' frames, and NAKs.
-/
namespace Sys2Proof.Machine

/-! ## Malformed frames (R340) -/

/-- The ARGS bits that Table 12.4 gives a type; every other bit is reserved. -/
def argsMask (t : Nat) : Nat :=
  match t with
  | 1 | 3 => 2 ^ 50 - 1
  | 2 => 2 ^ 43 - 1
  | 4 => 1
  | 5 => 2 ^ 13 - 1 + (2 ^ 63 - 1) * 2 ^ 64
  | 7 => 2 ^ 14 - 1 + (2 ^ 52 - 1) * 2 ^ 32
  | 8 | 9 => 2 ^ 14 - 1 + (2 ^ 52 - 1) * 2 ^ 32 + (2 ^ 32 - 1) * 2 ^ 96
  | 10 => 2 ^ 12 - 1
  | _ => 0

/-- Whether the address and the operation fields of a request fit one line, a line address, or an aligned operand of Table 2.11. -/
def fieldsFit (f : Frame) : Bool :=
  let a := frameArg f 0 43
  match f.typ.toNat with
  | 1 => a % 128 + frameArg f 43 7 + 1 ≤ 128
  | 2 => a % 128 = 0
  | 3 => decide (frameArg f 46 4 ∈ atomFmts (frameArg f 43 3)) && decide (a % (bitsOfFmt (frameArg f 46 4) / 8) = 0)
  | _ => true

/-- Whether the payload has the length its type gives it. -/
def payloadFits (f : Frame) : Bool :=
  let n := f.payload.length
  decide (n = f.len.toNat) &&
  (match f.typ.toNat with
   | 2 => n = 144
   | 3 => n = 16
   | 4 => n ≤ 128
   | 8 | 9 => true
   | _ => n = 0)

/-- Whether a routed frame is malformed. -/
def frameBad (f : Frame) : Bool :=
  f.resv || decide (f.wire = .noSrc) || decide (f.typ = 0) || decide (10 < f.typ.toNat) || decide (f.vc ≠ vcOf f.typ) || decide (8192 < f.len.toNat) ||
  decide (f.args.toNat ||| argsMask f.typ.toNat ≠ argsMask f.typ.toNat) || !fieldsFit f || !payloadFits f

/-! ## The source acts on a refusal (R345, R350, R352, Table 12.7) -/

/-- The command whose work an owner does. -/
def State.ownerCmd (s : State) (o : Owner) : Option CmdRef :=
  let ofGroup := fun (t k : Nat) => (s.group ⟨t, k⟩).bind fun gr => (s.blockOf ⟨t, k⟩ gr).map fun (b : Block) => b.cmd
  match o with
  | .group t k => ofGroup t k
  | .store t k => ofGroup t k
  | .pump t _ => (s.tile t).claim.bind fun c => (Tbl.find (s.tile t).blocks c.block).map fun (b : Block) => b.cmd
  | .cmd r => some r
  | .spur n => (Tbl.find s.eng.spurs n).map fun (u : UpdEng) => u.r
  | .coll _ | .ending _ | .host _ | .far _ _ | .access _ _ | .wipe | .noone => none

/-- The tile and unit of an owner, as a LOST record names them. -/
def Owner.lostAt (o : Owner) : BitVec 64 :=
  match o with
  | .group t _ => Machine.lostAt 0 t
  | .store t _ => Machine.lostAt 0 t
  | .pump t p => Machine.lostAt (if p = 4 then 1 else 2) t
  | _ => Machine.lostAt 3 0

/-- A board memory request has no answer to wait for any more. -/
def State.dropReq (s : State) (tag : BitVec 16) : State :=
  ({ s with ridge := { s.ridge with reqs := s.ridge.reqs.filter fun x => x.tag ≠ tag } } : State).unfence tag

/-- An answer that its owner has not used yet. -/
def State.giveAnswer (s : State) (r : BoardReq) (data : List (BitVec 8)) (poison : Bool) : State :=
  { s with ridge := { s.ridge with answers := s.ridge.answers ++ [BoardAns.mk r.owner r.ctx r.key data poison] } }

/-- A board memory request ends without its data: its context, where it still has one that lives, is lost with a code; what a lost context still does
goes on (R332, R334). -/
def State.failReq (s : State) (r : BoardReq) (code : Nat) : State :=
  let s1 := s.dropReq r.tag
  match r.owner with
  | .ending c => (s1.giveAnswer r [] true).settleCtx c
  | o => (s1.lose r.ctx code (BitVec.ofNat 64 (frameArg r.frame 0 43)) o.lostAt (s.ownerCmd o)).adminSettle

/-- A REMOTE_SIGNAL ends with a status; with the poisoning SIGNAL of a lost context its loss goes on (R332). -/
def State.endSig (s : State) (q : SigReq) (status : Nat) : State :=
  let s1 := ({ s with ridge := { s.ridge with sigs := s.ridge.sigs.filter fun x => x.tag ≠ q.tag } } : State).unfence q.tag
  if q.poison then s1.settleCtx q.r.ctx else s1.finish q.r status

/-- What a NAK does to a collective that sent a frame of its tag and type: NOT_OPEN and LINK_DOWN send it again later, the others drop it. -/
def Coll.nak (c : Coll) (tag : BitVec 16) (typ code : Nat) : Coll :=
  match c.sent.find? fun f => f.tag = tag ∧ f.typ.toNat = typ with
  | none => c
  | some f =>
    let rest := c.sent.filter fun x => !(decide (x.tag = tag) && decide (x.typ.toNat = typ))
    if code = 8 ∨ code = 9 then { c with sent := rest, resend := c.resend ++ [f] }
    else if code ≤ 3 then { c with sent := rest } else c

/-- The source acts on a NAK of a tag, the refused type and a code of Table 12.7. A code that the table does not give to the type does
nothing. -/
def State.nakAct (s : State) (tag : BitVec 16) (typ code : Nat) : State :=
  match s.ridge.reqs.find? fun r => decide (r.tag = tag) && decide (r.frame.typ.toNat = typ) with
  | some r =>
    if code = 4 ∨ code = 6 then s.failReq r stPageFault
    else if code ∈ [1, 2, 3, 5, 9] then s.failReq r stPoisonConsumed
    else s
  | none =>
    match s.ridge.sigs.find? fun q => decide (q.tag = tag) && decide (typ = 5) with
    | some q => if q.poison ∨ code ∈ [1, 2, 3, 7] then s.endSig q stDescInvalid else s
    | none => { s with eng := { s.eng with colls := s.eng.colls.map fun (e : Nat × Coll) => (e.1, e.2.nak tag typ code) } }

/-! ## Answers at the requester (R345, R350) -/

/-- The bytes of data that answer a board memory request. -/
def rspBytes (f : Frame) : Nat :=
  match f.typ.toNat with
  | 1 => frameArg f 43 7 + 1
  | 3 => bitsOfFmt (frameArg f 46 4) / 8
  | _ => 0

/-- A memory completion reaches the group that made the request, whose timer restarts (R70); the answer to a poll is none (R99). -/
def State.memDone (s : State) (r : BoardReq) : State :=
  match r.owner, r.gid with
  | .store t k, some x => s.restartOf ⟨t, k⟩ x
  | .group t k, some x =>
    match (s.group ⟨t, k⟩).map Group.wait with
    | some (.watch _) => s
    | _ => s.restartOf ⟨t, k⟩ x
  | _, _ => s

/-- An answer reaches its owner (R350, R272): a write needs no data, and a poisoned answer to one loses its context, as one does that nobody waits
for any more. -/
def State.takeAnswer (s : State) (r : BoardReq) (poison : Bool) (data : List (BitVec 8)) : State :=
  if r.frame.typ = 2 ∨ r.owner = .noone then (if poison then s.failReq r stPoisonConsumed else (s.dropReq r.tag).adminSettle)
  else
    match r.owner with
    | .ending c => ((s.dropReq r.tag).giveAnswer r data poison).settleCtx c
    | _ => (s.dropReq r.tag).giveAnswer r data poison

/-- A NAK is received (R345, Table 12.7). -/
def State.takeNak (s : State) (f : Frame) : State := (s.det detRdgNakRecv).nakAct f.tag (frameArg f 8 4) (frameArg f 0 8)

/-- What a MEM_RSP of this module does where it is the requester too (R343). -/
def State.ownRsp (s : State) (f : Frame) : State :=
  match s.ridge.reqs.find? fun r => r.tag = f.tag with
  | some r => (s.takeAnswer r (decide (frameArg f 0 1 = 1)) f.payload).memDone r
  | none => s.det detRdgLate

/-- What a SIG_RSP does (R352); one that nothing waits for is dropped. -/
def State.takeSigRsp (s : State) (f : Frame) : State :=
  match s.ridge.sigs.find? fun q => q.tag = f.tag with
  | some q => s.endSig q 0
  | none => s.det detRdgLate

/-- Answer a frame to its SRC: one whose SRC is this module is delivered here (R343). An answer that finds no route is refused: that counts, and no
NAK answers it (R345). -/
def State.answer (s : State) (f : Frame) (typ : BitVec 4) (args : Nat) (payload : List (BitVec 8)) : State :=
  let g := s.mkFrame typ f.src.toNat f.tag args payload
  if f.src.toNat = s.node then
    match typ.toNat with
    | 4 => s.ownRsp g
    | 6 => s.takeSigRsp g
    | _ => s.takeNak g
  else
    match s.send true g with
    | (some _, t) => t.det detRdgNakSent
    | (none, t) => t

/-- Refuse a frame (R345): count it, and answer NAK with the code unless it is itself a NAK or its SRC cannot be read. -/
def State.refuseFrame (s : State) (f : Frame) (code : Nat) : State :=
  let s1 := s.det detRdgNakSent
  if f.typ = 10 ∨ f.wire = .noSrc then s1 else s1.answer f 10 (code + f.typ.toNat * 256) []

/-! ## Arrival -/

/-- Whether a link sequence lies behind the one expected: its frame has been received. -/
def seqBehind (n rx : BitVec 16) : Bool := decide (2 ^ 15 ≤ (n - rx).toNat)

/-- Link-level checks of an arriving frame (Table 12.8): one that fails its CRC or tag, or leaves a gap in the sequence, is dropped and a link NAK
answers; one already received is acknowledged again; one for which its receive buffer has no room overruns the credits, and the link NAK carries
the units that are free. -/
def State.linkJudge (s : State) (p : Nat) (f : Frame) : Bool × State :=
  let rx := (s.port p).rx
  let (crc, s1) := s.check detRdgCrc p (decide (f.wire = .crc))
  let other := match f.wire with | .seq n => decide (n ≠ rx) | _ => false
  let again := match f.wire with | .seq n => seqBehind n rx | _ => false
  let (seq, s2) := if crc then (false, s1) else s1.check detRdgSeq p other
  let (ovr, s3) := if crc || seq then (false, s2) else s2.check detRdgCredit p (decide ((s.vcFree p).getD f.vc.toNat 0 < frameUnits f))
  if crc || seq then
    let s4 := if crc then s3.bumpFld (regRdgPortErr p) 0 16 1 else s3
    (true, if !crc && again then s4.linkOut p 1 (rx - 1) [] else s4.linkOut p 2 rx [])
  else if ovr then
    let q := s3.port p
    let os := s3.ms :: q.overruns.filter fun t => s3.ms < t + 1000
    let s4 := ((s3.setPort p { q with overruns := os }).bumpFld (regRdgPortErr p) 32 16 1).linkOut p 2 q.rx (s3.vcFree p)
    (true, s4.judgeRetrain p (decide (16 ≤ os.length)))
  else (false, s3)

/-- A frame is received into its buffer, and its sequence is acknowledged (R341, R342). -/
def State.takeIn (s : State) (p : Nat) (f : Frame) : State :=
  let q := s.port p
  (s.setPort p { q with rx := q.rx + 1, rxUnits := q.rxUnits + controlUnits f }).linkOut p 1 q.rx []

/-- Forward a frame (R343): it keeps its units of the receive buffer until it leaves, or it is refused and they are free. -/
def State.forward (s : State) (p : Nat) (f : Frame) : State :=
  match s.sendFrom (some p) false f with
  | (some c, t) => (t.refuseFrame f c).freeIn (some p) f
  | (none, t) => t

/-- A frame that an injector refuses (R432) gets a code of Table 12.7, which the spec does not fix. -/
def State.refuseAny (s : State) (f : Frame) : State :=
  let (v, t) := s.free
  t.refuseFrame f (v.toNat % 9 + 1)

/-- A routed frame arrives on a port: link-level errors, malformed frames and board memory frames on a port of another role are answered, a frame
for another module is forwarded, and `k` delivers one for this module. Where it must wait, for a domain or at the lines that `k` names, it takes its
turn and is presented again (R254, R414, log 3). -/
def State.arrive (s : State) (p : Nat) (f : Frame) (k : State → State ⊕ (Option Nat × List Nat)) : State :=
  let me := Owner.far f.src.toNat f.tag.toNat
  if s.portState p ≠ 3 then s
  else if s.portAwake p = false then s.stir me (s.reachDoms [domOfPort p])
  else
    let (drop, s0) := s.linkJudge p f
    if drop then s0
    else
      let (bad, s1) := s0.check detRdgMalformed p (frameBad f)
      let (refused, s2) := s1.judge detRdgNakSent p false
      let (nak, s3) := s2.judge detRdgNakRecv p (decide (f.typ = 10))
      let t := s3.takeIn p f
      if bad then (t.refuseFrame f 1).freeIn (some p) f
      else if refused then (t.refuseAny f).freeIn (some p) f
      else if nak && decide (f.typ ≠ 10) then (t.takeNak f).freeIn (some p) f
      else if boardMem f.typ ∧ s.portRole p ≠ 1 then (t.refuseFrame f 5).freeIn (some p) f
      else if f.dst.toNat ≠ s.node then t.forward p { f with wire := .good }
      else
        match k t with
        | .inl u => u.freeIn (some p) f
        | .inr (some d, _) => s.noteDom me d
        | .inr (none, ls) => s.takeTurn me none ls

/-- MALFORMED_FRAME (R340, R345). -/
def execMalformedFrame (p : Nat) (f : Frame) (s : State) : Host.Outcome State Fault Refusal :=
  .next (if frameBad f then s.arrive p f .inl else s)

/-- FRAME_FORWARD (R343). -/
def execFrameForward (p : Nat) (f : Frame) (s : State) : Host.Outcome State Fault Refusal :=
  .next (if f.dst.toNat = s.node then s else s.arrive p f .inl)

/-! ## Board memory frames at the owner (R349, R350) -/

/-- Whether this module's own window is in conflict (R349). -/
def State.ownConflict (s : State) : Bool := decide (s.fld regRdgBoard (56 + s.fld regRdgBoard 32 3) 1 = 1)

/-- Why the owner refuses a board memory request: BOARD or NO_MEMORY of Table 12.7. -/
def State.ownerRefuses (s : State) (f : Frame) : Option Nat :=
  let w := s.fld regRdgBoard 32 3
  if s.ownConflict ∨ f.board.toNat ≠ s.fld regRdgBoard 0 32 ∨ frameArg f 40 3 ≠ w then some 4
  else if (s.region (frameArg f 0 40)).isNone then some 6
  else none

/-- Answer a board memory request; a poisoned answer may come of a cistern that has lost its tags (Table 9.5). -/
def State.memRsp (s : State) (f : Frame) (poison : Bool) (data : List (BitVec 8)) : State :=
  if poison then (s.answer f 4 1 []).tagSettle else s.answer f 4 0 data

/-- The crests from a port's I/O die to the cistern of a DPA (R33). -/
def State.wayIn (s : State) (p dpa : Nat) : List Nat :=
  match s.home dpa with
  | some h => (crestPath (6 * (p / 16) + h.1 / 64 % 2) (h.1 / 64)).map (256 + ·)
  | none => []

/-- A board memory request of type `typ` for this module: refused, or served by `k` at its DPA once nothing stands before it. `n` bytes are
read, or a line is written where `write`. -/
def State.boardServe (s : State) (p : Nat) (f : Frame) (typ : BitVec 4) (n : Nat) (write : Bool)
    (k : State → Owner → Nat → State ⊕ (Option Nat × List Nat)) :
    State :=
  if f.typ ≠ typ then s
  else
    s.arrive p f fun t =>
      match t.ownerRefuses f with
      | some c => .inl (t.refuseFrame f c)
      | none =>
        let o := Owner.far f.src.toNat f.tag.toNat
        let a := frameArg f 0 40
        match reachOf [t.reachDoms (t.wayIn p a), t.devReach o none a n (!write) write] with
        | .failed => .inl (t.memRsp f true [])
        | .asleep d => .inr (some d, [])
        | .busy => .inr (none, [a / 128])
        | .ok => k t o a

/-- MEM_RD (R350). -/
def execMemRd (p : Nat) (f : Frame) (s : State) : Host.Outcome State Fault Refusal :=
  .next (s.boardServe p f 1 (frameArg f 43 7 + 1) false fun t o a =>
    let n := frameArg f 43 7 + 1
    let (data, t) := t.shown a n
    let r := t.devRead (plainReq none) a n
    let (bad, u) := (r.st.leaveTurn o none [a / 128]).reply (a / 128)
    .inl (u.memRsp f (r.poison || bad) data))

/-- The bytes of a MEM_WR by their offset in the line. -/
def maskedBytes (f : Frame) : Tbl (BitVec 8) :=
  ((List.range 128).filter fun o => bitOf (leVal (f.payload.take 16)) o).map fun o => (o, f.payload.getD (16 + o) 0)

/-- A request whose payload comes poisoned poisons its line (R272). -/
def State.poisonIn (s : State) (f : Frame) (o : Owner) (a : Nat) : State :=
  ((s.leaveTurn o none [a / 128]).poisonFlit (a / 128) 3 detParity false).memRsp f true []

/-- MEM_WR (R272, R350): answered once it is performed; data that arrive poisoned poison the line, and one that writes no byte reaches none. -/
def execMemWr (p : Nat) (f : Frame) (s : State) : Host.Outcome State Fault Refusal :=
  .next (
    if maskedBytes f = [] then
      (if f.typ ≠ 2 then s
       else s.arrive p f fun t => .inl (match t.ownerRefuses f with | some c => t.refuseFrame f c | none => t.memRsp f false []))
    else s.boardServe p f 2 128 true fun t o a =>
      if f.poisoned then .inl (t.poisonIn f o a)
      else
        let r := (t.leaveTurn o none [a / 128]).cisWrite (plainReq none) (a / 128) (maskedBytes f)
        .inl (r.st.memRsp f r.poison []))

/-- MEM_ATOM (R272, R350, Table 2.11): the old value answers; operands that arrive poisoned poison the line. -/
def execMemAtom (p : Nat) (f : Frame) (s : State) : Host.Outcome State Fault Refusal :=
  let fmt := frameArg f 46 4
  let w := bitsOfFmt fmt
  let b := leVal (f.payload.take 8) % 2 ^ w
  let c := leVal (f.payload.drop 8) % 2 ^ w
  .next (s.boardServe p f 3 (w / 8) f.poisoned fun t o a =>
    if f.poisoned then .inl (t.poisonIn f o a)
    else
      match t.devAtomic o (plainReq none) a (w / 8) (fun old => atomNew (frameArg f 43 3) fmt old b c) with
      | .wait _ => .inr (none, [a / 128])
      | .poison _ u => .inl (u.memRsp f true [])
      | .done old u => .inl (u.memRsp f false (leBytes (w / 8) old)))

/-! ## Answers as they arrive (R345, R350) -/

/-- The unit of a request's timeout: the port it leaves on. -/
def State.frameUnit (s : State) (f : Frame) : Nat := (s.exitOf true f).getD 0xFFFF

/-- MEM_RSP (R349, R350): an answer to no request that waits is late; while this module's window is in conflict it is refused as every board
memory frame. An injector may take the request as unanswered, or the answer as late (R432). -/
def execMemRsp (p : Nat) (f : Frame) (s : State) : Host.Outcome State Fault Refusal :=
  .next (
    if f.typ ≠ 4 then s
    else
      s.arrive p f fun t =>
        if t.ownConflict then .inl (t.refuseFrame f 4)
        else
          let req := t.ridge.reqs.find? fun r => r.tag = f.tag
          let (late, t1) := t.check detRdgLate p req.isNone
          match if late then none else req with
          | none => .inl t1
          | some r =>
            let poison := decide (frameArg f 0 1 = 1)
            let (timeout, t2) := t1.check detRdgTimeout p false
            if timeout then .inl ((t2.det detRdgLate).failReq r stPoisonConsumed)
            else if poison = false ∧ f.payload.length ≠ rspBytes r.frame then .inl ((t2.det detRdgMalformed).refuseFrame f 1)
            else .inl ((t2.takeAnswer r poison f.payload).memDone r))

/-- RSP_TIMEOUT_EXPIRY (R350, R352): of a board memory request, or of the poisoning SIGNAL of a lost context. -/
def execRspTimeoutExpiry (tag : BitVec 16) (s : State) : Host.Outcome State Fault Refusal :=
  .next (
    match s.ridge.reqs.find? fun r => r.tag = tag with
    | some r => (s.note detRdgTimeout (s.frameUnit r.frame)).failReq r stPoisonConsumed
    | none =>
      match s.ridge.sigs.find? fun q => decide (q.tag = tag) && q.poison with
      | some q => (s.note detRdgTimeout (s.frameUnit q.f)).endSig q stDescInvalid
      | none => s)

/-! ## Signals (R351, R352) -/

/-- SIGNAL (R351): refused, or performed on the slot's event and answered. -/
def execSignalFrame (p : Nat) (f : Frame) (s : State) : Host.Outcome State Fault Refusal :=
  .next (
    if f.typ ≠ 5 then s
    else
      s.arrive p f fun t =>
        let i := frameArg f 0 12
        if t.slotRefuses i f.src.toNat then .inl (t.refuseFrame f 7)
        else
          match t.slotSignal (.far f.src.toNat f.tag.toNat) f with
          | .wait _ =>
            let a := t.fld (regRdgRslotEvt i) 3 37 * 8
            match t.devReach (.far f.src.toNat f.tag.toNat) none a 8 true false with
            | .asleep d => .inr (some d, [])
            | _ => .inr (none, [a / 128])
          | .poison _ u => .inl (u.refuseFrame f 7)
          | .done _ u => .inl (u.answer f 6 0 []))

/-- SIG_RSP (R352). -/
def execSigRsp (p : Nat) (f : Frame) (s : State) : Host.Outcome State Fault Refusal :=
  .next (if f.typ ≠ 6 then s else s.arrive p f fun t => .inl (t.takeSigRsp f))

/-! ## Collectives (R241, R242, R353) -/

/-- Whether a frame would be delivered here when it arrives. -/
def State.forHere (s : State) (p : Nat) (f : Frame) : Bool :=
  decide (s.portState p = 3) && (match f.wire with | .good => true | .seq n => decide (n = (s.port p).rx) | _ => false) && !frameBad f &&
    decide (f.dst.toNat = s.node)

/-- A BARRIER, CONTRIB or RESULT frame of type `typ`: its collective takes it, or it is refused. While the collective's memory makes it wait, it
is presented again, and what was asked of other modules stays asked (log 3). -/
def State.collFrameIn (s : State) (p : Nat) (f : Frame) (typ : BitVec 4) : State :=
  if f.typ ≠ typ then s
  else
    match if s.forHere p f then s.collIn f else .ok none s with
    | .stall u => u
    | _ =>
      s.arrive p f fun t =>
        match t.collIn f with
        | .ok none u => .inl u
        | .ok (some c) u => .inl ((if c = 1 then u.det detRdgMalformed else u).refuseFrame f c)
        | .stall _ => .inr (none, [])
        | .lose code va u => .inl (u.lose (((t.coll (frameArg f 8 6)).map (·.ctx)).getD 0) code (BitVec.ofNat 64 va) (lostAt 3 0) none)

/-- BARRIER (R353). -/
def execBarrierFrame (p : Nat) (f : Frame) (s : State) : Host.Outcome State Fault Refusal := .next (s.collFrameIn p f 7)

/-- CONTRIB (R241). -/
def execContribFrame (p : Nat) (f : Frame) (s : State) : Host.Outcome State Fault Refusal := .next (s.collFrameIn p f 8)

/-- RESULT (R242). -/
def execResultFrame (p : Nat) (f : Frame) (s : State) : Host.Outcome State Fault Refusal := .next (s.collFrameIn p f 9)

/-! ## NAKs (R345, Table 12.7) -/

/-- NAK (R345). -/
def execNakFrame (p : Nat) (f : Frame) (s : State) : Host.Outcome State Fault Refusal :=
  .next (
    if f.typ ≠ 10 then s
    else s.arrive p f fun t => .inl (t.takeNak f))

/-- A frame that has waited too long is answered LINK_DOWN: this module's own act on it here. -/
def State.refuseHeld (s : State) (h : HeldFrame) : State :=
  if h.own then (s.det detRdgNakSent).nakAct h.f.tag h.f.typ.toNat 9 else s.refuseFrame h.f 9

/-- LINK_HOLD_EXPIRY (R341, R343): a frame that has waited longer than LINK_HOLD is dropped and answered LINK_DOWN; for a frame of this module, the
module itself acts on that answer. -/
def execLinkHoldExpiry (k : Nat) (s : State) : Host.Outcome State Fault Refusal :=
  .next (
    match s.ridge.held[k]? with
    | none => s
    | some h =>
      let s1 := { s with ridge := { s.ridge with held := s.ridge.held.take k ++ s.ridge.held.drop (k + 1) } }
      ((s1.refuseHeld h).freeIn h.port h.f).drainHeld)

/-- Own board memory requests that wait only for I/O dies which have FAILED are answered poisoned (R416). -/
def State.dropFailed (s : State) : State :=
  s.ridge.held.foldl (fun (t : State) h =>
    let ds := t.exitDies h.own h.f
    if h.own ∧ boardMem h.f.typ ∧ ds ≠ [] ∧ ds.all fun d => decide (t.domState d = 6) then
      match t.ridge.reqs.find? fun r => r.tag = h.f.tag with
      | some r => State.failReq { t with ridge := { t.ridge with held := t.ridge.held.erase h } } r stPoisonConsumed
      | none => t
    else t) s

end Sys2Proof.Machine
end

