-- ==== Sys2Proof/Machine/Trust.lean ====
section
/-!
DEFINITION. The trust functions (14): the mailbox commands (R382, R390, R391, R397), attestation over SPDM (R384, R385), the tenant's secret
(R392) and the keys of the IDE stream (R395).
-/
namespace Sys2Proof.Machine

/-! ## The mailbox (R397) -/

/-- A mailbox command's outcome: it acts, it is refused with a REASON of R397, or it waits and is presented again (log 3). -/
inductive Mbx where
  | done (s : State)
  | refused (reason : Nat) (s : State)
  | wait (s : State)

/-- An argument of the running command. -/
def State.mbxArg (s : State) (i : Nat) : Nat := (s.reg (regMbxArg i)).toNat

/-- Bytes of the command data. -/
def State.mbxData (s : State) (o n : Nat) : List (BitVec 8) :=
  bytesAt2 ((List.range 28).flatMap fun i => leBytes 8 (s.reg (regMbxData i)).toNat) o n

/-- MBX_STATUS as a command leaves it: BUSY clear, RESULT and REASON (Table 14.5). -/
def State.mbxStatus (s : State) (result reason : Nat) : State := s.setReg regMbxStatus (BitVec.ofNat 64 (result * 256 + reason * 65536))

/-- A write of an OPC to MBX_CMD: dropped and counted while BUSY reads 1; refused where ARG0 or ARG1 has a bit that `masks` leaves reserved;
otherwise `k` says what the command does. A refused command changes nothing but MBX_STATUS, and counts; an injector refuses one with a REASON of no
rule (R432). -/
def State.mbx (s : State) (opc : Nat) (masks : List Nat) (k : State → Mbx) : State :=
  s.regWrite regMbxCmd (BitVec.ofNat 64 opc) false fun t =>
    if t.fld regMbxStatus 0 1 = 1 then t.violation regMbxCmd 0 false
    else
      match if masks.zipIdx.any (fun (m : Nat × Nat) => decide (t.mbxArg m.2 ||| m.1 ≠ m.1)) then .refused 7 t else k t with
      | .refused reason u => (u.note detSecMbxRefused 0).mbxStatus 1 reason
      | .wait u => s.unjudged u
      | .done u =>
        let (inj, u1) := u.judge detSecMbxRefused 0 false
        if inj then
          let (v, t1) := (t.check detSecMbxRefused 0 false).2.free
          t1.mbxStatus 1 (v.toNat % 256)
        else u1.mbxStatus 0 0

/-- The confidential context that a command names, with its key slot: neither absent nor lost (R397). -/
def State.mbxCtx (s : State) : Option (Nat × CtxRun × Nat) :=
  let c := bitsOf (s.mbxArg 0) 0 12
  match s.ctx c with
  | none => none
  | some r => if r.lost then none else r.keySlot.map fun k => (c, r, k)

/-- Whether SEAL has been performed for a key slot. -/
def State.sealed (s : State) (k : Nat) : Bool := decide (s.fld (regSecKeyslot (k - 1)) 1 1 = 1)

/-! ### Owner keys (R382) -/

/-- The module serial as bytes. -/
def State.serialBytes (s : State) : List (BitVec 8) := leBytes 8 (s.reg regIdentSerial).toNat

/-- The record of burnt fuses; the spec gives its CODE and ARG no value. -/
def State.fuseRec (s : State) : State := s.logOpen 11 0xFF 0 none false

/-- Show an owner key's hash in SEC_OWNER_HASH. -/
def State.setOwnerHash (s : State) (slot : Nat) (h : List (BitVec 8)) : State :=
  (List.range 6).foldl (fun (t : State) j => t.setReg (regSecOwnerHash slot j) (BitVec.ofNat 64 (leAt h (8 * j) 8))) s

/-- OWNER_ENROLL's effect. -/
def State.enroll (s : State) : Mbx :=
  let slot := s.mbxArg 0
  let auth := s.mbxArg 1
  let key := s.mbxData 0 97
  if s.fld regSecStatus slot 1 = 1 then .refused 5 s
  else if s.fld regSecStatus 0 4 ≠ 0 ∧
      sigOk (s.ownerKey auth) (s.serialBytes ++ leBytes 1 slot ++ key) (s.mbxData 128 96) = false then .refused 4 s
  else
    let s1 := (s.setFld regSecStatus slot 1 1).setOwnerHash slot (shaBytes key)
    .done ({ s1 with trust := { s1.trust with ownerKeys := Tbl.put s1.trust.ownerKeys slot key } } : State).fuseRec

/-- OWNER_ENROLL (R382). -/
def execOwnerEnroll (s : State) : Host.Outcome State Fault Refusal := .next (s.mbx 1 [3, 3] State.enroll)

/-- The ASCII bytes of REVOKE. -/
def revokeText : List (BitVec 8) := [0x52, 0x45, 0x56, 0x4F, 0x4B, 0x45]

/-- OWNER_REVOKE's effect. -/
def State.revoke (s : State) : Mbx :=
  let slot := s.mbxArg 0
  let auth := s.mbxArg 1
  if s.ownerLive slot = false then .refused 5 s
  else if ((List.range 4).filter fun i => s.ownerLive i) = [slot] then .refused 6 s
  else if auth = slot ∨ sigOk (s.ownerKey auth) (s.serialBytes ++ revokeText ++ leBytes 1 slot) (s.mbxData 0 96) = false then .refused 4 s
  else .done ((s.setFld regSecStatus (4 + slot) 1 1).fuseRec)

/-- OWNER_REVOKE (R382). -/
def execOwnerRevoke (s : State) : Host.Outcome State Fault Refusal := .next (s.mbx 2 [3, 3] State.revoke)

/-! ### Page tables of confidential contexts (R390) -/

/-- Whether a 64 KiB page of device memory lies in an object's extents. -/
def Obj.hasPage (o : Obj) (pg : Nat) : Bool := o.extents.any fun (e : Nat × Nat) => decide (e.1 ≤ pg) && decide (pg < e.1 + e.2)

/-- The objects that a context's handles name. -/
def State.heldObjs (s : State) (r : CtxRun) : List Obj :=
  r.handles.filterMap fun (h : Nat × Handle) => h.2.obj.bind fun i => Tbl.find s.hif.objs i

/-- The 64 KiB pages that a range touches. -/
def pages64 (dpa n : Nat) : List Nat := (List.range ((dpa + n - 1) / 65536 + 1 - dpa / 65536)).map (dpa / 65536 + ·)

/-- The checks of R390 on an entry at level `k` of a table of the context: R316 for its level, and which memory a leaf may name. -/
def State.entryOk (s : State) (r : CtxRun) (slot k : Nat) (g64 : Bool) (e : BitVec 64) : Bool :=
  if field e 0 1 = 0 then true
  else if field e 1 1 = 0 then
    decide (k ≠ 4) && tableEntryOk e k && s.trust.pages.any fun (p : PtPage) => decide (p.slot = slot) && decide (p.page = field e 12 40)
  else if k < 2 then false
  else
    let log2 := if g64 then 16 else 48 - 9 * k
    let tgt := field e 4 2
    let addr := field e 12 40 * 4096
    match s.leafOk r.words.part e log2 with
    | .leaf _ _ =>
      decide (tgt ≠ 1) && !(decide (field e 3 1 = 1) && decide (tgt ≠ 0)) &&
      (decide (tgt ≠ 0) || (pages64 addr (2 ^ log2)).all fun pg =>
        (s.hif.objs.any fun (o : Nat × Obj) => decide (o.2.tag = slot) && o.2.hasPage pg) ||
        (decide (field e 2 1 = 0) && decide (field e 3 1 = 0) && (s.heldObjs r).any fun (o : Obj) => decide (o.tag = 0) && o.hasPage pg))
    | _ => false

/-- The entries of a table page. -/
def State.pageEntries (s : State) (page : Nat) : List (BitVec 64) :=
  (List.range 512).map fun i => BitVec.ofNat 64 (s.devVal (4096 * page + 8 * i) 8)

/-- What stands before an access to a whole page. -/
def State.pageReach (s : State) (page : Nat) (write : Bool) : Reach :=
  s.reachAll .noone none ((List.range 32).map fun i => ⟨0, 128, 0, 4096 * page + 128 * i, false⟩) true write

/-- Whether an entry of an installed page names a page (R390, R391). -/
def State.ptNamed (s : State) (slot page : Nat) : Bool :=
  s.trust.pages.any fun (p : PtPage) => decide (p.slot = slot) && decide (p.level < 4) &&
    (s.pageEntries p.page).any fun e => decide (field e 0 2 = 1) && decide (field e 12 40 = page)

/-- Write bytes of the context with its tag. -/
def State.tagWrite (s : State) (c dpa : Nat) (bs : List (BitVec 8)) : State :=
  (State.devWrite (bs.length / 128 + 2) s (plainReq (some c)) dpa bs).st

/-- Whether the page may hold tables at all: usable device memory, in no object, and not another context's table page. -/
def State.pageFree (s : State) (r : CtxRun) (slot page : Nat) : Bool :=
  s.dpaOk r.words.part (4096 * page) 4096 && !(s.hif.objs.any fun (o : Nat × Obj) => o.2.hasPage (page / 16)) &&
  !(s.trust.pages.any fun (p : PtPage) => decide (p.page = page) && decide (p.slot ≠ slot))

/-- PT_INSTALL's effect. -/
def State.install (s : State) : Mbx :=
  let level := bitsOf (s.mbxArg 0) 12 3
  let g64 := (s.mbxArg 0).testBit 15
  let page := s.mbxArg 1 / 4096
  match s.mbxCtx with
  | none => .refused 1 s
  | some (c, r, k) =>
    if s.sealed k ∧ s.ptNamed k page then .refused 3 s
    else if 4 < level ∨ (g64 ∧ level ≠ 4) ∨ s.mbxArg 1 % 4096 ≠ 0 ∨ s.pageFree r k page = false then .refused 2 s
    else
      match s.pageReach page true with
      | .asleep d => .wait (s.noteDom .noone d)
      | .busy => .wait s
      | .failed => .refused 2 s
      | .ok =>
        if (s.pageEntries page).all (fun e => s.entryOk r k level g64 e) = false then .refused 2 s
        else
          let s1 := s.tagWrite c (4096 * page) (s.devBytes (4096 * page) 4096)
          .done { s1 with trust := { s1.trust with
            pages := ⟨page, k, level, g64⟩ :: s1.trust.pages.filter fun (p : PtPage) => p.page ≠ page } }

/-- PT_INSTALL (R390). -/
def execPtInstall (s : State) : Host.Outcome State Fault Refusal := .next (s.mbx 0x10 [ones 0 16] State.install)

/-- PT_WRITE's effect. Where the old entry was valid, the context's cached translations go, and the accesses that they served are performed, before
the command completes (R317). -/
def State.ptWriteEntry (s : State) : Mbx :=
  let dpa := s.mbxArg 1
  let e := BitVec.ofNat 64 (s.mbxArg 2)
  match s.mbxCtx with
  | none => .refused 1 s
  | some (c, r, k) =>
    match s.trust.pages.find? fun (p : PtPage) => p.page = dpa / 4096 ∧ p.slot = k with
    | none => .refused 2 s
    | some p =>
      if dpa % 8 ≠ 0 then .refused 2 s
      else
        match s.pageReach p.page true with
        | .asleep d => .wait (s.noteDom .noone d)
        | .busy => .wait s
        | .failed => .refused 2 s
        | .ok =>
          let old := BitVec.ofNat 64 (s.devVal dpa 8)
          if s.sealed k ∧ field old 0 1 = 1 then .refused 3 s
          else if s.entryOk r k p.level p.g64 e = false then .refused 2 s
          else if field old 0 1 = 1 ∧ s.xltBusy r.words.asid then .wait s
          else
            let s1 := s.tagWrite c dpa (leBytes 8 e.toNat)
            .done (if field old 0 1 = 1 then s1.dropXlat r.words.asid true 0 0 else s1)

/-- PT_WRITE (R390). -/
def execPtWrite (s : State) : Host.Outcome State Fault Refusal := .next (s.mbx 0x11 [ones 0 12] State.ptWriteEntry)

/-- PT_RELEASE's effect. -/
def State.ptReleasePage (s : State) : Mbx :=
  let page := s.mbxArg 1 / 4096
  match s.mbxCtx with
  | none => .refused 1 s
  | some (_, _, k) =>
    if s.sealed k then .refused 3 s
    else if s.mbxArg 1 % 4096 ≠ 0 ∨ s.trust.pages.any (fun (p : PtPage) => decide (p.page = page) && decide (p.slot = k)) = false ∨ s.ptNamed k page then
      .refused 2 s
    else
      match s.pageReach page true with
      | .asleep d => .wait (s.noteDom .noone d)
      | .busy => .wait s
      | .failed => .refused 2 s
      | .ok =>
        let s1 := (List.range 32).foldl (fun (t : State) i => t.zeroLine 0 (32 * page + i)) s
        .done { s1 with trust := { s1.trust with pages := s1.trust.pages.filter fun (p : PtPage) => p.page ≠ page } }

/-- PT_RELEASE (R390). -/
def execPtRelease (s : State) : Host.Outcome State Fault Refusal := .next (s.mbx 0x12 [ones 0 12] State.ptReleasePage)

/-! ### Measurement (R391) -/

/-- A 48-byte measurement as bytes, most significant first. -/
def measBytes (m : BitVec 384) : List (BitVec 8) := (List.range 48).map fun i => BitVec.ofNat 8 (m.toNat / 2 ^ (8 * (47 - i)))

/-- Extend the measurement of a key slot with a record. -/
def State.extend (s : State) (k : Nat) (r : List (BitVec 8)) : State :=
  { s with trust := { s.trust with
    slots := Tbl.modify s.trust.slots k fun (v : KeySlot) => { v with m := Config.sha384 (measBytes v.m ++ r) } } }

/-- The record of MEASURE_RANGE. -/
def rangeRecord (va n : Nat) (bs : List (BitVec 8)) : List (BitVec 8) := 0x13 :: leBytes 8 va ++ leBytes 8 n ++ shaBytes bs

/-- MEASURE_RANGE's effect. A fault while reading loses the context; the spec does not say how the command then ends: a free choice. -/
def State.measure (s : State) : Mbx :=
  let va := s.mbxArg 1
  let n := s.mbxArg 2
  match s.mbxCtx with
  | none => .refused 1 s
  | some (c, _, k) =>
    if s.sealed k then .refused 3 s
    else if va % 4096 ≠ 0 ∨ n % 4096 ≠ 0 ∨ 2 ^ 32 < n then .refused 2 s
    else
      match s.vRead (.access va n) c (plainReq (some c)) va n with
      | .ok bs s1 => .done (s1.extend k (rangeRecord va n bs))
      | .stall s1 => .wait s1
      | .lose code at_ s1 =>
        let (ok, s2) := (s1.lose c code (BitVec.ofNat 64 at_) (lostAt 4 0) none).choose
        if ok then .done s2 else .refused 1 s2

/-- MEASURE_RANGE (R391). -/
def execMeasureRange (s : State) : Host.Outcome State Fault Refusal := .next (s.mbx 0x13 [ones 0 12] State.measure)

/-- SEAL's effect. -/
def State.sealNow (s : State) : Mbx :=
  match s.mbxCtx with
  | none => .refused 1 s
  | some (_, _, k) => if s.sealed k then .refused 3 s else .done ((s.extend k [0x14]).setFld (regSecKeyslot (k - 1)) 1 1 1)

/-- SEAL (R391). -/
def execSealCtx (s : State) : Host.Outcome State Fault Refusal := .next (s.mbx 0x14 [ones 0 12] State.sealNow)

/-! ## Attestation (R384, R385) -/

/-- Bytes as numbers. -/
def nums (b : List (BitVec 8)) : List Nat := b.map (·.toNat)

/-- An SPDM answer; nothing answers while the Cairn does not run. -/
def State.spdmAnswer (s : State) (sess : Nat) (name : String) (data : List Nat) : State := s.emit (.spdm sess name data)

/-- An SPDM error; nothing else changes. -/
def State.spdmError (s : State) (sess : Nat) : State := s.spdmAnswer sess "ERROR" []

/-- An SPDM request: answered where `ok`, with `k`, and otherwise with an error; without the Cairn there is no answer. -/
def State.spdm (s : State) (sess : Nat) (ok : Bool) (k : State) : State :=
  if s.pwr.phase ≠ .up then s else if ok then k else s.spdmError sess

/-- What is said on the connection from its GET_VERSION on, which AK's signatures cover. -/
def State.saidBy (s : State) (req : List (BitVec 8)) (data : List Nat) : State :=
  { s with trust := { s.trust with talk := s.trust.talk ++ nums req ++ data } }

/-- An answer that becomes part of what is said. -/
def State.spdmSay (s : State) (sess : Nat) (req : List (BitVec 8)) (name : String) (data : List Nat) : State :=
  (s.saidBy req data).spdmAnswer sess name data

/-- An answer that AK signs (R384), over all that is said, each number as eight bytes (log 14). -/
def State.spdmSigned (s : State) (sess : Nat) (req : List (BitVec 8)) (name : String) (data : List Nat) : State :=
  let s1 := s.saidBy req data
  s1.spdmAnswer sess name (data ++ nums (s1.akSign (s1.trust.talk.flatMap (leBytes 8))))

/-- A session. -/
def State.session (s : State) (sess : Nat) : Option Session := Tbl.find s.trust.sessions sess

/-- Whether a session is open, its FINISH done. -/
def State.inSession (s : State) (sess : Nat) : Bool := (s.session sess).any fun x => x.done

/-- Whether a request may stand outside a session or in an open one, algorithms agreed. -/
def State.attests (s : State) (sess : Nat) : Bool :=
  decide (s.trust.spdm = .negotiated) && (decide (sess = 0) || s.inSession sess)

/-- The certificate slot that a byte of the request names is 0, the only one supported. -/
def slotZero (req : List (BitVec 8)) (i : Nat) : Bool := decide ((req.getD i 0).toNat % 16 = 0)

/-- Set how far the connection has come. -/
def State.setSpdm (s : State) (v : Spdm) : State := { s with trust := { s.trust with spdm := v } }

/-- Set the sessions. -/
def State.setSessions (s : State) (v : Tbl Session) : State := { s with trust := { s.trust with sessions := v } }

/-- Set one session. -/
def State.putSession (s : State) (sess : Nat) (v : Session) : State := s.setSessions (Tbl.put s.trust.sessions sess v)

/-- GET_VERSION (R384): the connection starts again, and its sessions end. -/
def execGetVersion (sess : Nat) (req : List (BitVec 8)) (s : State) : Host.Outcome State Fault Refusal :=
  .next (s.spdm sess (decide (sess = 0))
    (({ s with trust := { s.trust with spdm := .version, sessions := [], talk := [] } } : State).spdmSay sess req "VERSION" [0x12]))

/-- The capabilities that R384 gives the module, as the flags of DSP0274 (PRESUMED, log 34): certificates, challenge, measurements with signature,
encryption, authentication, key exchange, heartbeat and key update. -/
def spdmFlags : Nat := 2 ^ 1 + 2 ^ 2 + 2 ^ 4 + 2 ^ 6 + 2 ^ 7 + 2 ^ 9 + 2 ^ 13 + 2 ^ 14

/-- GET_CAPABILITIES (R384). -/
def execGetCapabilities (sess : Nat) (req : List (BitVec 8)) (s : State) : Host.Outcome State Fault Refusal :=
  .next (s.spdm sess (decide (sess = 0) && decide (s.trust.spdm = .version))
    ((s.setSpdm .capabilities).spdmSay sess req "CAPABILITIES" [spdmFlags]))

/-- The values of an algorithm table of a NEGOTIATE_ALGORITHMS, by its type: tables of four bytes stand from byte 32 on, as many as byte 2 says
(DSP0274; PRESUMED, log 34). -/
def algTable (req : List (BitVec 8)) (typ : Nat) : Nat :=
  match (List.range (req.getD 2 0).toNat).find? fun i => decide (leAt req (32 + 4 * i) 1 = typ) with
  | some i => leAt req (34 + 4 * i) 2
  | none => 0

/-- Whether a NEGOTIATE_ALGORITHMS offers all four of R384's algorithms: ECDSA P-384, SHA-384, DHE secp384r1 and AES-256-GCM, by their bits of
DSP0274 (PRESUMED, log 34). -/
def algOffered (req : List (BitVec 8)) : Bool :=
  bitOf (leAt req 8 4) 7 && bitOf (leAt req 12 4) 1 && bitOf (algTable req 2) 4 && bitOf (algTable req 3) 1

/-- NEGOTIATE_ALGORITHMS (R384): the module's own algorithms, which the requester must offer. -/
def execNegotiateAlgorithms (sess : Nat) (req : List (BitVec 8)) (s : State) : Host.Outcome State Fault Refusal :=
  .next (s.spdm sess (decide (sess = 0) && decide (s.trust.spdm = .capabilities) && algOffered req)
    ((s.setSpdm .negotiated).spdmSay sess req "ALGORITHMS" [2 ^ 7, 2 ^ 1, 2 ^ 4, 2 ^ 1]))

/-- GET_DIGESTS (R384): slot 0 alone, and its chain's digest. -/
def execGetDigests (sess : Nat) (req : List (BitVec 8)) (s : State) : Host.Outcome State Fault Refusal :=
  .next (s.spdm sess (s.attests sess) (s.spdmSay sess req "DIGESTS" (1 :: nums (shaBytes s.certChain))))

/-- GET_CERTIFICATE (R384): slot 0 alone; the part of its chain from the offset of bytes 4 and 5 on, of the length of bytes 6 and 7 at most, with its
own length and the length that is left. -/
def execGetCertificate (sess : Nat) (req : List (BitVec 8)) (s : State) : Host.Outcome State Fault Refusal :=
  let c := s.certChain
  let part := (c.drop (leAt req 4 2)).take (leAt req 6 2)
  .next (s.spdm sess (s.attests sess && slotZero req 2)
    (s.spdmSay sess req "CERTIFICATE" (part.length :: (c.length - leAt req 4 2 - part.length) :: nums part)))

/-- A nonce of the Cairn's random source. -/
def State.nonce (s : State) : List Nat × State :=
  let (v, s1) := State.freeBits 4 s
  (nums (leBytes 32 v), s1)

/-- CHALLENGE (R384): slot 0 alone, outside a session; the chain's digest and a nonce, signed. -/
def execSpdmChallenge (sess : Nat) (req : List (BitVec 8)) (s : State) : Host.Outcome State Fault Refusal :=
  let (n, s1) := s.nonce
  .next (s.spdm sess (decide (sess = 0) && s.attests sess && slotZero req 2)
    (s1.spdmSigned sess req "CHALLENGE_AUTH" (nums (shaBytes s.certChain) ++ n)))

/-- The fuse state that block 6 digests: Fjarber and owner key hashes, and revocations. -/
def State.fuseState (s : State) : List (BitVec 8) :=
  ((List.range 4).flatMap fun i => s.hash48 (regSecFjHash i)) ++ ((List.range 4).flatMap fun i => s.hash48 (regSecOwnerHash i)) ++
  [BitVec.ofNat 8 (s.fld regSecStatus 4 8)]

/-- A measurement block of Table 14.3, where it exists. -/
def State.measBlock (s : State) (i : Nat) : Option (List Nat) :=
  match i with
  | 1 => some [Config.romVersion.toNat]
  | 2 => some (nums (measBytes (Config.fwDigest s.trust.fw)))
  | 3 => some [s.fld regSecFwSvn 0 16, s.fld regSecFwSvn 16 16]
  | 4 => some (nums (s.hash48 regIdentLoadDigest))
  | 5 =>
    match s.load.img with
    | some m => some ((b2n m.debug + 2 * b2n m.inject) :: nums (if m.token = [] then List.replicate 48 0 else shaBytes m.token))
    | none => some (0 :: List.replicate 48 0)
  | 6 => some (nums (shaBytes s.fuseState))
  | _ =>
    let k := i - 31
    if i < 0x20 ∨ 0xDF < i ∨ s.fld (regSecKeyslot (k - 1)) 0 1 = 0 then none
    else (Tbl.find s.trust.slots k).map fun (v : KeySlot) =>
      s.fld (regSecKeyslot (k - 1)) 4 12 :: s.fld (regSecKeyslot (k - 1)) 1 1 :: nums (measBytes v.m)

/-- The measurement blocks that exist, each after its index. -/
def State.measBlocks (s : State) : List (List Nat) :=
  (List.range 0xE0).filterMap fun i => (s.measBlock i).map fun b => i :: b

/-- What GET_MEASUREMENTS reports: index 0 asks for the number of blocks, 0xFF for all of them, and another for its own, which is empty where it does
not exist. -/
def State.measData (s : State) (index : Nat) : List Nat :=
  if index = 0 then [s.measBlocks.length]
  else if index = 0xFF then s.measBlocks.flatten
  else index :: (s.measBlock index).getD []

/-- GET_MEASUREMENTS (R384, R385): signed where the request asks for it, with its nonce among what is said. -/
def execGetMeasurements (sess : Nat) (m : MeasReq) (s : State) : Host.Outcome State Fault Refusal :=
  let req := leBytes 1 m.index ++ leBytes 1 (b2n m.sign) ++ leBytes 32 m.nonce.toNat
  let (n, s1) := s.nonce
  .next (s.spdm sess (s.attests sess)
    (if m.sign then s1.spdmSigned sess req "MEASUREMENTS" (s.measData m.index ++ n)
     else s.spdmSay sess req "MEASUREMENTS" (s.measData m.index)))

/-- The lowest free session of four. -/
def State.freeSession (s : State) : Option Nat := freeKey s.trust.sessions 1 5

/-- KEY_EXCHANGE (R384): up to four sessions at once; the module's public key for the exchange is a fresh one, and AK signs the answer. -/
def execKeyExchange (sess : Nat) (req : List (BitVec 8)) (s : State) : Host.Outcome State Fault Refusal :=
  .next (
    match s.freeSession with
    | none => s.spdm sess false s
    | some n =>
      let (k, s1) := State.freeBits 6 s
      s.spdm sess (decide (sess = 0) && s.attests sess && slotZero req 3)
        ((s1.putSession n ⟨false, 0, 0⟩).spdmSigned n req "KEY_EXCHANGE_RSP" (nums (Config.p384Pub (BitVec.ofNat 384 k)))))

/-- FINISH (R384). -/
def execSpdmFinish (sess : Nat) (_req : List (BitVec 8)) (s : State) : Host.Outcome State Fault Refusal :=
  .next (s.spdm sess ((s.session sess).any fun x => !x.done)
    ((s.putSession sess ⟨true, 0, 0⟩).spdmAnswer sess "FINISH_RSP" []))

/-- END_SESSION (R384). -/
def execEndSession (sess : Nat) (_req : List (BitVec 8)) (s : State) : Host.Outcome State Fault Refusal :=
  .next (s.spdm sess (s.inSession sess) ((s.setSessions (Tbl.del s.trust.sessions sess)).spdmAnswer sess "END_SESSION_ACK" []))

/-- HEARTBEAT (R384). -/
def execSpdmHeartbeat (sess : Nat) (_req : List (BitVec 8)) (s : State) : Host.Outcome State Fault Refusal :=
  .next (s.spdm sess (s.inSession sess) (s.spdmAnswer sess "HEARTBEAT_ACK" []))

/-- A session after a KEY_UPDATE of an operation (DSP0274; PRESUMED, log 34): 1 changes the requester's keys, 2 the module's too, and 3 verifies the
new ones. -/
def Session.update (x : Session) (op : Nat) : Session := ⟨x.done, x.req + b2n (decide (op < 3)), x.rsp + b2n (decide (op = 2))⟩

/-- KEY_UPDATE (R384): its operation is byte 2 of the request. -/
def execKeyUpdate (sess : Nat) (req : List (BitVec 8)) (s : State) : Host.Outcome State Fault Refusal :=
  let op := leAt req 2 1
  .next (s.spdm sess (s.inSession sess && decide (1 ≤ op) && decide (op ≤ 3))
    ((s.setSessions (Tbl.modify s.trust.sessions sess fun x => x.update op)).spdmAnswer sess "KEY_UPDATE_ACK" [op]))

/-! ## The tenant's secret (R392) -/

/-- The key slot of a context that may take a secret: sealed, with the measurement expected. -/
def State.secretSlot (s : State) (ctx : Nat) (m : BitVec 384) : Option Nat :=
  match s.ctx ctx with
  | none => none
  | some r =>
    if r.lost then none
    else r.keySlot.bind fun k =>
      (Tbl.find s.trust.slots k).bind fun (v : KeySlot) => if s.sealed k ∧ v.m = m then some k else none

/-- Set the migration key of a key slot. -/
def State.setMigration (s : State) (k : Nat) (key : BitVec 512) : State :=
  { s with trust := { s.trust with
    slots := Tbl.modify s.trust.slots k fun (v : KeySlot) => { v with migration := some key } } }.setFld (regSecKeyslot (k - 1)) 2 1 1

/-- SET_SECRET (R392). Data that the translation does not reach are another case, answered with an error. -/
def execSetSecret (sess ctx : Nat) (m : BitVec 384) (key : BitVec 512) (va : BitVec 64) (data : List (BitVec 8)) (s : State) :
    Host.Outcome State Fault Refusal :=
  .next (
    match s.secretSlot ctx m with
    | none => s.spdm sess false s
    | some k =>
      if s.pwr.phase ≠ .up ∨ s.inSession sess = false ∨ 1024 < data.length then s.spdm sess false s
      else
        match s.vWrite (.access va.toNat data.length) ctx (plainReq (some ctx)) va.toNat data with
        | .ok _ s1 => (s1.setMigration k key).spdmAnswer sess "VENDOR_DEFINED_RESPONSE" []
        | .stall s1 => s1
        | .lose _ _ _ => s.spdmError sess)

/-! ## PCIe IDE (R395) -/

/-- Set the IDE stream; SEC_STATUS.IDE_SECURE shows whether it is secure, and a stream without keys holds none. -/
def State.setIde (s : State) (v : Ide) : State :=
  { s with trust := { s.trust with ide := v, ideKeys := if v = Ide.noKeys then [] else s.trust.ideKeys } }.setFld regSecStatus 14 1
    (b2n (decide (v = Ide.secure)))

/-- KEY_PROG (R395): the stream takes the key; a secure one goes on until K_SET_GO. -/
def execKeyProg (k : IdeKey) (s : State) : Host.Outcome State Fault Refusal :=
  let s1 := if s.trust.ide = .secure then s else s.setIde .keyed
  .next (s.spdm k.sess (s.inSession k.sess)
    (({ s1 with trust := { s1.trust with ideKeys := Tbl.put s1.trust.ideKeys k.num k.key } } : State).spdmAnswer k.sess "KP_ACK" []))

/-- K_SET_GO (R395). -/
def execKSetGo (sess : Nat) (s : State) : Host.Outcome State Fault Refusal :=
  .next (s.spdm sess (s.inSession sess && (decide (s.trust.ide = .keyed) || decide (s.trust.ide = .secure)))
    ((s.setIde .secure).spdmAnswer sess "K_GOSTOP_ACK" []))

/-- K_SET_STOP (R395). -/
def execKSetStop (sess : Nat) (s : State) : Host.Outcome State Fault Refusal :=
  .next (s.spdm sess (s.inSession sess) ((s.setIde .noKeys).spdmAnswer sess "K_GOSTOP_ACK" []))

end Sys2Proof.Machine
end

