-- ==== Sys2Proof/Machine/Power.lean ====
section
/-!
DEFINITION. The power controller and the power domains (15 R402 to R418, R422): operating points, power evaluations, the loss of the
reference, timers, votes, entries, wakes and partition reset.
-/
namespace Sys2Proof.Machine

/-! ## Operating points (R403 to R406) -/

/-- The running point. -/
def State.op (s : State) : Nat := s.fld regPwrStatus 0 2

/-- Whether a point is allowed (R403). -/
def State.opAllowed (s : State) (i : Nat) : Bool :=
  decide (i < 4) && bitOf (s.fld regPwrStatus 5 4) i && decide (s.fld regPwrLimit 16 2 ≤ i)

/-- The next slower allowed point. -/
def State.slower (s : State) : Option Nat := (List.range 4).find? fun i => decide (s.op < i) && s.opAllowed i

/-- The next faster allowed point. -/
def State.faster (s : State) : Option Nat := (List.range 4).reverse.find? fun i => decide (i < s.op) && s.opAllowed i

/-- IDENT_STATUS.THROTTLE: the point is slower than the fastest allowed one (R405). -/
def State.setThrottle (s : State) : State :=
  s.setFld regIdentStatus 2 1 (b2n (decide (fastestOp (s.fld regPwrStatus 5 4) (s.fld regPwrLimit 16 2) < s.op)))

/-- The tile divider changes to a point's (R401, R404). -/
def State.runAt (s : State) (i : Nat) : State := ((s.setFld regPwrStatus 0 2 i).setFld regClkStatus 8 8 (opDiv i)).setThrottle

/-- A step begins (R404): a step down changes the divider at once, a step up when it ends. PWR_STEPS counts it. -/
def State.stepTo (s : State) (up : Bool) (i : Nat) : State :=
  let s1 := ({ s with pwr := { s.pwr with step := some ⟨up, i⟩ } }.setFld regPwrStatus 2 2 i).setFld regPwrStatus 4 1 1
  if up then s1.bumpFld regPwrSteps 32 32 1 else (s1.bumpFld regPwrSteps 0 32 1).runAt i

/-- A step down that must be taken while no step runs: to OP3 while the reference is lost (R402), or from a point that OP_CAP disallows
(R403). -/
def State.mustStep (s : State) : State :=
  if s.pwr.step.isNone ∧ ((s.pwr.refHold ∧ s.op < 3) ∨ s.op < s.fld regPwrLimit 16 2) then
    match s.slower with
    | some i => s.stepTo false i
    | none => s
  else s

/-- OP_STEP_END (R404). -/
def execOpStepEnd (s : State) : Host.Outcome State Fault Refusal :=
  .next (
    match s.pwr.step with
    | none => s
    | some k =>
      let s1 := { s with pwr := { s.pwr with step := none, since := 0 } }.setFld regPwrStatus 4 1 0
      (if k.up then s1.runAt k.dest else s1).mustStep)

/-- The fast path (R406): OP3 at once, held for 1 ms. -/
def State.fastJump (s : State) : State :=
  let s1 := s.setFld regPwrStatus 9 1 1
  if s1.op = 3 ∧ s1.pwr.step.isNone then s1 else s1.stepTo false 3

/-- Whether the power controller runs: the Cairn is up with an image. -/
def State.powered (s : State) : Bool := decide (s.pwr.phase = .up) && s.loaded

/-- FAST_PATH (R406). -/
def execFastPath (s : State) : Host.Outcome State Fault Refusal :=
  .next (if s.powered then (s.check detPwrFast 0 true).2.fastJump else s)

/-- FAST_PATH_HOLD_END (R406). -/
def execFastPathHoldEnd (s : State) : Host.Outcome State Fault Refusal :=
  .next (if s.powered then s.setFld regPwrStatus 9 1 0 else s)

/-! ## The reference (R402) -/

/-- The module reference is lost (R402); `inj` says that an injector made it so. -/
def State.refLost (s : State) (inj : Bool) : State :=
  let s1 := (((s.setFld regClkStatus 1 1 0).setFld regClkStatus 2 1 1).setFld regIdentStatus 1 1 1).bumpFld regClkRefLoss 0 32 1
  ({ s1 with pwr := { s1.pwr with refHold := true } }.logOpen 8 detClkRefLoss 0 none inj).mustStep

/-- Whether the Cairn runs, an entry into OFF among it. -/
def State.cairnRuns (s : State) : Bool := decide (s.pwr.phase = .up) || decide (s.pwr.phase = .offEntry)

/-- REF_LOSS (R402): a loss while the reference is lost already is none. -/
def execRefLoss (s : State) : Host.Outcome State Fault Refusal :=
  .next (
    let s1 := { s with pwr := { s.pwr with mref := false } }
    if s.cairnRuns ∧ s.fld regClkStatus 1 1 = 1 then (s1.note detClkRefLoss 0).refLost false else s1)

/-- The module reference is within its limits again (R402): REF_OK reads 1 and the holdover ends (log 35); OP3 is kept. -/
def State.refBack (s : State) : State :=
  let s1 := { s with pwr := { s.pwr with mref := true } }
  if s.cairnRuns then (s1.setFld regClkStatus 1 1 1).setFld regClkStatus 2 1 0 else s1

/-! ## Power evaluation (R405) -/

/-- The step up of R405. Evaluations come every 10 µs, so 1,000 of them after a step's end are 10 ms only where it ended at an evaluation: a
free choice. -/
def State.evalUp (s : State) (avg10 tj limit hot : Nat) : State :=
  let (edge, s1) := if s.pwr.since = 1000 then s.choose else (decide (1000 < s.pwr.since), s)
  if edge && decide (10 * avg10 < 8 * limit) && decide (tj + 5 < hot) then
    match s1.faster with
    | some i => s1.stepTo true i
    | none => s1
  else s1

/-- The judgement of a power evaluation: a step down for power or for temperature, which an injector can make happen, or a step up. Where both
hold the spec does not say which counter counts: a free choice. -/
def State.evalStep (s : State) (avg1 avg10 tj : Nat) : State :=
  let limit := s.fld regPwrLimit 0 13
  let hot := s.fld regPwrLimit 24 8
  if s.pwr.step.isSome ∨ s.fld regPwrStatus 9 1 = 1 then s
  else
    match s.slower, decide (s.pwr.refHold) with
    | some i, false =>
      let (w, h, s2) := s.judge2 detPwrEnvelope detPwrTherm 0 (decide (limit < avg1)) (decide (hot ≤ tj))
      if w || h then
        let (c, s3) := if w && h then s2.choose else (w, s2)
        (s3.det (if c then detPwrEnvelope else detPwrTherm)).stepTo false i
      else s2.evalUp avg10 tj limit hot
    | none, false => s.evalUp avg10 tj limit hot
    | _, true => s

/-- What is measured at an evaluation (R424): the boundary power, and the input's power, current and voltage, which the boundary power does not
give: free values. -/
def State.meter (s : State) (avg1 : Nat) : State :=
  let (v, s1) := s.free
  s1.setReg regPwrMeter (BitVec.ofNat 64 (min avg1 0xFFFF + v.toNat % 2 ^ 40 * 2 ^ 16))

/-- POWER_EVALUATION (R405): PWR_METER and PWR_STATUS.THERM show what was measured; an injected fast path or reference loss is judged here too
(R432). -/
def execPowerEvaluation (avg1 avg10 tj : Nat) (s : State) : Host.Outcome State Fault Refusal :=
  .next (
    if s.powered then
      let since := if s.pwr.step.isSome then s.pwr.since else min 1001 (s.pwr.since + 1)
      let s1 := ({ s with pwr := { s.pwr with since := since } }.meter avg1).setFld regPwrStatus 10 1 (b2n (decide (s.fld regPwrLimit 24 8 ≤ tj)))
      let (f, s2) := s1.check detPwrFast 0 false
      let s3 := if f then s2.fastJump else s2
      let (l, s4) := s3.check detClkRefLoss 0 false
      (if l then s4.refLost true else s4).evalStep avg1 avg10 tj
    else s)

/-- PWR_LIMIT_WRITE (R403, Table 15.8): a value outside the ranges drops the write. -/
def execPwrLimitWrite (v : BitVec 64) (s : State) : Host.Outcome State Fault Refusal :=
  .next (s.regWrite regPwrLimit v false fun t =>
    let w := field v 0 13
    let c := field v 24 8
    if w < 1000 ∨ 6000 < w ∨ c < 70 ∨ 105 < c then t.violation regPwrLimit 0 false
    else (t.regPlain regPwrLimit v).setThrottle.mustStep)

/-! ## Votes (R413) -/

/-- Whether a partition votes: one of its contexts has a command submitted and not completed, an open collective, or the checkpoint that
runs. -/
def State.partBusy (s : State) (p : Nat) : Bool :=
  s.hif.ctxs.any fun (e : Nat × CtxRun) => decide (e.2.words.part = p) &&
    (e.2.queues.any (fun (q : Nat × Queue) => q.2.cmds ≠ []) ||
     s.eng.colls.any (fun (c : Nat × Coll) => c.2.ctx = e.1) ||
     s.eng.ckpt.any fun (k : Ckpt) => k.ctx = e.1)

/-- VOTE of a domain in the image in effect (Table 10.9). -/
def State.voteWord (s : State) (d : Nat) : Nat :=
  match s.load.img with
  | some i => (Tbl.getD i.votes d 0).toNat
  | none => 0

/-- PWR_DOM.VOTES: the partitions now voting for a domain. -/
def State.domVotes (s : State) (d : Nat) : Nat :=
  ((List.range 16).map fun p => if (s.voteWord d).testBit p && s.partBusy p then 2 ^ p else 0).sum

/-- PWR_DOM.HOST: the host vote counts and is held. -/
def State.hostVotes (s : State) (d : Nat) : Bool :=
  (s.voteWord d).testBit 16 && decide (s.fld (regPwrHostVote (d / 64)) (d % 64) 1 = 1)

/-- Whether any vote holds a domain. -/
def State.voted (s : State) (d : Nat) : Bool := decide (s.domVotes d ≠ 0) || s.hostVotes d

/-- Whether a domain's VOTE has PIN set. -/
def State.pinned (s : State) (d : Nat) : Bool := (s.voteWord d).testBit 17

/-! ## Idle domains (Table 15.3) -/

/-- The channels of a cistern ring or of a stack. -/
def domChans (d : Nat) : List Nat :=
  if d < 264 then (List.range 64).map (64 * (d - 256) + ·) else (List.range 32).map (32 * (d - 264) + ·)

/-- Whether an I/O die carries no frame and no TLP: no frame waits for its ports or in their receive buffers or is unacknowledged, no Ethernet frame
waits to leave, no image data is unacknowledged, and, on die 0, no host request waits. -/
def State.dieIdle (s : State) (i : Nat) : Bool :=
  (s.ridge.held.all fun h => h.port.all (fun p => decide (p / 16 ≠ i)) && (s.exitDies h.own h.f).all fun d => decide (d ≠ 280 + i)) &&
  ((List.range 16).all fun k => decide ((s.port (16 * i + k)).replay = [])) &&
  ([2 * i, 2 * i + 1].all fun p =>
    decide (s.fld (regEthTxrHead p) 0 32 = s.fld (regEthTxrTail p) 0 32) || decide (s.fld (regEthStatus p) 0 1 = 0)) &&
  (s.eng.qps.all fun (q : Nat × Qp) => decide (q.2.unacked = []) || decide (s.fld (regCkpQpCtrl q.1) 1 2 / 2 ≠ i)) &&
  (decide (i ≠ 0) || s.mem.cis.all fun (c : Nat × Cistern) => c.2.held.all fun h => match h.who with | .host _ => false | _ => true)

/-- Whether a page-state entry of a cistern still has to be copied (R368). -/
def Cistern.copying (c : Cistern) : Bool := c.pages.any fun (e : Nat × PageEntry) => decide (e.2.state = 1) || decide (e.2.state = 2)

/-- Whether a domain is idle: what the state shows of Table 15.3. -/
def State.domIdle (s : State) (d : Nat) : Bool :=
  if d < 256 then
    ((List.range 16).all fun k =>
      let t := s.tile (tileOfSpur d k)
      decide (t.blocks = []) && decide (t.groups = []) && decide (t.storeQ = []) && decide (t.scopys = [])) &&
    !s.engineBusy d && !(s.eng.colls.any fun (c : Nat × Coll) => c.2.run.isSome && decide (s.collUnit c.2.ctx = d))
  else if d < 264 then
    (domChans d).all fun n =>
      let c := s.cistern n
      decide (c.waits = []) && decide (c.held = []) && decide (c.reqs = []) && !c.copying
  else if d < 280 then (domChans d).all fun n => decide ((s.cistern n).reqs = [])
  else s.dieIdle (d - 280)

/-! ## Entries (R409, R410, R412, R417) -/

/-- Whether every page-state entry of a cistern ring is NONE (R410). -/
def State.ringFree (s : State) (d : Nat) : Bool :=
  (domChans d).all fun n => (s.cistern n).pages.all fun (e : Nat × PageEntry) => decide (e.2.state = 0)

/-- Whether a block is resident on a spur (R66). -/
def State.spurTaken (s : State) (d : Nat) : Bool := (List.range 16).any fun k => decide ((s.tile (tileOfSpur d k)).blocks ≠ [])

/-- Whether a domain may enter DEEP (R410): a spur without a resident block, a cistern ring with every page-state entry NONE. -/
def State.mayDeep (s : State) (d : Nat) : Bool := if d < 256 then !s.spurTaken d else if d < 264 then s.ringFree d else true

/-- A domain at RUN, or in a state less deep, begins its entry, where it may (R410). -/
def State.enter (s : State) (d target : Nat) : State :=
  if target ≤ s.domState d ∨ (target = 3 ∧ s.mayDeep d = false) then s
  else (s.putDom d ⟨target, false, s.domState d, 0, []⟩).setDom d 4

/-- The class of a domain (Table 15.8). -/
def domClass (d : Nat) : Nat := if d < 256 then 0 else if d < 264 then 1 else if d < 280 then 2 else 3

/-- IDLE_TIMER_EXPIRY (R412). -/
def execIdleTimerExpiry (d : Nat) (s : State) : Host.Outcome State Fault Refusal :=
  .next (
    if s.powered ∧ d < 282 ∧ s.domState d = 0 ∧ s.domIdle d ∧ s.fld (regPwrTimer (domClass d)) 0 32 ≠ 0 then s.enter d 1 else s)

/-- SLEEP_TIMER_EXPIRY (R412). -/
def execSleepTimerExpiry (d : Nat) (s : State) : Host.Outcome State Fault Refusal :=
  .next (
    if s.powered ∧ d < 282 ∧ s.domState d < 2 ∧ s.domIdle d ∧ s.fld (regPwrTimer (domClass d)) 32 32 ≠ 0 then s.enter d 2 else s)

/-- LOW_STATE_ENTRY (R413): a pinned domain never goes below SLEEP. -/
def execLowStateEntry (d : Nat) (s : State) : Host.Outcome State Fault Refusal :=
  .next (
    if s.powered ∧ d < 282 ∧ s.domState d < 3 ∧ s.domIdle d ∧ s.voted d = false then
      let low := s.fld (regPwrDom d) 3 2
      s.enter d (if s.pinned d then min low 2 else low)
    else s)

/-- What a spur loses at the entry of SLEEP: its L1 lines. At DEEP also scratch and well (R410). -/
def State.spurDown (s : State) (d : Nat) (deep : Bool) : State :=
  (List.range 16).foldl (fun (t : State) k =>
    let n := tileOfSpur d k
    let tl := t.tile n
    if deep then { t with tiles := Tbl.del t.tiles n } else t.setTile n { tl with l1 := [] }) s

/-- A cistern of a ring enters DEEP: dirty lines are written back or dropped, and the directory and the lines go (R410). -/
def State.cisDeep (s : State) (n : Nat) (drop : Bool) : State :=
  let c := s.cistern n
  let s1 := if drop then s else c.lines.foldl (fun (t : State) (l : CLine) => if l.dirty then t.writeBack l else t) s
  let s2 := c.dir.foldl (fun (t : State) (e : DirEntry) => t.l1Drop e.reach e.line) s1
  s2.setCistern n { s2.cistern n with lines := [], dead := [], dir := [] }

/-- A cistern ring enters DEEP; DISCARD mode counts an entry that drops a dirty line. -/
def State.ringDown (s : State) (d : Nat) : State :=
  let drop := decide (s.fld (regPwrDom d) 5 1 = 1)
  let dirty := drop && (domChans d).any fun n => (s.cistern n).lines.any fun (l : CLine) => l.dirty
  let s1 := (s.check detPwrDiscard d dirty).2
  (domChans d).foldl (fun (t : State) n => t.cisDeep n drop) s1

/-- The links of an I/O die go down: Ridge ports train again after the exit, Ethernet links are down, and with die 0 the PCIe link and its IDE
keys (R410, Table 15.7). -/
def State.dieDown (s : State) (d : Nat) : State :=
  let i := d - 280
  let s1 := (List.range 16).foldl (fun (t : State) k =>
    let p := 16 * i + k
    if t.portLive p then
      ((t.setPort p { t.port p with keys := none }).setFld (regRdgPortStatus p) 8 8 0).setPortState p 1
    else t) s
  let s2 := [2 * i, 2 * i + 1].foldl (fun (t : State) p => t.setFld (regEthStatus p) 0 1 0) s1
  if i = 0 then { s2 with pwr := { s2.pwr with linkUp := false, cfg := [] } }.setIde .noKeys else s2

/-- What a domain loses when it has entered a state (Table 15.2). -/
def State.loseIn (s : State) (d target : Nat) : State :=
  if d < 256 then (if 2 ≤ target then s.spurDown d (decide (target = 3)) else s)
  else if target = 3 then (if d < 264 then s.ringDown d else if d < 280 then s else s.dieDown d)
  else s

/-! ## Wakes (R414 to R417) -/

/-- DOMAIN_ENTRY_DONE (R409, R410, R417). -/
def execDomainEntryDone (d : Nat) (s : State) : Host.Outcome State Fault Refusal :=
  .next (
    match s.domRun d with
    | none => s
    | some r =>
      if d < 282 ∧ s.domState d = 4 then
        let s1 := (((s.loseIn d r.target).delDom d).setDom d r.target).setFld (regPwrDom d) 8 4 (if r.target = 1 then 7 else 0)
        if r.wake then s1.beginExit d r.target else s1
      else s)

/-- WAKE_EVENT (R414). -/
def execWakeEvent (d : Nat) (s : State) : Host.Outcome State Fault Refusal :=
  .next (if s.powered ∧ d < 282 ∧ s.domState d ≠ 0 then s.wake d else s)

/-- A write of PWR_DOM (Table 15.8): LOW and DISCARD, and WAKE = 1 as a wake event. LOW = 0, and DISCARD on a domain that is no cistern ring,
drop the write. -/
def State.pwrDom (s : State) (d : Nat) (v : BitVec 64) : State :=
  if field v 3 2 = 0 ∨ (v.getLsbD 5 ∧ (d < 256 ∨ 264 ≤ d)) then s.violation (regPwrDom d) 0 false
  else
    let s1 := s.setFld (regPwrDom d) 3 3 (field v 3 3)
    if v.getLsbD 6 then s1.wake d else s1

/-- WAKE (R414): LOW and DISCARD are written with the values they hold. -/
def execWakeDomain (d : Nat) (s : State) : Host.Outcome State Fault Refusal :=
  let v : BitVec 64 := BitVec.ofNat 64 (s.fld (regPwrDom d) 3 3 * 8 + 64)
  .next (if d < 282 then s.regWrite (regPwrDom d) v false fun t => t.pwrDom d v else s)

/-- An I/O die is at RUN again: what has waited for its ports leaves (R341, R343, R358). -/
def State.dieUp (s : State) (i : Nat) : State :=
  let s1 := ((List.range 16).foldl (fun (t : State) k => if t.portState (16 * i + k) = 3 then t.resendPort (16 * i + k) else t) s).drainHeld
  [2 * i, 2 * i + 1].foldl (fun (t : State) p => t.ethDrain p) s1

/-- A domain is at RUN. -/
def State.domUp (s : State) (d : Nat) : State :=
  let s1 := (s.delDom d).setDom d 0
  if 280 ≤ d then s1.dieUp (d - 280) else s1

/-- WAKE_STAGE_READY (R415): the next of the four ready signals; after the last the domain is at RUN. -/
def execWakeStageReady (d : Nat) (s : State) : Host.Outcome State Fault Refusal :=
  .next (
    match s.domRun d with
    | none => s
    | some r =>
      if d < 282 ∧ s.domState d = 5 then
        let s1 := s.setFld (regPwrDom d) (8 + r.stage) 1 1
        if 3 ≤ r.stage then s1.domUp d else s1.putDom d { r with stage := r.stage + 1 }
      else s)

/-- WAKE_STAGE_TIMEOUT (R416): what waits only for I/O dies that have failed is answered now, every other request when it is presented again. -/
def execWakeStageTimeout (d : Nat) (s : State) : Host.Outcome State Fault Refusal :=
  .next (if d < 282 ∧ s.domState d = 5 then ((s.note detPwrWakeFail d).failDom d false).dropFailed else s)

/-- PWR_HOST_VOTE_WRITE (R413): a vote that VOTE does not let the host give drops the write; a vote raised is a wake event (R414). -/
def execPwrHostVoteWrite (i : Nat) (v : BitVec 64) (s : State) : Host.Outcome State Fault Refusal :=
  .next (
    if 5 ≤ i then s
    else s.regWrite (regPwrHostVote i) v false fun t =>
      let ds := (List.range 64).filter fun j => v.getLsbD j
      if ds.any fun j => decide (282 ≤ 64 * i + j) || !(t.voteWord (64 * i + j)).testBit 16 then t.violation (regPwrHostVote i) 0 false
      else
        let old := t.reg (regPwrHostVote i)
        (ds.filter fun j => !old.getLsbD j && decide (t.domState (64 * i + j) ≠ 0)).foldl (fun (u : State) j => u.wake (64 * i + j))
          (t.regPlain (regPwrHostVote i) v))

/-! ## Partition reset (R422) -/

/-- The spurs of a partition (R283). -/
def PartEnt.spurs (p : PartEnt) : List Nat :=
  (List.range p.sh).flatMap fun y => (List.range p.sw).map fun x => 16 * (p.sy0 + y) + p.sx0 + x

/-- PWR_PART_RESET (R421, R422): while a domain is in an entry it waits. Every context of the partition is lost and to be destroyed, and every spur
domain of it is woken; PART stays noted until the end. -/
def execPwrPartReset (v : BitVec 64) (s : State) : Host.Outcome State Fault Refusal :=
  .next (if s.entering then s else s.regWrite regPwrPartReset v false fun t =>
    let p := field v 0 4
    if v.getLsbD 63 = false then t
    else
      match t.part p with
      | none => t.violation regPwrPartReset 0 false
      | some e =>
        if t.fld regPwrPrstStatus 0 1 = 1 then t.violation regPwrPartReset 0 false
        else
          let t1 := (t.setFld regPwrPrstStatus 0 1 1).setReg regPwrPartReset (BitVec.ofNat 64 p)
          let cs := (t1.hif.ctxs.filter fun (c : Nat × CtxRun) => c.2.words.part = p).map (·.1)
          let t2 := cs.foldl (fun (u : State) c => u.destroyCtx c 5) t1
          e.spurs.foldl (fun (u : State) d => if u.domState d = 0 then u else u.wake d) t2)

/-- PART_RESET_DONE (R422): with every context of the partition destroyed and every spur at RUN or FAILED, its tiles are as at claim, with scratch
and well zero and no L1 line, and its engines are empty. -/
def execPartResetDone (s : State) : Host.Outcome State Fault Refusal :=
  .next (
    match s.part (s.fld regPwrPartReset 0 4) with
    | none => s
    | some e =>
      if s.fld regPwrPrstStatus 0 1 = 0 ∨ s.hif.ctxs.any (fun (c : Nat × CtxRun) => decide (c.2.words.part = s.fld regPwrPartReset 0 4)) ∨
          e.spurs.any (fun d => decide (s.domState d ≠ 0) && decide (s.domState d ≠ 6)) then s
      else
        let tiles := e.spurs.flatMap fun d => (List.range 16).map (tileOfSpur d)
        let s1 := tiles.foldl (fun (t : State) n => { t with tiles := Tbl.del t.tiles n }) s
        let s2 := { s1 with eng := { s1.eng with spurs := s1.eng.spurs.filter fun (x : Nat × UpdEng) => !decide (x.1 ∈ e.spurs) } }
        (s2.setReg regPwrPartReset 0).setFld regPwrPrstStatus 0 1 0)

end Sys2Proof.Machine
end

