-- ==== Sys2Proof/Machine/Reset.lean ====
section
/-!
DEFINITION. What the module does as a whole (14 R380; 15 R407, R418, R419, R421, R423; 17 R442, R448 to R453): power-on and bring-up, OFF,
the resets, and the loss of the input.
-/
namespace Sys2Proof.Machine

/-! ## What no reset clears (Table 15.7) -/

/-- The registers whose bits come from fuses or flash, with those bits (Table 0.2 of 00 R11). -/
def fuseRegs : List (Nat × Nat) :=
  [(regIdentStep, 0xFF), (regIdentSerial, 2 ^ 64 - 1), (regSecStatus, 0xFFF), (regSecFwSvn, 0xFFFF0000), (regDetLogTotal, 2 ^ 64 - 1)] ++
  (List.range 4).map (fun p => (regEthMac p, 2 ^ 48 - 1)) ++
  (List.range 16).map (fun q => (regCkpQpCtrl q, 0xFFFFFF00)) ++
  ((List.range 4).flatMap fun i => (List.range 6).map fun j => (regSecFjHash i j, 2 ^ 64 - 1)) ++
  ((List.range 4).flatMap fun i => (List.range 6).map fun j => (regSecOwnerHash i j, 2 ^ 64 - 1))

/-- Every volatile state is lost (R374, R421, R452): what stays is fuses, flash with the error log, host memory, the pins that others drive
and the latch of a thermal trip. -/
def State.cold (s : State) (phase : ModPhase) : State :=
  let r : State := { State.reset with
    pending := s.pending
    fresh := s.fresh
    out := s.out
    mem := { State.reset.mem with host := s.mem.host }
    log := s.log
    load := { State.reset.load with slotA := s.load.slotA, slotB := s.load.slotB, fuseMap := s.load.fuseMap }
    trust := { State.reset.trust with uds := s.trust.uds, fjKeys := s.trust.fjKeys, ownerKeys := s.trust.ownerKeys }
    pwr := { State.reset.pwr with
      phase := phase, resetN := s.pwr.resetN, perstN := s.pwr.perstN, mref := s.pwr.mref, tripLatch := s.pwr.tripLatch, pwrGood := false } }
  fuseRegs.foldl (fun (t : State) (e : Nat × Nat) => t.setReg e.1 (s.reg e.1 &&& BitVec.ofNat 64 e.2)) r

/-- A loss of power leaves the record that is being written incomplete (R374, R435): the newest one, where it is of this very ms, is or is not, by a
free choice. -/
def State.logTorn (s : State) : State :=
  match s.log.recs with
  | [] => s
  | r :: rs =>
    if r.boot = s.log.boot ∧ r.time = s.ms then
      let (torn, s1) := s.choose
      { s1 with log := { s1.log with recs := { r with ok := r.ok && !torn } :: rs } }
    else s

/-- Set where the module stands. -/
def State.setPhase (s : State) (p : ModPhase) : State := { s with pwr := { s.pwr with phase := p } }

/-! ## Bring-up (R380, R448, R450) -/

/-- Whether a firmware copy carries a signature by a Fjarber key whose hash is fused and not revoked, and its security version reaches the fused
minimum (R380). -/
def State.fwOk (s : State) (n : Nat) : Bool :=
  (match s.fjKey (Config.fwSigned n).1 with
    | some k => Config.ecdsaOk k (Config.fwDigest n) (Config.fwSigned n).2
    | none => false) && decide (s.fld regSecFwSvn 16 16 ≤ (Config.fwSvn n).toNat)

/-- The record of a firmware copy that is refused; the spec gives its CODE and ARG no value. -/
def State.fwRefused (s : State) : State := s.logOpen 10 0xFF 0 none false

/-- The Cairn firmware runs: CAIRN_UP, its versions, the keys that the ROM derived for it, and the fused minimum raised (R379, R380). -/
def State.runFw (s : State) (n : Nat) : State :=
  let svn := (Config.fwSvn n).toNat
  let s1 := ((s.setFld regIdentStatus 0 1 1).setFld regIdentStep 8 16 (Config.fwVersion n).toNat).setFld regSecFwSvn 0 16 svn
  let uds := s1.trust.uds
  let s2 := { s1 with
    trust := { s1.trust with fw := n, dik := Config.deriveDik uds, ak := Config.deriveAk uds (Config.fwDigest n) }
    pwr := { s1.pwr with phase := .up } }
  if s2.fld regSecFwSvn 16 16 < svn then (s2.setFld regSecFwSvn 16 16 svn).fuseRec else s2

/-- The record of a thermal trip before this boot (Table 16.7). -/
def State.tripRec (s : State) : State :=
  if s.pwr.tripLatch then { s with pwr := { s.pwr with tripLatch := false } }.logOpen 7 0xFF 0 none false else s

/-- From the firmware on: the record of a thermal trip, and the load from flash (R294). -/
def State.started_ (s : State) (n : Nat) : State :=
  let s1 := (s.runFw n).tripRec.flashLoad.cmdRes 0
  { s1 with pwr := { s1.pwr with powerOnLoad := false } }

/-- From every rail in regulation (Table 17.9): PWR_GOOD rises, the PLL locks where the module reference is there, and the Cairn leaves reset
with its own two copies of firmware to try. With neither, it is held in reset (R380). -/
def State.boot (s : State) : State :=
  let s0 := { s with pwr := { s.pwr with phase := .bringUp, pwrGood := true } }
  if s0.pwr.mref = false then s0.setPhase .waitRef
  else
    let s1 := { s0 with log := { s0.log with boot := s0.log.boot + 1 } }.setFld regClkStatus 0 2 3
    if s1.fwOk 0 then s1.started_ 0
    else if s1.fwOk 1 then s1.fwRefused.started_ 1
    else
      let s2 := s1.fwRefused.fwRefused
      { s2 with pwr := { s2.pwr with phase := .noFirmware, powerOnLoad := false } }

/-- The input is there (R450, R452): with RESET_N low the sequence waits. -/
def State.inputUp (s : State) : State :=
  let s1 := s.cold .bringUp
  if s1.pwr.resetN then s1.boot else s1.setPhase .held

/-- POWER_ON (R450): from no input, or, right after State.reset, the bring-up that has not run yet (log 4). -/
def execPowerOn (s : State) : Host.Outcome State Fault Refusal :=
  .next (
    match s.pwr.phase with
    | .noInput => s.inputUp
    | .bringUp => if s.pwr.powerOnLoad then (if s.pwr.resetN then s.boot else s.setPhase .held) else s
    | _ => s)

/-- MREF_PRESENT (R402, R448): a bring-up that waits for the reference goes on; while the module runs, the reference is within its limits again. -/
def execMrefPresent (s : State) : Host.Outcome State Fault Refusal :=
  .next (if s.pwr.phase = .waitRef then s.refBack.boot else s.refBack)

/-- REF_RESTORED (R402): the reference has been good for 100 ms, and OP3 is kept no longer. -/
def execRefRestored (s : State) : Host.Outcome State Fault Refusal :=
  .next (
    let s1 := s.refBack
    if s.pwr.phase = .waitRef then s1.boot else { s1 with pwr := { s1.pwr with refHold := false } })

/-! ## RESET_N (R452) -/

/-- Everything but the always-on rail is off (R452): while RESET_N is low the module is held, and at its release it starts again. -/
def State.resetNow (s : State) : State := (s.cold .held).setReg regPwrLastWake 2

/-- RESET_N held low for 10 µs (R452): every rail but the always-on one turns off, and a thermal trip is cleared. During OFF entry it is
latched (R419); in OFF it begins the exit (R453). Without input only the pin is low. -/
def execResetPin (s : State) : Host.Outcome State Fault Refusal :=
  .next (
    let s1 := { s with pwr := { s.pwr with resetN := false } }
    match s.pwr.phase with
    | .noInput | .overvoltage => s1
    | .offEntry => { s1 with pwr := { s1.pwr with latch := some 2 } }
    | .held => s1
    | _ => s1.resetNow)

/-- RESET_N_RELEASE (R452). -/
def execResetPinRelease (s : State) : Host.Outcome State Fault Refusal :=
  .next (
    let s1 := { s with pwr := { s.pwr with resetN := true } }
    if s.pwr.phase = .held then s1.boot else s1)

/-! ## OFF (R418, R419, R453) -/

/-- Whether the module may enter OFF (R418). -/
def State.offAllowed (s : State) : Bool :=
  decide (s.fld regPwrCfg 0 1 = 1) && (List.range 282).all fun d => !s.voted d && !s.pinned d

/-- Every domain that is not there yet begins its entry into DEEP. -/
def State.allDeep (s : State) : State :=
  (List.range 282).foldl (fun (t : State) d => if t.domState d ≤ 2 then t.enter d 3 else t) s

/-- The module is in OFF; an event latched during the entry begins the exit at once (R419). -/
def State.offNow (s : State) : State :=
  let s1 := s.cold .off
  match s.pwr.latch with
  | none => s1
  | some k =>
    let s2 := s1.setReg regPwrLastWake (BitVec.ofNat 64 (k + 4))
    if s2.pwr.resetN then s2.boot else s2.setPhase .held

/-- OFF_ENTRY (R418): the entry begins; presented again, it ends once every domain is in DEEP. -/
def execOffEntry (s : State) : Host.Outcome State Fault Refusal :=
  .next (
    match s.pwr.phase with
    | .up => if s.loaded ∧ s.offAllowed then { s with pwr := { s.pwr with phase := .offEntry, latch := none } }.allDeep else s
    | .offEntry =>
      if (List.range 282).all fun d => decide (s.domState d = 3) || decide (s.domState d = 6) then s.offNow else s.allDeep
    | _ => s)

/-- WAKE_N (R419, R453, Table 17.6): latched during OFF entry, the exit in OFF, and ignored everywhere else. -/
def execWakePin (s : State) : Host.Outcome State Fault Refusal :=
  .next (
    match s.pwr.phase with
    | .offEntry => { s with pwr := { s.pwr with latch := some (s.pwr.latch.getD 1) } }
    | .off => (s.setReg regPwrLastWake 1).boot
    | _ => s)

/-! ## What the output pins show (R420, R447) -/

/-- An output that the module drives low or high, or lets float. -/
inductive Level where
  | low
  | high
  | floats
deriving DecidableEq, Repr, Inhabited

/-- PWR_GOOD: low in OFF, after the thermal trip, and while RESET_N is low. -/
def State.pwrGoodPin (s : State) : Level :=
  if s.pwr.phase = .noInput then .floats else if s.pwr.pwrGood ∧ s.pwr.resetN then .high else .low

/-- ALERT_N, an open drain: low while IDENT_STATUS.ALERT reads 1. -/
def State.alertPin (s : State) : Level :=
  if s.pwr.phase = .noInput ∨ s.pwr.phase = .off ∨ s.fld regIdentStatus 1 1 = 0 then .floats else .low

/-- THERM_TRIP_N: low after the thermal trip, until RESET_N or input removal. -/
def State.thermTripPin (s : State) : Level :=
  if s.pwr.phase = .noInput then .floats else if s.pwr.thermTripN then .high else .low

/-- Whether the transmit lanes of an I/O die's ports float: PCIe on die 0, Ethernet and Ridge on both (Table 15.5). -/
def State.lanesFloat (s : State) (die : Nat) : Bool :=
  decide (s.pwr.phase = .noInput) || decide (s.pwr.phase = .off) || decide (s.domState (280 + die) = 3)

/-- Whether MON_TXD floats. -/
def State.monFloats (s : State) : Bool := decide (s.pwr.phase = .noInput) || decide (s.pwr.phase = .off)

/-! ## Thermal trip and input (R374, R407, R442) -/

/-- THERMAL_TRIP (R407): with the rails on, THERM_TRIP_N is asserted and they turn off. -/
def execThermalTrip (s : State) : Host.Outcome State Fault Refusal :=
  .next (
    match s.pwr.phase with
    | .up | .offEntry | .bringUp | .waitRef | .noFirmware =>
      let s1 := s.logTorn.cold .tripped
      { s1 with pwr := { s1.pwr with thermTripN := false, tripLatch := true } }
    | _ => s)

/-- INPUT_OVERVOLTAGE (R442). -/
def execInputOvervoltage (s : State) : Host.Outcome State Fault Refusal :=
  .next (if s.pwr.phase = .noInput then s else s.logTorn.cold .overvoltage)

/-- OVERVOLTAGE_RESTART (R442). -/
def execOvervoltageRestart (s : State) : Host.Outcome State Fault Refusal :=
  .next (if s.pwr.phase = .overvoltage then s.inputUp else s)

/-- INPUT_POWER_LOSS (R374). -/
def execInputPowerLoss (s : State) : Host.Outcome State Fault Refusal := .next (s.logTorn.cold .noInput)

/-! ## PERST#, hot reset and FLR (R335, R421, R451) -/

/-- The host side goes (R335): the running checkpoint fails, and every context and object ends without a record and without touching an event in
host memory. A board request that is still without an answer is no context's any more. -/
def State.hostGone (s : State) : State :=
  let s0 := match s.eng.ckpt with
    | some k => if s.inHost k.ctx k.cevt.toNat then { s with eng := { s.eng with ckpt := some { k with cevt := 0 } } } else s
    | none => s
  let s1 := s0.ckptFailAs false 6
  let s2 := ((s1.hif.ctxs.map (·.1)).foldl (fun (t : State) c => t.resetCtx c) s1).resetObjs.keySlots
  { s2 with ridge := { s2.ridge with reqs := s2.ridge.reqs.map fun q => { q with ctx := 4096, owner := .noone } } }

/-- Everything that PERST# reaches (R335, Table 15.6): all but fuses, flash, the Cairn's running state, DET and IDENT_HEARTBEAT. BUSY reads 1 until
the load from flash that follows it ends. -/
def State.perst (s : State) : State :=
  let s1 := s.hostGone.blocksGone.noImage
  let s2 := [regPwrMeter, regPwrSteps, regClkRefLoss, regIdentPreloadDrop, regIdentLoadStaged, regIdentLoadStatus].foldl
    (fun (t : State) r => t.setReg r (regReset r)) s1
  let s3 := { s2 with load := { s2.load with staged := [], running := none }, pwr := { s2.pwr with phase := .up, latch := none, linkUp := false, cfg := [] } }
  (s3.setFld regIdentStatus 2 1 0).setFld regIdentLoadStatus 2 1 1

/-- PERST (R421, R451, R452): the PCIe link goes down, and its reference may go with it (R448). Outside a running module nothing else happens; an
entry into OFF is abandoned, for the RESET_N that was latched in it where there is one. -/
def execPerstAssert (s : State) : Host.Outcome State Fault Refusal :=
  .next (
    let s1 := { s with pwr := { s.pwr with perstN := false, linkUp := false } }.seeRefAt 0
    match s.pwr.phase with
    | .up => if s.pwr.perstN then s1.perst else s1
    | .offEntry =>
      if s.pwr.latch = some 2 then (if s.pwr.resetN then s1.resetNow.boot else s1.resetNow)
      else if s.pwr.perstN then s1.perst else s1
    | .noInput | .off => { s with pwr := { s.pwr with perstN := false } }
    | _ => s1)

/-- PERST_N_RELEASE (R451): after a PERST# the image is loaded from flash again. -/
def execPerstRelease (s : State) : Host.Outcome State Fault Refusal :=
  .next (
    let s1 := { s with pwr := { s.pwr with perstN := true } }
    if s.pwr.phase = .up ∧ s.pwr.perstN = false ∧ s.fld regIdentLoadStatus 2 1 = 1 then s1.flashLoad.cmdRes 0 else s1)

/-- PCIE_LINK_UP (R410, R451): PERST_N is high, the SerDes rails are up, the host's reference is there, and I/O die 0 is at RUN. -/
def execPcieLinkUp (s : State) : Host.Outcome State Fault Refusal :=
  .next (
    match s.pwr.phase with
    | .up | .offEntry | .bringUp | .waitRef | .noFirmware =>
      if s.pwr.perstN ∧ s.domState domHost = 0 then { s with pwr := { s.pwr with linkUp := true } }.setFld regClkRef 0 1 1 else s
    | _ => s)

/-- Whether a register belongs to the host settings that hot reset and FLR clear (R335, Table 15.7): the accepted features and their lock,
HIF, the context slots, XLT, and the persistence windows. -/
def hostSetting (off : Nat) : Bool :=
  (decide (regFeatAcceptLo ≤ off) && decide (off < 0x2000)) || (decide (0x10000 ≤ off) && decide (off < 0x20000)) ||
  (decide (0x100000 ≤ off) && decide (off < 0x300000)) || (decide (0x401000 ≤ off) && decide (off < 0x402000))

/-- A partition reset that runs is over: a wider reset has taken over (R421). -/
def State.partResetGone (s : State) : State := (s.setReg regPwrPartReset 0).setFld regPwrPrstStatus 0 1 0

/-- Hot reset and FLR (R335): the running checkpoint fails, every context and object goes, and the host settings return to their reset
values. -/
def State.hostReset (s : State) : State :=
  let s3 := (List.range 64).foldl (fun (t : State) w => t.winRelease w) s.hostGone
  let keep := fun (o : Nat) => !hostSetting o
  ({ s3 with
    regs := ⟨s3.regs.vals.filter fun (e : Nat × BitVec 64) => keep e.1, s3.regs.shadow.filter fun (e : Nat × BitVec 32) => keep e.1,
      s3.regs.held.filter fun (e : Nat × BitVec 32) => keep e.1⟩
    mem := { s3.mem with xlat := [] }
    hif := { s3.hif with admin := .none, evrDue := false } } : State).setTblOk.partResetGone

/-- HOT_RESET (R335, R421): the link trains again, and the IDE keys are lost. -/
def execHotReset (s : State) : Host.Outcome State Fault Refusal :=
  .next (
    if s.pwr.phase ≠ .up ∨ s.entering then s
    else
      let s1 := (if s.loaded then s.hostReset else s).setIde .noKeys
      { s1 with pwr := { s1.pwr with linkUp := false, cfg := [] } })

/-- FLR (R335, R421): the link stays up. -/
def execFlr (s : State) : Host.Outcome State Fault Refusal :=
  .next (
    if s.pwr.phase ≠ .up ∨ s.entering then s
    else
      let s1 := if s.loaded then s.hostReset else s
      { s1 with pwr := { s1.pwr with cfg := [] } })

/-! ## The heartbeat (R304) -/

/-- Whether a power domain holds a request back: it is neither in RUN nor FAILED (R414, R416). -/
def State.domWaits (s : State) (d : Nat) : Bool := decide (s.domState d ≠ 0) && decide (s.domState d ≠ 6)

/-- Whether a line's request waits for a domain. -/
def State.lineAsleep (s : State) (o : Owner) (line : Nat) : Bool :=
  match s.reachLine o none line false with
  | .asleep _ => true
  | _ => false

/-- Whether a board request of a requester waits for the I/O die of its port (R414). -/
def State.boardAsleep (s : State) (mine : Owner → Bool) : Bool :=
  s.ridge.held.any fun h => h.own && (s.exitDies h.own h.f).any s.domWaits &&
    s.ridge.reqs.any fun r => mine r.owner && decide (r.tag = h.f.tag)

/-- Whether a group's no-progress timer pauses (R70): a request made on its behalf, or a store of it in the queue, waits for a domain. -/
def State.timerPaused (s : State) (n : Nat) (t : Tile) (slot : Nat) : Bool :=
  (match Tbl.find t.domWaits slot with | some d => s.domWaits d | none => false) ||
  (t.storeQ.any fun e => decide (e.slot = slot) && decide (e.tgt = 0) && s.lineAsleep (.store n slot) e.line) ||
  s.boardAsleep fun o => decide (o = .group n slot) || decide (o = .store n slot)

/-- Whether the arrays' progress timers pause (R107): a request of the claim's pumps waits for a domain. -/
def State.pumpsPaused (s : State) (n : Nat) (t : Tile) : Bool :=
  (t.domWaits.any fun e => decide (32 ≤ e.1) && s.domWaits e.2) || s.boardAsleep fun o => match o with | .pump m _ => decide (m = n) | _ => false

/-- An ms passes on a tile: the timer of every resident group runs, and that of each array with work, but where they pause (R69, R70,
R107). -/
def State.tickTile (s : State) (n : Nat) (t : Tile) : Tile :=
  let run := fun (c : Claim) (a k : Nat) => if !c.arrBusy a then 0 else if s.pumpsPaused n t then k else k + 1
  { t with
    timers := t.groups.foldl (fun (ts : Tbl Nat) (g : Nat × Group) =>
      if s.timerPaused n t g.1 then ts else Tbl.put ts g.1 (Tbl.getD ts g.1 0 + 1)) t.timers
    claim := t.claim.map fun c => { c with timer0 := run c 0 c.timer0, timer1 := run c 1 c.timer1 }
    domWaits := t.domWaits.filter fun e => s.domWaits e.2 }

/-- IDENT_HEARTBEAT (R304): one ms, and the hottest junction; the timers of R69 and R107 run on it, the scheduler looks which contexts wait
(R312), and a load command that runs, or its stage, may end (R299). -/
def execIdentHeartbeat (tj : Nat) (s : State) : Host.Outcome State Fault Refusal :=
  .next (
    match s.pwr.phase with
    | .up | .offEntry =>
      { (s.bumpFld regIdentHeartbeat 0 64 1).setFld regIdentStatus 3 8 (min tj 255) with
        tiles := s.tiles.map fun (t : Nat × Tile) => (t.1, s.tickTile t.1 t.2) }.noteWaits.loadTick
    | _ => s)

end Sys2Proof.Machine
end

