-- ==== Sys2Proof/Machine/Registers.lean ====
section
/-!
DEFINITION. BAR0 as the host writes and reads it (00 R10 to R15; 10 R300; 11 R313; 15 Table 15.8): which register a write reaches and by what rule,
the two halves of a 64-bit register, and the registers that show other state.
-/
namespace Sys2Proof.Machine

/-- The state a row's meaning answers. -/
def State.afterRow (s : State) (o : Host.Outcome State Fault Refusal) : State :=
  match o with
  | .next t => t
  | _ => s

/-- Which member of an array of `n` registers lies at an offset. -/
def memberAt (base stride n off : Nat) : Option Nat :=
  if base ≤ off ∧ (off - base) % stride = 0 ∧ (off - base) / stride < n then some ((off - base) / stride) else none

/-! ## Writes -/

/-- A write to IDENT_LOAD_CMD (R299). -/
def State.loadCmdWrite (s : State) (v : BitVec 64) : State :=
  match field v 0 4 with
  | 1 => s.afterRow (execLoadClear s)
  | 2 => s.afterRow (execLoadAppend (field v 32 12) s)
  | 3 => s.afterRow (execLoadStaged s)
  | 4 => s.afterRow (execLoadCommitSlot s)
  | 5 => s.afterRow (execLoadCommitLoad s)
  | 6 => s.afterRow (execLoadReload s)
  | _ => (s.judge detRegViolation 0 true).2.violation regIdentLoadCmd 0 false

/-- A write to MBX_CMD (R397). -/
def State.mbxCmdWrite (s : State) (v : BitVec 64) : State :=
  match v.toNat with
  | 0x01 => s.afterRow (execOwnerEnroll s)
  | 0x02 => s.afterRow (execOwnerRevoke s)
  | 0x10 => s.afterRow (execPtInstall s)
  | 0x11 => s.afterRow (execPtWrite s)
  | 0x12 => s.afterRow (execPtRelease s)
  | 0x13 => s.afterRow (execMeasureRange s)
  | 0x14 => s.afterRow (execSealCtx s)
  | _ => (s.judge detRegViolation 0 true).2.violation regMbxCmd 0 false

/-- A write to HIF_ADM_CMD (R310). -/
def State.admCmdWrite (s : State) (v : BitVec 64) : State :=
  match v.toNat with
  | 1 => s.afterRow (execCtxCreate s)
  | 2 => s.afterRow (execCtxDestroy s)
  | 3 => s.afterRow (execQueueCreate s)
  | 4 => s.afterRow (execQueueDestroy s)
  | 5 => s.afterRow (execObjCreate s)
  | 6 => s.afterRow (execObjFree s)
  | 7 => s.afterRow (execObjExport s)
  | 8 => s.afterRow (execObjImport s)
  | 9 => s.afterRow (execCtxQuery s)
  | n => s.admin n none fun t => t

/-- What a whole write to a register whose rule is a row of its own does; none where it is no such register. -/
def State.rowWrite (s : State) (off : Nat) (v : BitVec 64) : Option State :=
  if off = regIdentLoadCmd then some (s.loadCmdWrite v)
  else if off = regFeatAcceptLo then some (s.afterRow (execFeatAcceptWrite false v s))
  else if off = regFeatAcceptHi then some (s.afterRow (execFeatAcceptWrite true v s))
  else if off = regFeatCmd ∧ v.getLsbD 0 then some (s.afterRow (execFeatLock s))
  else if off = regMbxCmd then some (s.mbxCmdWrite v)
  else if off = regHifTblBase then some (s.afterRow (execHifTblBaseWrite v s))
  else if off = regHifAdmCmd then some (s.admCmdWrite v)
  else if off = regXltInvCtrl then some (s.xltInv v)
  else if off = regPwrLimit then some (s.afterRow (execPwrLimitWrite v s))
  else if off = regPwrPartReset then some (s.afterRow (execPwrPartReset v s))
  else
    (memberAt (regCisWinBase 0) 0x20 64 off).map (fun w => s.afterRow (execCisWinRangeWrite w false v s)) <|>
    (memberAt (regCisWinLimit 0) 0x20 64 off).map (fun w => s.afterRow (execCisWinRangeWrite w true v s)) <|>
    (memberAt (regCisWinCtrl 0) 0x20 64 off).map (fun w => s.afterRow (execCisWinCtrlWrite w v s)) <|>
    (memberAt (regPwrHostVote 0) 8 5 off).map (fun i => s.afterRow (execPwrHostVoteWrite i v s)) <|>
    (memberAt (regEthTxrTail 0) 0x1000 4 off).map (fun p => s.afterRow (execEthTxrTailWrite p (v.setWidth 32) s)) <|>
    (memberAt (regEthRxrHead 0) 0x1000 4 off).map (fun p => s.afterRow (execEthRxrHeadWrite p (v.setWidth 32) s)) <|>
    (memberAt (regCkpQpCtrl 0) 0x40 16 off).map fun q => s.afterRow (execCkpQpCtrlWrite q v s)

/-- A write to RDG_CFG (Table 12.10): a field of 0 drops it. -/
def State.rdgCfg (s : State) (v : BitVec 64) : State :=
  if field v 0 16 = 0 ∨ field v 16 16 = 0 then s.violation regRdgCfg 0 false else s.regPlain regRdgCfg v

/-- A write to ETH_CTRL (Table 12.11): a disabled port has no link. -/
def State.ethCtrl (s : State) (p : Nat) (v : BitVec 64) : State :=
  let s1 := s.regPlain (regEthCtrl p) v
  if v.getLsbD 0 then s1.ethDrain p else s1.setFld (regEthStatus p) 0 1 0

/-- The queue-pair registers that are writable only while EN = 0 (R377): pair and offset. -/
def qpMember (off : Nat) : Option Nat :=
  if 0x1801008 ≤ off ∧ off < 0x1801400 then some ((off - 0x1801000) / 0x40) else none

/-- What a whole write that breaks no rule so far does at any other register. -/
def State.otherWrite (s : State) (off : Nat) (v : BitVec 64) : State :=
  if regIdentLoadData 0 ≤ off ∧ off < 0x1000 then s.setReg off v
  else if off = regDetCtrl then s.detCtrl v
  else if off = regDetLogSel then s.logSel v
  else if off = regRdgCfg then s.rdgCfg v
  else
    ((memberAt (regPwrDom 0) 8 282 off).map (fun d => s.pwrDom d v) <|>
     (memberAt (regInjCtrl 0) 0x40 16 off).map (fun j => s.injCtrl j v) <|>
     (memberAt (regInjSkip 0) 0x40 16 off).map (fun j => s.injParam j off v) <|>
     (memberAt (regInjPeriod 0) 0x40 16 off).map (fun j => s.injParam j off v) <|>
     (memberAt (regRdgPortCtrl 0) 0x20 32 off).map (fun p => s.portCtrl p v) <|>
     (memberAt (regEthCtrl 0) 0x1000 4 off).map (fun p => s.ethCtrl p v) <|>
     (memberAt (regEthRingCfg 0 0) 0x1000 4 off).map (fun p => (s.regPlain off v).ethDrain p) <|>
     (qpMember off).map (fun q => s.qpOther off q v)).getD (s.regPlain off v)

/-- A whole write of a register. Two points of it are the model's (log 43): an 8-byte write that covers two 32-bit registers is a write of the lower
one whose upper 32 bits are reserved bits of it; and a low half held for a register stays held over an 8-byte write of it. -/
def State.write8 (s : State) (off : Nat) (v : BitVec 64) : State :=
  match regAt off with
  | none => s.regWrite off v false fun t => t
  | some d =>
    if d.accepts v s.load.locked then (s.rowWrite off v).getD (s.regWrite off v false fun t => t.otherWrite off v)
    else s.regWrite off v false fun t => t

/-- The register's own value, with the fields that read as zero (Table 0.2: WO). -/
def State.stored (s : State) (off : Nat) : BitVec 64 :=
  match regAt off with
  | some d => s.reg off &&& ~~~(BitVec.ofNat 64 d.wo)
  | none => 0

/-- The low half that a write of the high half alone is combined with (R14): the held one, or the current one. -/
def State.lowHalf (s : State) (off : Nat) : BitVec 32 :=
  match Tbl.find s.regs.held off with
  | some l => l
  | none => (if regIdentLoadData 0 ≤ off ∧ off < 0x1000 then s.reg off else s.stored off).setWidth 32

/-- A 4-byte write (R14): a low half is held, and a high half applies both. -/
def State.write4 (s : State) (off : Nat) (v : BitVec 32) : State :=
  match regAt off with
  | some d =>
    if d.width = 32 then s.regWrite off (v.setWidth 64) false fun t => t.regPlain off (v.setWidth 64)
    else { s with regs := { s.regs with held := Tbl.put s.regs.held off v } }
  | none =>
    if off % 8 = 4 ∧ (regAt (off - 4)).any (fun d => d.width = 64) then
      { s with regs := { s.regs with held := Tbl.del s.regs.held (off - 4) } }.write8 (off - 4) (v ++ s.lowHalf (off - 4))
    else s.regWrite off (v.setWidth 64) false fun t => t

/-- Whether an offset lies in the TILE window of a debug-enabled image (R293, Table 11.2). -/
def State.inTileWindow (s : State) (off : Nat) : Bool :=
  decide (0x2000000 ≤ off) && decide (off < 0x4000000) && s.load.img.any fun i => i.debug

/-- REGISTER_WRITE (R10 to R14, R300). A write to the TILE window is judged; what its words stand for is in no file of the spec. -/
def execRegisterWrite (off size : Nat) (v : BitVec 64) (s : State) : Host.Outcome State Fault Refusal :=
  .next (
    if s.hostUp = false then s.hostRefused false
    else if s.loaded = false ∧ 0x1000 ≤ off then s.preloadDrop
    else if size < 4 ∨ off % size ≠ 0 then (s.judge detRegViolation 0 true).2.violation off 0 false
    else if s.inTileWindow off then
      let (bad, s1) := s.judge detRegViolation 0 false
      if bad then s1.violation off 0 false else s1
    else if size = 4 then s.write4 off (v.setWidth 32)
    else s.write8 off v)

/-- PRELOAD_WRITE_DROP (R300). -/
def execPreloadWriteDrop (bar off : Nat) (s : State) : Host.Outcome State Fault Refusal :=
  .next (
    if s.hostUp = false then s.hostRefused false
    else if s.loaded = false ∧ (bar ≠ 0 ∨ 0x1000 ≤ off) then s.preloadDrop else s)

/-! ## Reads -/

/-- The context resident in a slot. -/
def State.inSlot (s : State) (i : Nat) : Option (Nat × CtxRun) := s.hif.ctxs.find? fun e => e.2.slot = some i

/-- A register of a slot page (R313, Table 11.10). The fault registers of a confidential context read zero (R394). -/
def State.slotPage (s : State) (i o : Nat) : Nat :=
  match s.inSlot i with
  | none => 0
  | some (c, r) =>
    if o = 0 then 1 + c * 16 + r.words.part * 2 ^ 16 + r.words.asid.toNat * 2 ^ 32
    else if o = 8 then r.stateWord
    else if o = 0x10 then r.busy.toNat
    else if o = 0x18 then r.elapsed.toNat
    else if o < 0x40 then s.ctxMem r ((o - 0x20) / 8)
    else if o = 0x40 then r.faultVa.toNat
    else if o = 0x48 then r.faultInfo.toNat
    else
      match Tbl.find r.queues ((o - 0x100) / 16) with
      | some q => q.tail.toNat + q.done.toNat * 2 ^ 32
      | none => 0

/-- CIS_WIN_LINES (Table 9.10): the window's persistent lines. -/
def State.winLines (s : State) (w : Nat) : Nat :=
  (s.mem.cis.map fun (e : Nat × Cistern) => (e.2.lines.filter fun (l : CLine) => l.persist ∧ l.win = w).length).sum

/-- CIS_CHAN as it reads (Table 9.11): CE and UE are zero for a channel that is neither ENABLED nor SUSPECT. -/
def chanView (v : BitVec 64) : BitVec 64 := if 2 ≤ field v 0 2 then BitVec.ofNat 64 (field v 0 2) else v

/-- A register as it reads. -/
def State.regView (s : State) (off : Nat) : BitVec 64 :=
  if 0x100000 ≤ off ∧ off < 0x200000 then
    match regAt off with
    | some _ => BitVec.ofNat 64 (s.slotPage ((off - 0x100000) / 0x4000) ((off - 0x100000) % 0x4000))
    | none => 0
  else
    match memberAt (regCisWinLines 0) 0x20 64 off, memberAt (regPwrDom 0) 8 282 off, memberAt (regCisChan 0) 8 512 off with
    | some w, _, _ => BitVec.ofNat 64 (s.winLines w)
    | none, some d, _ => setField (setField (s.stored off) 16 16 (s.domVotes d)) 32 1 (b2n (s.hostVotes d))
    | none, none, some _ => chanView (s.stored off)
    | none, none, none => s.stored off

/-- A 4-byte read (R14): a low half copies the high half into the register's shadow, which the next read of the high half returns. Before a
load it is all ones outside the identity and status page (R300); an unassigned offset reads 0 (R12), and so does a word of the TILE window of no
debug-enabled image; in such an image it is a free value. -/
def State.read4 (s : State) (off : Nat) : BitVec 32 × State :=
  if s.loaded = false ∧ 0x1000 ≤ off then (0xFFFFFFFF, s)
  else if s.inTileWindow off then
    let (v, s1) := s.free
    (v.setWidth 32, s1)
  else
    match regAt off with
    | some d =>
      let v := s.regView off
      (v.setWidth 32, if d.width = 64 then { s with regs := { s.regs with shadow := Tbl.put s.regs.shadow off ((v >>> 32).setWidth 32) } } else s)
    | none =>
      if off % 8 = 4 ∧ (regAt (off - 4)).any (fun d => d.width = 64) then
        match Tbl.find s.regs.shadow (off - 4) with
        | some h => (h, { s with regs := { s.regs with shadow := Tbl.del s.regs.shadow (off - 4) } })
        | none => ((s.regView (off - 4) >>> 32).setWidth 32, s)
      else (0, s)

/-- The words that `n` further 4-byte reads from `off` give, lowest first: a read of several words is one read of each, low half first (R14). -/
def State.readWords (s : State) : Nat → Nat → List (BitVec 8) → List (BitVec 8) × State
  | 0, _, bs => (bs, s)
  | n + 1, off, bs =>
    let (v, s1) := s.read4 off
    State.readWords s1 n (off + 4) (bs ++ leBytes 4 v.toNat)

/-- The offset of the register, or else the 4-byte word, that holds a byte, and how many words it has. -/
def regOf (off : Nat) : Nat × Nat :=
  let w := off / 4 * 4
  if (regAt w).isNone ∧ w % 8 = 4 ∧ (regAt (w - 4)).any (fun d => d.width = 64) then (w - 4, 2)
  else (w, if (regAt w).any (fun d => d.width = 64) then 2 else 1)

/-- A read of `size` bytes of BAR0 (R13, R14): an 8-byte read of a 64-bit register gives both halves at once; a read of fewer than 4 bytes gives
the bytes it names, with the effect of a full read of each register that holds one of them. -/
def State.readBar0 (s : State) (off size : Nat) : List (BitVec 8) × State :=
  if size < 4 then
    let (a, n) := regOf off
    let (bs, s1) := s.readWords n a []
    if off + size ≤ a + 4 * n then ((bs.drop (off - a)).take size, s1)
    else
      let (cs, s2) := s1.readWords (regOf (a + 4 * n)).2 (a + 4 * n) []
      (((bs ++ cs).drop (off - a)).take size, s2)
  else
    let lo := off / 4 * 4
    let (bs, s1) := s.readWords ((off + size + 3) / 4 - off / 4) lo []
    ((bs.drop (off - lo)).take size, s1)

/-- A read of BAR2 (R319, R300): a doorbell reads as its queue's TAIL; every other byte is 0, and before a load all are ones. -/
def State.readBar2 (s : State) (off size : Nat) : List (BitVec 8) :=
  if s.loaded = false then List.replicate size 0xFF
  else
    (List.range size).map fun k =>
      let o := off + k
      match s.doorbellAt (o / 8 * 8) 4 with
      | some (_, _, q) => BitVec.ofNat 8 (q.tail.toNat / 2 ^ (8 * (o % 8)))
      | none => 0

/-- A read of a slot page's time figures finds them up to date (R314). -/
def State.tickAt (s : State) (off : Nat) : State :=
  if 0x100000 ≤ off ∧ off < 0x200000 ∧ 0x10 ≤ (off - 0x100000) % 0x4000 ∧ (off - 0x100000) % 0x4000 < 0x20 then
    match s.inSlot ((off - 0x100000) / 0x4000) with
    | some e => s.tickCtx e.1
    | none => s
  else s

/-- SHADOW_READ (R13 to R15, R314, R319): a read of a register or of a doorbell; no other BAR is read by it. -/
def execShadowRead (a : BarRead) (s : State) : Host.Outcome State Fault Refusal :=
  .next (
    if s.hostUp = false then s.hostRefused true
    else if a.size = 0 ∨ 8 < a.size then s
    else if a.bar = 0 then
      let (bs, s1) := (s.tickAt a.off).readBar0 a.off a.size
      s1.emit (.regRead (BitVec.ofNat 64 (leVal bs)))
    else if a.bar = 2 then s.emit (.regRead (BitVec.ofNat 64 (leVal (s.readBar2 a.off a.size))))
    else s)

end Sys2Proof.Machine
end

