-- ==== Sys2Proof/Machine/Dispatch.lean ====
section
/-! DEFINITION. One arm per command: its meaning on everything but the queue. -/
namespace Sys2Proof.Machine

/-- The effect of a command (every row of the opcode table). -/
def exec (i : Instr) (s : State) : Host.Outcome State Fault Refusal :=
  match i with
  | .iadd g insn => Sys2Proof.Machine.execIadd g insn s
  | .isub g insn => Sys2Proof.Machine.execIsub g insn s
  | .imul g insn => Sys2Proof.Machine.execImul g insn s
  | .imulhi g insn => Sys2Proof.Machine.execImulhi g insn s
  | .imad g insn => Sys2Proof.Machine.execImad g insn s
  | .imin g insn => Sys2Proof.Machine.execImin g insn s
  | .imax g insn => Sys2Proof.Machine.execImax g insn s
  | .iabs g insn => Sys2Proof.Machine.execIabs g insn s
  | .andB g insn => Sys2Proof.Machine.execAndB g insn s
  | .orB g insn => Sys2Proof.Machine.execOrB g insn s
  | .xorB g insn => Sys2Proof.Machine.execXorB g insn s
  | .shl g insn => Sys2Proof.Machine.execShl g insn s
  | .shr g insn => Sys2Proof.Machine.execShr g insn s
  | .rotl g insn => Sys2Proof.Machine.execRotl g insn s
  | .popc g insn => Sys2Proof.Machine.execPopc g insn s
  | .clz g insn => Sys2Proof.Machine.execClz g insn s
  | .brev g insn => Sys2Proof.Machine.execBrev g insn s
  | .iset g insn => Sys2Proof.Machine.execIset g insn s
  | .sel g insn => Sys2Proof.Machine.execSel g insn s
  | .mov g insn => Sys2Proof.Machine.execMov g insn s
  | .movhi g insn => Sys2Proof.Machine.execMovhi g insn s
  | .fadd g insn => Sys2Proof.Machine.execFadd g insn s
  | .fsub g insn => Sys2Proof.Machine.execFsub g insn s
  | .fmul g insn => Sys2Proof.Machine.execFmul g insn s
  | .ffma g insn => Sys2Proof.Machine.execFfma g insn s
  | .fmin g insn => Sys2Proof.Machine.execFmin g insn s
  | .fmax g insn => Sys2Proof.Machine.execFmax g insn s
  | .fabs g insn => Sys2Proof.Machine.execFabs g insn s
  | .fneg g insn => Sys2Proof.Machine.execFneg g insn s
  | .fset g insn => Sys2Proof.Machine.execFset g insn s
  | .frcp g insn => Sys2Proof.Machine.execFrcp g insn s
  | .frsq g insn => Sys2Proof.Machine.execFrsq g insn s
  | .fsqrt g insn => Sys2Proof.Machine.execFsqrt g insn s
  | .fexp2 g insn => Sys2Proof.Machine.execFexp2 g insn s
  | .flog2 g insn => Sys2Proof.Machine.execFlog2 g insn s
  | .fsinpi g insn => Sys2Proof.Machine.execFsinpi g insn s
  | .fcospi g insn => Sys2Proof.Machine.execFcospi g insn s
  | .cvt g insn => Sys2Proof.Machine.execCvt g insn s
  | .cvtPk g insn => Sys2Proof.Machine.execCvtPk g insn s
  | .cvtUpk g insn => Sys2Proof.Machine.execCvtUpk g insn s
  | .vote g insn => Sys2Proof.Machine.execVote g insn s
  | .bcast g insn => Sys2Proof.Machine.execBcast g insn s
  | .shfl g insn => Sys2Proof.Machine.execShfl g insn s
  | .s2r g insn => Sys2Proof.Machine.execS2r g insn s
  | .ld g insn => Sys2Proof.Machine.execLd g insn s
  | .st g insn => Sys2Proof.Machine.execSt g insn s
  | .lds g insn => Sys2Proof.Machine.execLds g insn s
  | .sts g insn => Sys2Proof.Machine.execSts g insn s
  | .pref g insn => Sys2Proof.Machine.execPref g insn s
  | .scopy g insn => Sys2Proof.Machine.execScopy g insn s
  | .scopyDone g => Sys2Proof.Machine.execScopyDone g s
  | .scwait g insn => Sys2Proof.Machine.execScwait g insn s
  | .atomAdd g insn => Sys2Proof.Machine.execAtomAdd g insn s
  | .atomMin g insn => Sys2Proof.Machine.execAtomMin g insn s
  | .atomMax g insn => Sys2Proof.Machine.execAtomMax g insn s
  | .atomAnd g insn => Sys2Proof.Machine.execAtomAnd g insn s
  | .atomOr g insn => Sys2Proof.Machine.execAtomOr g insn s
  | .atomXor g insn => Sys2Proof.Machine.execAtomXor g insn s
  | .atomExch g insn => Sys2Proof.Machine.execAtomExch g insn s
  | .atomCas g insn => Sys2Proof.Machine.execAtomCas g insn s
  | .nop g insn => Sys2Proof.Machine.execNop g insn s
  | .bra g insn => Sys2Proof.Machine.execBra g insn s
  | .brany g insn => Sys2Proof.Machine.execBrany g insn s
  | .brall g insn => Sys2Proof.Machine.execBrall g insn s
  | .callG g insn => Sys2Proof.Machine.execCallG g insn s
  | .retG g insn => Sys2Proof.Machine.execRetG g insn s
  | .mpush g insn => Sys2Proof.Machine.execMpush g insn s
  | .melse g insn => Sys2Proof.Machine.execMelse g insn s
  | .mpop g insn => Sys2Proof.Machine.execMpop g insn s
  | .mpushl g insn => Sys2Proof.Machine.execMpushl g insn s
  | .mbrk g insn => Sys2Proof.Machine.execMbrk g insn s
  | .elect g insn => Sys2Proof.Machine.execElect g insn s
  | .exitG g insn => Sys2Proof.Machine.execExitG g insn s
  | .mstackSpillDone g => Sys2Proof.Machine.execMstackSpillDone g s
  | .mstackRefillDone g => Sys2Proof.Machine.execMstackRefillDone g s
  | .illegalWord g w => Sys2Proof.Machine.execIllegalWord g w s
  | .blockResident r blk tile base slots => Sys2Proof.Machine.execBlockResident r blk tile base slots s
  | .noProgressExpiry g => Sys2Proof.Machine.execNoProgressExpiry g s
  | .arrayProgressExpiry tile arr => Sys2Proof.Machine.execArrayProgressExpiry tile arr s
  | .fence g insn => Sys2Proof.Machine.execFence g insn s
  | .fenceComplete g => Sys2Proof.Machine.execFenceComplete g s
  | .bar g insn => Sys2Proof.Machine.execBar g insn s
  | .waitne g insn => Sys2Proof.Machine.execWaitne g insn s
  | .waitneAnswer g => Sys2Proof.Machine.execWaitneAnswer g s
  | .waitResend g => Sys2Proof.Machine.execWaitResend g s
  | .hostWaitPoll g => Sys2Proof.Machine.execHostWaitPoll g s
  | .evsig g insn => Sys2Proof.Machine.execEvsig g insn s
  | .evwait g insn => Sys2Proof.Machine.execEvwait g insn s
  | .evwaitAnswer g => Sys2Proof.Machine.execEvwaitAnswer g s
  | .uwait g insn => Sys2Proof.Machine.execUwait g insn s
  | .uwaitComplete g => Sys2Proof.Machine.execUwaitComplete g s
  | .aload g insn => Sys2Proof.Machine.execAload g insn s
  | .astream g insn => Sys2Proof.Machine.execAstream g insn s
  | .gpair g insn => Sys2Proof.Machine.execGpair g insn s
  | .wdrain g insn => Sys2Proof.Machine.execWdrain g insn s
  | .wreduce g insn => Sys2Proof.Machine.execWreduce g insn s
  | .wacc g insn => Sys2Proof.Machine.execWacc g insn s
  | .wclr g insn => Sys2Proof.Machine.execWclr g insn s
  | .amode g insn => Sys2Proof.Machine.execAmode g insn s
  | .arrayInsnStart tile => Sys2Proof.Machine.execArrayInsnStart tile s
  | .arrayInsnComplete tile arr port => Sys2Proof.Machine.execArrayInsnComplete tile arr port s
  | .pdesc g insn => Sys2Proof.Machine.execPdesc g insn s
  | .pumpNearFetch tile pump => Sys2Proof.Machine.execPumpNearFetch tile pump s
  | .pumpFarPrefetch tile pump => Sys2Proof.Machine.execPumpFarPrefetch tile pump s
  | .pumpDeliver tile pump => Sys2Proof.Machine.execPumpDeliver tile pump s
  | .pumpWrite tile pump => Sys2Proof.Machine.execPumpWrite tile pump s
  | .pumpAdd tile pump => Sys2Proof.Machine.execPumpAdd tile pump s
  | .pumpDescComplete tile pump wr => Sys2Proof.Machine.execPumpDescComplete tile pump wr s
  | .rnd g insn => Sys2Proof.Machine.execRnd g insn s
  | .rkey g insn => Sys2Proof.Machine.execRkey g insn s
  | .strd g insn => Sys2Proof.Machine.execStrd g insn s
  | .stclr g insn => Sys2Proof.Machine.execStclr g insn s
  | .stadd g insn => Sys2Proof.Machine.execStadd g insn s
  | .cisternRead q dpa n => Sys2Proof.Machine.execCisternRead q dpa n s
  | .cisternWrite tile k => Sys2Proof.Machine.execCisternWrite tile k s
  | .cisternAtomic q dpa op fmt b c => Sys2Proof.Machine.execCisternAtomic q dpa op fmt b c s
  | .cisternWaitArrival g => Sys2Proof.Machine.execCisternWaitArrival g s
  | .cisternVictimWriteback chan set => Sys2Proof.Machine.execCisternVictimWriteback chan set s
  | .channelSlotGrant chan pc => Sys2Proof.Machine.execChannelSlotGrant chan pc s
  | .hbmRead line ecc => Sys2Proof.Machine.execHbmRead line ecc s
  | .hbmWriteback line ecc => Sys2Proof.Machine.execHbmWriteback line ecc s
  | .scrub line ecc => Sys2Proof.Machine.execScrub line ecc s
  | .hbmRefresh chan bank => Sys2Proof.Machine.execHbmRefresh chan bank s
  | .nopCommand r => Sys2Proof.Machine.execNopCommand r s
  | .launchCmd r => Sys2Proof.Machine.execLaunchCmd r s
  | .copyCmd r => Sys2Proof.Machine.execCopyCmd r s
  | .evtSignalSet r => Sys2Proof.Machine.execEvtSignalSet r s
  | .evtSignalInc r => Sys2Proof.Machine.execEvtSignalInc r s
  | .objRepair r => Sys2Proof.Machine.execObjRepair r s
  | .updRun r => Sys2Proof.Machine.execUpdRun r s
  | .updRunRefresh r => Sys2Proof.Machine.execUpdRunRefresh r s
  | .updSetStep r => Sys2Proof.Machine.execUpdSetStep r s
  | .updLayer spur => Sys2Proof.Machine.execUpdLayer spur s
  | .updLayerDone spur => Sys2Proof.Machine.execUpdLayerDone spur s
  | .schedRun r => Sys2Proof.Machine.execSchedRun r s
  | .schedRelease r => Sys2Proof.Machine.execSchedRelease r s
  | .schedCompletionCount r insn => Sys2Proof.Machine.execSchedCompletionCount r insn s
  | .collOpen r => Sys2Proof.Machine.execCollOpen r s
  | .collRun r => Sys2Proof.Machine.execCollRun r s
  | .collRunComplete r => Sys2Proof.Machine.execCollRunComplete r s
  | .collClose r => Sys2Proof.Machine.execCollClose r s
  | .collDeadline num shard => Sys2Proof.Machine.execCollDeadline num shard s
  | .contribResend num => Sys2Proof.Machine.execContribResend num s
  | .barrierResend num => Sys2Proof.Machine.execBarrierResend num s
  | .remoteSignal r => Sys2Proof.Machine.execRemoteSignal r s
  | .remoteSignalResend r => Sys2Proof.Machine.execRemoteSignalResend r s
  | .ckpBegin r => Sys2Proof.Machine.execCkpBegin r s
  | .ckpAbort r => Sys2Proof.Machine.execCkpAbort r s
  | .ckpRestore r manifest data => Sys2Proof.Machine.execCkpRestore r manifest data s
  | .ckpPageStageDone chan page => Sys2Proof.Machine.execCkpPageStageDone chan page s
  | .ckpDirectSaveDone chan page => Sys2Proof.Machine.execCkpDirectSaveDone chan page s
  | .ckpStreamWrite => Sys2Proof.Machine.execCkpStreamWrite s
  | .ckpStoreAck bytes => Sys2Proof.Machine.execCkpStoreAck bytes s
  | .ckpCommit => Sys2Proof.Machine.execCkpCommit s
  | .ckpFail cause => Sys2Proof.Machine.execCkpFail cause s
  | .roceRetryTimeout qp => Sys2Proof.Machine.execRoceRetryTimeout qp s
  | .commandFetch ctx queue => Sys2Proof.Machine.execCommandFetch ctx queue s
  | .commandStart r => Sys2Proof.Machine.execCommandStart r s
  | .commandComplete r => Sys2Proof.Machine.execCommandComplete r s
  | .contextLoss ctx code va info => Sys2Proof.Machine.execContextLoss ctx code va info s
  | .contextSwapOut ctx => Sys2Proof.Machine.execContextSwapOut ctx s
  | .contextSwapIn ctx => Sys2Proof.Machine.execContextSwapIn ctx s
  | .doorbell off size v => Sys2Proof.Machine.execDoorbell off size v s
  | .ctxCreate => Sys2Proof.Machine.execCtxCreate s
  | .ctxDestroy => Sys2Proof.Machine.execCtxDestroy s
  | .queueCreate => Sys2Proof.Machine.execQueueCreate s
  | .queueDestroy => Sys2Proof.Machine.execQueueDestroy s
  | .objCreate => Sys2Proof.Machine.execObjCreate s
  | .objFree => Sys2Proof.Machine.execObjFree s
  | .objExport => Sys2Proof.Machine.execObjExport s
  | .objImport => Sys2Proof.Machine.execObjImport s
  | .ctxQuery => Sys2Proof.Machine.execCtxQuery s
  | .xltInvRange v => Sys2Proof.Machine.execXltInvRange v s
  | .xltInvAll v => Sys2Proof.Machine.execXltInvAll v s
  | .xltInvDone => Sys2Proof.Machine.execXltInvDone s
  | .featAcceptWrite high v => Sys2Proof.Machine.execFeatAcceptWrite high v s
  | .featLock => Sys2Proof.Machine.execFeatLock s
  | .hifTblBaseWrite v => Sys2Proof.Machine.execHifTblBaseWrite v s
  | .bar4Read off n => Sys2Proof.Machine.execBar4Read off n s
  | .bar4Write off data => Sys2Proof.Machine.execBar4Write off data s
  | .bar4Atomic off op size b c => Sys2Proof.Machine.execBar4Atomic off op size b c s
  | .evrInterrupt => Sys2Proof.Machine.execEvrInterrupt s
  | .registerWrite off size v => Sys2Proof.Machine.execRegisterWrite off size v s
  | .preloadWriteDrop bar off => Sys2Proof.Machine.execPreloadWriteDrop bar off s
  | .loadClear => Sys2Proof.Machine.execLoadClear s
  | .loadAppend len => Sys2Proof.Machine.execLoadAppend len s
  | .loadStaged => Sys2Proof.Machine.execLoadStaged s
  | .loadCommitSlot => Sys2Proof.Machine.execLoadCommitSlot s
  | .loadCommitLoad => Sys2Proof.Machine.execLoadCommitLoad s
  | .loadReload => Sys2Proof.Machine.execLoadReload s
  | .portTrainingDone p lanes => Sys2Proof.Machine.execPortTrainingDone p lanes s
  | .portTrainingTimeout p => Sys2Proof.Machine.execPortTrainingTimeout p s
  | .linkHello p h keyOk => Sys2Proof.Machine.execLinkHello p h keyOk s
  | .linkAck p seq => Sys2Proof.Machine.execLinkAck p seq s
  | .linkNak p seq credits overrun => Sys2Proof.Machine.execLinkNak p seq credits overrun s
  | .linkCredit p credits => Sys2Proof.Machine.execLinkCredit p credits s
  | .signalLoss p => Sys2Proof.Machine.execSignalLoss p s
  | .linkRekey p => Sys2Proof.Machine.execLinkRekey p s
  | .frameForward p f => Sys2Proof.Machine.execFrameForward p f s
  | .linkHoldExpiry k => Sys2Proof.Machine.execLinkHoldExpiry k s
  | .memRd p f => Sys2Proof.Machine.execMemRd p f s
  | .memWr p f => Sys2Proof.Machine.execMemWr p f s
  | .memAtom p f => Sys2Proof.Machine.execMemAtom p f s
  | .memRsp p f => Sys2Proof.Machine.execMemRsp p f s
  | .rspTimeoutExpiry tag => Sys2Proof.Machine.execRspTimeoutExpiry tag s
  | .signalFrame p f => Sys2Proof.Machine.execSignalFrame p f s
  | .sigRsp p f => Sys2Proof.Machine.execSigRsp p f s
  | .barrierFrame p f => Sys2Proof.Machine.execBarrierFrame p f s
  | .contribFrame p f => Sys2Proof.Machine.execContribFrame p f s
  | .resultFrame p f => Sys2Proof.Machine.execResultFrame p f s
  | .nakFrame p f => Sys2Proof.Machine.execNakFrame p f s
  | .portRetrain p => Sys2Proof.Machine.execPortRetrain p s
  | .portDisable p on => Sys2Proof.Machine.execPortDisable p on s
  | .ethRxFrame p data bad => Sys2Proof.Machine.execEthRxFrame p data bad s
  | .ethTxrTailWrite p v => Sys2Proof.Machine.execEthTxrTailWrite p v s
  | .ethRxrHeadWrite p v => Sys2Proof.Machine.execEthRxrHeadWrite p v s
  | .rocePacket qp k => Sys2Proof.Machine.execRocePacket qp k s
  | .pfcWatchdog p => Sys2Proof.Machine.execPfcWatchdog p s
  | .pcieTlp t => Sys2Proof.Machine.execPcieTlp t s
  | .pcieCompletionTimeout ctx => Sys2Proof.Machine.execPcieCompletionTimeout ctx s
  | .ckpQpCtrlWrite q v => Sys2Proof.Machine.execCkpQpCtrlWrite q v s
  | .cisWinCtrlWrite w v => Sys2Proof.Machine.execCisWinCtrlWrite w v s
  | .cisWinRangeWrite w limit v => Sys2Proof.Machine.execCisWinRangeWrite w limit v s
  | .ownerEnroll => Sys2Proof.Machine.execOwnerEnroll s
  | .ownerRevoke => Sys2Proof.Machine.execOwnerRevoke s
  | .ptInstall => Sys2Proof.Machine.execPtInstall s
  | .ptWrite => Sys2Proof.Machine.execPtWrite s
  | .ptRelease => Sys2Proof.Machine.execPtRelease s
  | .measureRange => Sys2Proof.Machine.execMeasureRange s
  | .sealCtx => Sys2Proof.Machine.execSealCtx s
  | .getVersion sess req => Sys2Proof.Machine.execGetVersion sess req s
  | .getCapabilities sess req => Sys2Proof.Machine.execGetCapabilities sess req s
  | .negotiateAlgorithms sess req => Sys2Proof.Machine.execNegotiateAlgorithms sess req s
  | .getDigests sess req => Sys2Proof.Machine.execGetDigests sess req s
  | .getCertificate sess req => Sys2Proof.Machine.execGetCertificate sess req s
  | .spdmChallenge sess req => Sys2Proof.Machine.execSpdmChallenge sess req s
  | .getMeasurements sess index => Sys2Proof.Machine.execGetMeasurements sess index s
  | .keyExchange sess req => Sys2Proof.Machine.execKeyExchange sess req s
  | .spdmFinish sess req => Sys2Proof.Machine.execSpdmFinish sess req s
  | .endSession sess req => Sys2Proof.Machine.execEndSession sess req s
  | .spdmHeartbeat sess req => Sys2Proof.Machine.execSpdmHeartbeat sess req s
  | .keyUpdate sess req => Sys2Proof.Machine.execKeyUpdate sess req s
  | .setSecret sess ctx m key va data => Sys2Proof.Machine.execSetSecret sess ctx m key va data s
  | .keyProg sess => Sys2Proof.Machine.execKeyProg sess s
  | .kSetGo sess => Sys2Proof.Machine.execKSetGo sess s
  | .kSetStop sess => Sys2Proof.Machine.execKSetStop sess s
  | .powerEvaluation avg1 avg10 tj => Sys2Proof.Machine.execPowerEvaluation avg1 avg10 tj s
  | .opStepEnd => Sys2Proof.Machine.execOpStepEnd s
  | .fastPath => Sys2Proof.Machine.execFastPath s
  | .fastPathHoldEnd => Sys2Proof.Machine.execFastPathHoldEnd s
  | .thermalTrip => Sys2Proof.Machine.execThermalTrip s
  | .refLoss => Sys2Proof.Machine.execRefLoss s
  | .refRestored => Sys2Proof.Machine.execRefRestored s
  | .pwrLimitWrite v => Sys2Proof.Machine.execPwrLimitWrite v s
  | .pwrHostVoteWrite insn v => Sys2Proof.Machine.execPwrHostVoteWrite insn v s
  | .idleTimerExpiry d => Sys2Proof.Machine.execIdleTimerExpiry d s
  | .sleepTimerExpiry d => Sys2Proof.Machine.execSleepTimerExpiry d s
  | .lowStateEntry d => Sys2Proof.Machine.execLowStateEntry d s
  | .domainEntryDone d => Sys2Proof.Machine.execDomainEntryDone d s
  | .wakeDomain d => Sys2Proof.Machine.execWakeDomain d s
  | .wakeEvent d => Sys2Proof.Machine.execWakeEvent d s
  | .wakeStageReady d => Sys2Proof.Machine.execWakeStageReady d s
  | .wakeStageTimeout d => Sys2Proof.Machine.execWakeStageTimeout d s
  | .offEntry => Sys2Proof.Machine.execOffEntry s
  | .wakePin => Sys2Proof.Machine.execWakePin s
  | .pwrPartReset v => Sys2Proof.Machine.execPwrPartReset v s
  | .partResetDone => Sys2Proof.Machine.execPartResetDone s
  | .powerOn => Sys2Proof.Machine.execPowerOn s
  | .resetPin => Sys2Proof.Machine.execResetPin s
  | .resetPinRelease => Sys2Proof.Machine.execResetPinRelease s
  | .perstAssert => Sys2Proof.Machine.execPerstAssert s
  | .hotReset => Sys2Proof.Machine.execHotReset s
  | .flr => Sys2Proof.Machine.execFlr s
  | .inputOvervoltage => Sys2Proof.Machine.execInputOvervoltage s
  | .inputPowerLoss => Sys2Proof.Machine.execInputPowerLoss s
  | .clearAll => Sys2Proof.Machine.execClearAll s
  | .detLogSelWrite v => Sys2Proof.Machine.execDetLogSelWrite v s
  | .detLogReadDone => Sys2Proof.Machine.execDetLogReadDone s
  | .injCtrlArm j v => Sys2Proof.Machine.execInjCtrlArm j v s
  | .injCtrlDisarm j v => Sys2Proof.Machine.execInjCtrlDisarm j v s
  | .monitorRxError rx => Sys2Proof.Machine.execMonitorRxError rx s
  | .monId => Sys2Proof.Machine.execMonId s
  | .monStatus => Sys2Proof.Machine.execMonStatus s
  | .monBaud rate => Sys2Proof.Machine.execMonBaud rate s
  | .monCnt insn => Sys2Proof.Machine.execMonCnt insn s
  | .monCntAll => Sys2Proof.Machine.execMonCntAll s
  | .monCntclr insn => Sys2Proof.Machine.execMonCntclr insn s
  | .monLog n => Sys2Proof.Machine.execMonLog n s
  | .monMarks => Sys2Proof.Machine.execMonMarks s
  | .monInjArm j point unit periodic skip period limit => Sys2Proof.Machine.execMonInjArm j point unit periodic skip period limit s
  | .monInjOff insn => Sys2Proof.Machine.execMonInjOff insn s
  | .monInjList => Sys2Proof.Machine.execMonInjList s
  | .monTileRd off n => Sys2Proof.Machine.execMonTileRd off n s
  | .monTileWr off v => Sys2Proof.Machine.execMonTileWr off v s
  | .monMarkclr insn => Sys2Proof.Machine.execMonMarkclr insn s
  | .shadowRead a => Sys2Proof.Machine.execShadowRead a s
  | .mbrkSpillEditDone g => Sys2Proof.Machine.execMbrkSpillEditDone g s
  | .perstRelease => Sys2Proof.Machine.execPerstRelease s
  | .pcieLinkUp => Sys2Proof.Machine.execPcieLinkUp s
  | .mrefPresent => Sys2Proof.Machine.execMrefPresent s
  | .overvoltageRestart => Sys2Proof.Machine.execOvervoltageRestart s
  | .identHeartbeat tj => Sys2Proof.Machine.execIdentHeartbeat tj s
  | .fecLockLost p => Sys2Proof.Machine.execFecLockLost p s
  | .malformedFrame p f => Sys2Proof.Machine.execMalformedFrame p f s
  | .ethLink p on => Sys2Proof.Machine.execEthLink p on s
  | .pfcPauseFrame p on => Sys2Proof.Machine.execPfcPauseFrame p on s
  | .pfcPauseCeased p => Sys2Proof.Machine.execPfcPauseCeased p s
  | .ethRingInterrupt p tx => Sys2Proof.Machine.execEthRingInterrupt p tx s
  | .monitorUnknownCommand => Sys2Proof.Machine.execMonitorUnknownCommand s

end Sys2Proof.Machine
end

