-- ==== Sys2Proof/Safety.lean ====
section
/-!
DEFINITION. What statements are made of: a safe step answers a next state, so nothing the spec gives an effect stops the module;
the result of an instruction that writes lane registers; and what a command leaves unchanged.
-/
namespace Sys2Proof.Machine

/-- An outcome that is a next state. -/
def goesOn (o : Host.Outcome State Fault Refusal) : Prop := ∃ t, o = .next t

/-- The command completes at `s`, and what stands after it meets `P`. -/
def Runs (c : Instr) (s : State) (P : State → Prop) : Prop := ∃ t, exec c s = .next t ∧ P t

/-- No injector is armed, and no upset lies in a store (R270, R430): every store is read as it stands. -/
abbrev Calm (s : State) : Prop := s.armed = [] ∧ s.upsets = []

/-- Group `g` is resident as `gr` and may issue, in a module that is calm. -/
abbrev Ready (s : State) (g : GRef) (gr : Group) : Prop := Calm s ∧ s.ready g = some gr

/-- What issue itself changes (R46, R49, R314): the tile's fetched line and kept registers, and that the context has worked; and `gr'` stands for the
group. -/
def Issued (s : State) (g : GRef) (gr : Group) (fm : Form) (i : Insn) (gr' : Group) (t : State) : Prop :=
  t = (s.issued g gr.pc.toNat (regUses fm i)).putGroup g gr'

/-- The result of an instruction that writes `n` registers from `d` in every active lane and leaves the program counter at `pc`: lane l
gets the pieces of `v l`, lowest first; every other register, and everything of the group but its program counter, is unchanged; and
nothing else in the module changes but what issue changes (R52, R56). -/
def LaneWroteAt (s : State) (g : GRef) (gr : Group) (fm : Form) (i : Insn) (n : Nat) (pc : BitVec 64) (v : Nat → Nat) (t : State) : Prop :=
  ∃ gr', Issued s g gr fm i gr' t ∧ gr'.pc = pc ∧ { gr' with pc := gr.pc, regs := gr.regs } = gr ∧
    ∀ l r, l < 32 → r < 128 → gr'.rd l r =
      if gr.m.getLsbD l ∧ regNum i.d ≤ r ∧ r < regNum i.d + n then BitVec.ofNat 32 (v l >>> (32 * (r - regNum i.d))) else gr.rd l r

/-- As `LaneWroteAt`, going to the next word. -/
abbrev LaneWrote (s : State) (g : GRef) (gr : Group) (fm : Form) (i : Insn) (n : Nat) (v : Nat → Nat) (t : State) : Prop :=
  LaneWroteAt s g gr fm i n (gr.pc + 8) v t

/-- The class and operation of the instruction words (Tables 2.4 to 2.12, 3.3, 4.2, 5.8, 6.7, 7.9), with the group and the other fields. -/
def insnWord : Instr → Option (GRef × Nat × Nat × Insn)
  | .iadd g i => some (g, 0, 0, i)
  | .isub g i => some (g, 0, 1, i)
  | .imul g i => some (g, 0, 2, i)
  | .imulhi g i => some (g, 0, 3, i)
  | .imad g i => some (g, 0, 4, i)
  | .imin g i => some (g, 0, 5, i)
  | .imax g i => some (g, 0, 6, i)
  | .iabs g i => some (g, 0, 7, i)
  | .andB g i => some (g, 0, 8, i)
  | .orB g i => some (g, 0, 9, i)
  | .xorB g i => some (g, 0, 10, i)
  | .shl g i => some (g, 0, 11, i)
  | .shr g i => some (g, 0, 12, i)
  | .rotl g i => some (g, 0, 13, i)
  | .popc g i => some (g, 0, 14, i)
  | .clz g i => some (g, 0, 15, i)
  | .brev g i => some (g, 0, 16, i)
  | .iset g i => some (g, 0, 17, i)
  | .sel g i => some (g, 0, 18, i)
  | .mov g i => some (g, 0, 19, i)
  | .movhi g i => some (g, 0, 20, i)
  | .fadd g i => some (g, 1, 0, i)
  | .fsub g i => some (g, 1, 1, i)
  | .fmul g i => some (g, 1, 2, i)
  | .ffma g i => some (g, 1, 3, i)
  | .fmin g i => some (g, 1, 4, i)
  | .fmax g i => some (g, 1, 5, i)
  | .fabs g i => some (g, 1, 6, i)
  | .fneg g i => some (g, 1, 7, i)
  | .fset g i => some (g, 1, 8, i)
  | .frcp g i => some (g, 1, 9, i)
  | .frsq g i => some (g, 1, 10, i)
  | .fsqrt g i => some (g, 1, 11, i)
  | .fexp2 g i => some (g, 1, 12, i)
  | .flog2 g i => some (g, 1, 13, i)
  | .fsinpi g i => some (g, 1, 14, i)
  | .fcospi g i => some (g, 1, 15, i)
  | .cvt g i => some (g, 2, 0, i)
  | .cvtPk g i => some (g, 2, 1, i)
  | .cvtUpk g i => some (g, 2, 2, i)
  | .vote g i => some (g, 3, 0, i)
  | .bcast g i => some (g, 3, 1, i)
  | .shfl g i => some (g, 3, 2, i)
  | .s2r g i => some (g, 3, 3, i)
  | .ld g i => some (g, 4, 0, i)
  | .st g i => some (g, 4, 1, i)
  | .lds g i => some (g, 4, 2, i)
  | .sts g i => some (g, 4, 3, i)
  | .pref g i => some (g, 4, 4, i)
  | .scopy g i => some (g, 4, 5, i)
  | .scwait g i => some (g, 4, 6, i)
  | .atomAdd g i => some (g, 5, 0, i)
  | .atomMin g i => some (g, 5, 1, i)
  | .atomMax g i => some (g, 5, 2, i)
  | .atomAnd g i => some (g, 5, 3, i)
  | .atomOr g i => some (g, 5, 4, i)
  | .atomXor g i => some (g, 5, 5, i)
  | .atomExch g i => some (g, 5, 6, i)
  | .atomCas g i => some (g, 5, 7, i)
  | .nop g i => some (g, 6, 0x00, i)
  | .bra g i => some (g, 6, 0x01, i)
  | .brany g i => some (g, 6, 0x02, i)
  | .brall g i => some (g, 6, 0x03, i)
  | .callG g i => some (g, 6, 0x04, i)
  | .retG g i => some (g, 6, 0x05, i)
  | .mpush g i => some (g, 6, 0x10, i)
  | .melse g i => some (g, 6, 0x11, i)
  | .mpop g i => some (g, 6, 0x12, i)
  | .mpushl g i => some (g, 6, 0x13, i)
  | .mbrk g i => some (g, 6, 0x14, i)
  | .elect g i => some (g, 6, 0x20, i)
  | .exitG g i => some (g, 6, 0x3F, i)
  | .fence g i => some (g, 7, 0, i)
  | .bar g i => some (g, 7, 1, i)
  | .waitne g i => some (g, 7, 2, i)
  | .evsig g i => some (g, 7, 3, i)
  | .evwait g i => some (g, 7, 4, i)
  | .uwait g i => some (g, 7, 5, i)
  | .aload g i => some (g, 8, 0, i)
  | .astream g i => some (g, 8, 1, i)
  | .gpair g i => some (g, 8, 2, i)
  | .wdrain g i => some (g, 8, 3, i)
  | .wreduce g i => some (g, 8, 4, i)
  | .wacc g i => some (g, 8, 5, i)
  | .wclr g i => some (g, 8, 6, i)
  | .amode g i => some (g, 8, 7, i)
  | .pdesc g i => some (g, 9, 0, i)
  | .rnd g i => some (g, 10, 0, i)
  | .rkey g i => some (g, 10, 1, i)
  | .strd g i => some (g, 11, 0, i)
  | .stclr g i => some (g, 11, 1, i)
  | .stadd g i => some (g, 11, 2, i)
  | _ => none

/-- The new word of an atomic of Table 2.11 on old word, B and C, as bit vectors of the format's width. -/
def atomWord (op fmt : Nat) (a b c : Nat) : Nat :=
  let w := bitsOfFmt fmt
  let x := BitVec.ofNat w a
  let y := BitVec.ofNat w b
  let lt := if signedFmt fmt then x.slt y else x.ult y
  match op with
  | 0 =>
    if fmt = 4 then fF32.encode 0 false (fAdd 0 (fF32.decode a) (fF32.decode b))
    else if fmt = 5 then fF64.encode 0 false (fAdd 0 (fF64.decode a) (fF64.decode b))
    else (x + y).toNat
  | 1 => if lt then a else b
  | 2 => if lt then b else a
  | 3 => (x &&& y).toNat
  | 4 => (x ||| y).toNat
  | 5 => (x ^^^ y).toNat
  | 6 => b
  | _ => if a = b then c else a

/-- A product of two finite elements times 2^-`sh` in units 2^(`beta` - 95), truncated toward zero, and whether a part was lost (R149). -/
def productUnits (beta : Int) (sh : Nat) (x w : FVal) : Int × Bool :=
  match x, w with
  | .fin n m e, .fin n' m' e' =>
    let k := e + e' - sh + 95 - beta
    let q := if 0 ≤ k then m * m' * 2 ^ k.toNat else m * m' / 2 ^ (-k).toNat
    (if n == n' then (q : Int) else -(q : Int), decide (k < 0) && decide (m * m' % 2 ^ (-k).toNat ≠ 0))
  | _, _ => (0, false)

/-- The translation caches hold the entry that the tables hold for an address of a context, and it puts the address at `a` of target `tgt`
(0 device memory, 1 another module's memory, 2 the host's): translating it changes nothing (R315 to R317, R348). -/
def MapsTo (s : State) (ctx va : Nat) (acc : Access) (tgt a : Nat) : Prop :=
  ∃ x : XlatEntry, s.cached (BitVec.ofNat 16 ((s.asidOf (some ctx)).getD 0)) va = some x ∧
    (s.walk ctx va).1 = .leaf x.leaf x.log2 ∧ leafFor x.leaf x.log2 va acc = .ok tgt a ∧ (tgt = 1 → s.ownWindow a = false)

/-- The cistern `ch` of the line of `dpa` holds `n` bytes from there, of one line, unpoisoned and none of them the device's own, and a request of `o`
for a context may reach them, every domain on its way at RUN and no other request of the line before it (R253, R254, R272, R308, R388, R414). -/
def HeldNear (s : State) (o : Owner) (ctx : Option Nat) (dpa n ch : Nat) (l : CLine) : Prop :=
  dpa % 128 + n ≤ 128 ∧ (s.lineHome (dpa / 128)).map (·.1) = some ch ∧ (s.cistern ch).lineOf (dpa / 128) = some l ∧
  (∀ k < n, (Tbl.find l.bytes (dpa % 128 + k)).isSome) ∧ l.poison = false ∧ tagDenied (s.reqTag ctx) l.tag = false ∧
  (∀ k < n, s.deviceOwn (dpa + k) = false) ∧ s.reachDoms (wayTo o (ch / 64)) = .ok ∧ s.heldBefore o ctx (dpa / 128) = false

/-- The lanes perform an atomic of Table 2.11 one after another on a memory `m`, each where `place` says and none where it says none (R60): the old
word that each finds, and the memory after the last. -/
def AtomsInOrder (op f : Nat) (lanes : List Nat) (place : Nat → Option Nat) (b c old : Nat → Nat) (m m' : Nat → BitVec 8) : Prop :=
  ∃ ms : Nat → Nat → BitVec 8, ms 0 = m ∧ ms lanes.length = m' ∧ ∀ j l, lanes[j]? = some l →
    match place l with
    | none => ms (j + 1) = ms j
    | some a =>
      old l = leVal ((List.range (4 * regsOf f)).map fun k => ms j (a + k)) ∧
      ∀ x, ms (j + 1) x = if a ≤ x ∧ x < a + 4 * regsOf f then BitVec.ofNat 8 (atomWord op f (old l) (b l) (c l) >>> (8 * (x - a))) else ms j x

/-- A port is UP, its I/O die is at RUN, and its receive buffer has room for a frame (R339, R341, R414). -/
abbrev Takes (s : State) (p : Nat) (f : Frame) : Prop :=
  s.portState p = 3 ∧ s.portAwake p = true ∧ frameUnits f ≤ (s.vcFree p).getD f.vc.toNat 0

/-- A well-formed frame for this module that the link received whole and in sequence, and for which there is room, stands on an UP port, in a module
that is calm. -/
abbrev Arrives (s : State) (p : Nat) (f : Frame) : Prop :=
  Calm s ∧ Takes s p f ∧ frameBad f = false ∧ f.dst.toNat = s.node ∧ f.wire = .good

/-- `t` stands after the answer of `typ` to a frame, as `u` stands: an answer to another module leaves, or finds no route and counts as refused, and
one to this module is delivered here by `own` (R343, R345). -/
def Answers (u : State) (f : Frame) (typ : BitVec 4) (args : Nat) (payload : List (BitVec 8)) (own : State → Frame → State) (t : State) : Prop :=
  ∃ g : Frame, g.typ = typ ∧ g.dst = f.src ∧ g.tag = f.tag ∧ g.args = BitVec.ofNat 128 args ∧ g.payload = payload ∧
    (f.src.toNat = u.node → t = own u g) ∧
    (f.src.toNat ≠ u.node → (∀ w, u.send true g = (none, w) → t = w) ∧ ∀ e w, u.send true g = (some e, w) → t = w.det detRdgNakSent)

/-- Host memory and device memory stand in their canonical form. -/
def MemoriesOk (s : State) : Prop := s.mem.host.wf = true ∧ s.mem.hbm.wf = true

/-- Every cistern holds only lines of its own, each once, with bytes of the line; a clean line's bytes are those that its
channel controller reads from HBM; and a line that carries a tag in HBM carries it in its cistern. -/
def CisternsOk (s : State) : Prop :=
  ∀ n, ((s.cistern n).lines.map (·.line)).Nodup ∧ ∀ l ∈ (s.cistern n).lines, (∃ set pg, s.lineHome l.line = some (n, set, pg)) ∧
    Tbl.rising l.bytes = true ∧ (∀ e ∈ l.bytes, e.1 < 128) ∧
    (l.dirty = false → ∀ e ∈ l.bytes, e.2 = s.hbmByte (128 * l.line + e.1)) ∧
    (Tbl.getD s.mem.tags l.line 0 ≠ 0 → l.tag = Tbl.getD s.mem.tags l.line 0)

end Sys2Proof.Machine
end

