-- ==== Sys2Proof/Certificates/Slice0/Obligations.lean ====
section
/-!
DEFINITION. The statements about the model for the provers, by family of commands.
-/
section
open Sys2Proof Sys2Proof.Machine

/-! ## The queue of commands and the state after reset -/

/-- A step takes the command at the front of the queue and is exec of it with the queue's rest; on an empty queue nothing is commanded, and
at most one upset comes to a store or datapath (log 1: the model's own form of taking commands; log 45). No command stops the machine: every one
has a next state. -/
def Obligations.StepRunsTheFront : Prop :=
  (∀ (c : Instr) (rest : List Instr) (s : State), step { s with pending := c :: rest } = exec c { s with pending := rest }) ∧
  (∀ s : State, s.pending = [] → ∃ (n : Nat) (new : List Upset), step s = .next { s with fresh := n, upsets := s.upsets ++ new } ∧ new.length ≤ 1) ∧
  (∀ (c : Instr) (s : State), ∃ t, exec c s = .next t)

/-- After reset every register of Tables 10.15 to 16.6 reads its reset value (R11), nothing waits, nothing is resident, no injector
is armed, no upset lies in a store, no command has been sent, nothing is listed in host memory, in HBM or in any cistern, and the invariants of the statements `MemoriesStayCanonical` and
`CisternsHoldMemory` hold.

The values that the spec does not give for reset are the model's (log 4 to log 8). -/
def Obligations.ResetState : Prop :=
  (∀ off, State.reset.reg off = regReset off) ∧ State.reset.pending = [] ∧ State.reset.tiles = [] ∧ State.reset.armed = [] ∧
  State.reset.out = [] ∧ State.reset.hif.ctxs = [] ∧ State.reset.hif.objs = [] ∧ State.reset.load.img = none ∧
  State.reset.upsets = [] ∧ State.reset.mem.host = [] ∧ State.reset.mem.hbm = [] ∧ State.reset.mem.cis = [] ∧
  (∀ a, Memory.read State.reset.mem.host a = 0 ∧ State.reset.hbmByte a = 0) ∧ MemoriesOk State.reset ∧ CisternsOk State.reset ∧
  State.reset.pwr.phase = .bringUp

/-- Every step keeps host memory and device memory in their canonical form: addresses strictly rise and no zero byte is listed, whatever command
is taken.

The form, and zero for an unlisted byte, are the model's (log 8). -/
def Obligations.MemoriesStayCanonical : Prop :=
  ∀ s t : State, MemoriesOk s → step s = .next t → MemoriesOk t

/-! ## Instruction words -/

/-- R54: a group that may issue executes an illegal word of any class and operation as a no-operation, counted in DET_ILLEGAL_INSN;
nothing else changes but what issue changes. A word spells the command of its class and operation, with its fields, and no other; what a group
executes at a legal word is that command, and at any other word the illegal word. -/
def Obligations.IllegalWordsAreCountedNops : Prop :=
  (∀ (c : Instr) (s : State) (g : GRef) (gr : Group) (cls op : Nat) (i : Insn), insnWord c = some (g, cls, op, i) →
    Ready s g gr → ∃ fm, s.formOf g cls op i = some fm ∧
      (fm.ok i = false → exec c s = .next (((s.issued g gr.pc.toNat []).putGroup g { gr with pc := gr.pc + 8 }).det detIllegalInsn))) ∧
  (∀ (s : State) (g : GRef) (gr : Group) (w : BitVec 64), Ready s g gr →
    (s.formOf g (clsOf w) (opOf w) (insnOf w) = none ∨ ∃ fm, s.formOf g (clsOf w) (opOf w) (insnOf w) = some fm ∧ fm.ok (insnOf w) = false) →
    exec (.illegalWord g w) s = .next (((s.issued g gr.pc.toNat []).putGroup g { gr with pc := gr.pc + 8 }).det detIllegalInsn)) ∧
  (∀ (g : GRef) (w : BitVec 64) (c : Instr), wordCommand g w = some c ↔ insnWord c = some (g, clsOf w, opOf w, insnOf w)) ∧
  (∀ (s : State) (g : GRef) (w : BitVec 64), (∀ fm, s.formOf g (clsOf w) (opOf w) (insnOf w) = some fm → fm.ok (insnOf w) = true →
      insnWord (s.wordInstr g w) = some (g, clsOf w, opOf w, insnOf w)) ∧
    (s.wordIllegal g w = true → s.wordInstr g w = .illegalWord g w))

/-- R56, Table 2.6: the results of the integer instructions in every active lane, as bit vectors of the format's width; no other
register of the group and nothing else of the module changes but the program counter and what issue changes.

R58, R144, Table 2.8: CVT between integers wraps after widening to 64 bits; from a float to an integer it rounds as MOD[1:0] says and
saturates, and NaN gives 0; to a float it rounds once; CVT.PK packs element i from register A + i, saturating to S8, and leaves the
bits above the last element zero; CVT.UPK unpacks every element exactly.

The formats of MOV are the reading of log 41; which MOD bits a conversion to an integer uses is the reading of log 32. -/
def Obligations.IntegerAndConversionResults : Prop :=
  (∀ (s : State) (g : GRef) (gr : Group) (i : Insn), Ready s g gr →
    let f := i.fmt.toNat
    let n := regsOf f
    let w := bitsOfFmt f
    let sg := signedFmt f
    let a := fun l => BitVec.ofNat w (opVal gr l n i.a)
    let b := fun l => BitVec.ofNat w (bVal gr i l n (immSigned f))
    let k := fun l => bVal gr i l 1 false % 128
    let lt := fun l => if sg then (a l).slt (b l) else (a l).ult (b l)
    let runs := fun (c : Instr) (fm : Form) (n : Nat) (v : Nat → Nat) => fm.ok i = true → Runs c s (LaneWrote s g gr fm i n v)
    runs (.iadd g i) (formDAB intFmts i) n (fun l => (a l + b l).toNat) ∧
    runs (.isub g i) (formDAB intFmts i) n (fun l => (a l - b l).toNat) ∧
    runs (.imul g i) (formDAB intFmts i) n (fun l => (a l * b l).toNat) ∧
    runs (.imulhi g i) (formDAB intFmts i) n (fun l =>
      if sg then (((a l).signExtend (2 * w) * (b l).signExtend (2 * w)).extractLsb' w w).toNat
      else (((a l).setWidth (2 * w) * (b l).setWidth (2 * w)).extractLsb' w w).toNat) ∧
    runs (.imad g i) (formDABC intFmts i) n (fun l =>
      (a l * BitVec.ofNat w (opVal gr l n i.b) + BitVec.ofNat w (opVal gr l n i.c)).toNat) ∧
    runs (.imin g i) (formDAB intFmts i) n (fun l => if lt l then (a l).toNat else (b l).toNat) ∧
    runs (.imax g i) (formDAB intFmts i) n (fun l => if lt l then (b l).toNat else (a l).toNat) ∧
    runs (.iabs g i) (formDA [1, 3] i) n (fun l => (a l).abs.toNat) ∧
    runs (.andB g i) (formDAB [0, 2] i) n (fun l => (a l &&& b l).toNat) ∧
    runs (.orB g i) (formDAB [0, 2] i) n (fun l => (a l ||| b l).toNat) ∧
    runs (.xorB g i) (formDAB [0, 2] i) n (fun l => (a l ^^^ b l).toNat) ∧
    runs (.shl g i) (formShift [0, 2] i) n (fun l => (a l <<< k l).toNat) ∧
    runs (.shr g i) (formShift intFmts i) n (fun l => if sg then ((a l).sshiftRight (k l)).toNat else (a l >>> k l).toNat) ∧
    runs (.rotl g i) (formDAB [0] i) n (fun l => ((a l).rotateLeft ((b l).toNat % 32)).toNat) ∧
    runs (.popc g i) (formDA [0, 2] i) n (fun l => (a l).cpop.toNat) ∧
    runs (.clz g i) (formDA [0, 2] i) n (fun l => (a l).clz.toNat) ∧
    runs (.brev g i) (formDA [0, 2] i) n (fun l => (a l).reverse.toNat) ∧
    runs (.iset g i) (formIset i) 1 (fun l =>
      let holds := match i.mod.toNat with
        | 0 => a l == b l
        | 1 => a l != b l
        | 2 => lt l
        | 3 => lt l || a l == b l
        | 4 => !(lt l || a l == b l)
        | _ => !lt l
      if holds then 1 else 0) ∧
    runs (.sel g i) (formSel i) n (fun l => if gr.rd l (regNum i.c) ≠ 0 then (a l).toNat else opVal gr l n i.b) ∧
    runs (.mov g i) (formMov i) n (fun l =>
      if i.imm then (if immSigned f then ((imm16 i).signExtend w).toNat else (imm16 i).toNat) else (a l).toNat) ∧
    runs (.movhi g i) (formMovhi i) 1 (fun l => (imm16 i ++ (gr.rd l (regNum i.d)).extractLsb' 0 16).toNat)) ∧
  (∀ (s : State) (g : GRef) (gr : Group) (i : Insn), Ready s g gr →
    let f := i.fmt.toNat
    let src := i.ext.toNat
    let m := i.mod.toNat % 4
    let sat := i.mod.getLsbD 2
    let a := fun l => opVal gr l (regsOf src) i.a
    ((formCvt i).ok i = true →
      (f < 4 → src < 4 → Runs (.cvt g i) s (LaneWrote s g gr (formCvt i) i (regsOf f) fun l =>
        let x := BitVec.ofNat (bitsOfFmt src) (a l)
        ((if signedFmt src then x.signExtend 64 else x.setWidth 64).setWidth (bitsOfFmt f)).toNat)) ∧
      (f < 4 → 4 ≤ src → Runs (.cvt g i) s (LaneWrote s g gr (formCvt i) i (regsOf f) fun l =>
        match laneVal src (a l) with
        | .nan => 0
        | .inf neg => wrapN (bitsOfFmt f) (if neg then (intRange f).1 else (intRange f).2)
        | .fin neg k e => wrapN (bitsOfFmt f) (clampI (intRange f).1 (intRange f).2 (roundInt m neg k e)))) ∧
      (4 ≤ f → Runs (.cvt g i) s (LaneWrote s g gr (formCvt i) i (regsOf f) fun l =>
        (if f = 4 then fF32 else fF64).encode m sat (laneVal src (a l))))) ∧
    ((formCvtPk i).ok i = true → ∃ v : Nat → Nat, Runs (.cvtPk g i) s (LaneWrote s g gr (formCvtPk i) i 1 v) ∧
      ∀ l, v l < 2 ^ (packBits f * packCount f) ∧ ∀ k, k < packCount f → bitsOf (v l) (packBits f * k) (packBits f) =
        (let x := (gr.rd l (regNum i.a + k)).toNat
        if f = 13 then wrapN 8 (clampI (-128) 127 (sVal 32 x)) else (packFmt f).encode m sat (fF32.decode x))) ∧
    ((formCvtUpk i).ok i = true → ∃ v : Nat → Nat, Runs (.cvtUpk g i) s (LaneWrote s g gr (formCvtUpk i) i (packCount src) v) ∧
      ∀ l k, k < packCount src → bitsOf (v l) (32 * k) 32 =
        (let x := bitsOf (gr.rd l (regNum i.a)).toNat (packBits src * k) (packBits src)
        if src = 13 then wrapN 32 (sVal 8 x) else fF32.encode 0 false ((packFmt src).decode x))))

/-- R56, R142 to R144, Table 2.7: each element of the results of the floating-point instructions in every active lane: one rounding of
the exact result in the direction MOD names (minima and maxima to nearest even), the sign bit alone for FABS and FNEG, and 0 or 1
for FSET; nothing else changes but the program counter and what issue changes.

FSET NE of an unordered pair with MOD[3] = 0 is a choice of log 43. -/
def Obligations.FloatResults : Prop :=
  ∀ (s : State) (g : GRef) (gr : Group) (i : Insn), Ready s g gr →
    let f := i.fmt.toNat
    let n := regsOf f
    let e := floatFmt f
    let w := e.width
    let m := i.mod.toNat % 4
    let a := fun l => opVal gr l n i.a
    let b := fun l => bVal gr i l n true
    let x := fun l k => e.decode (elemAt w k (a l))
    let y := fun l k => e.decode (elemAt w k (b l))
    let z := fun l k => e.decode (elemAt w k (opVal gr l n i.c))
    let elems := fun (c : Instr) (fm : Form) (r : Nat → Nat → Nat) => fm.ok i = true →
      ∃ v : Nat → Nat, Runs c s (LaneWrote s g gr fm i n v) ∧ ∀ l k, k < floatCount f → elemAt w k (v l) = r l k % 2 ^ w
    elems (.fadd g i) (formFloat i false true) (fun l k => e.encode m false (fAdd m (x l k) (y l k))) ∧
    elems (.fsub g i) (formFloat i false true) (fun l k => e.encode m false (fAdd m (x l k) (fNeg (y l k)))) ∧
    elems (.fmul g i) (formFloat i false true) (fun l k => e.encode m false (fMul (x l k) (y l k))) ∧
    elems (.ffma g i) (formFloat i true true) (fun l k =>
      e.encode m false (fAdd m (fMul (x l k) (e.decode (elemAt w k (opVal gr l n i.b)))) (z l k))) ∧
    elems (.fmin g i) (formFloat i false false) (fun l k => e.encode 0 false (fMin (x l k) (y l k))) ∧
    elems (.fmax g i) (formFloat i false false) (fun l k => e.encode 0 false (fMax (x l k) (y l k))) ∧
    elems (.fabs g i) (formDA floatFmts i) (fun l k => elemAt w k (a l) % 2 ^ (w - 1)) ∧
    elems (.fneg g i) (formDA floatFmts i) (fun l k => elemAt w k (a l) ^^^ 2 ^ (w - 1)) ∧
    ((formFset i).ok i = true → Runs (.fset g i) s (LaneWrote s g gr (formFset i) i 1 fun l =>
      if e.decode (a l) = .nan ∨ e.decode (b l) = .nan then (if i.mod.getLsbD 3 then 1 else 0)
      else b2n (condOf (i.mod.toNat % 8) (fLt (e.decode (a l)) (e.decode (b l))) (fEq (e.decode (a l)) (e.decode (b l))))))

/-- R57, R142: each approximate function is a function of its operand's bits alone, whatever the state; it gives the canonical NaN for
a NaN, and where R57's bound applies a value within the bound or the correctly rounded one; nothing else changes but the program
counter and what issue changes. The device's own bits within the bound are an open function (log 15). -/
def Obligations.ApproximateFunctions : Prop :=
  ∀ p ∈ ([(Instr.frcp, 9, [4, 5]), (Instr.frsq, 10, [4, 5]), (Instr.fsqrt, 11, [4]), (Instr.fexp2, 12, [4]), (Instr.flog2, 13, [4]),
      (Instr.fsinpi, 14, [4]), (Instr.fcospi, 15, [4])] : List ((GRef → Insn → Instr) × Nat × List Nat)),
    ∀ wide : Bool, ∃ F : Nat → Nat,
      let e := if wide then fF64 else fF32
      (∀ (s : State) (g : GRef) (gr : Group) (i : Insn), Ready s g gr → i.fmt.toNat = (if wide then 5 else 4) →
        (formDA p.2.2 i).ok i = true →
        Runs (p.1 g i) s (LaneWrote s g gr (formDA p.2.2 i) i (if wide then 2 else 1) fun l => F (opVal gr l (if wide then 2 else 1) i.a))) ∧
      (∀ a, e.decode a = .nan → F a = e.nanCode) ∧
      (∀ a neg m ex x, e.decode a = .fin neg m ex → approxExact p.2.1 neg m ex = some x →
        F a = e.encode 0 false x.toF ∨ (if wide then withinRel e (F a) x else withinUlps e (F a) x ⟨1, -170⟩) = true)

/-- R56, R65, Table 2.9: VOTE, BCAST, SHFL and ELECT in every active lane.

Table 2.9, R30: S2R reads the special register its number names, in every active lane; TCYC rises by an open amount (log 17).

R221 to R223, Table 7.9: RND writes the four words of CG-412 under the group's key, for each active lane, as numbers or in F32; RKEY
sets the key from the lowest active lane.

The formats of VOTE, BCAST and SHFL, and register B of the last two, are choices of log 43; reserved numbers of S2R are one of log 48. -/
def Obligations.CrossLaneSpecialAndRandomResults : Prop :=
  (∀ (s : State) (g : GRef) (gr : Group) (i : Insn), Ready s g gr →
    let n := regsOf i.fmt.toNat
    let act := gr.lanes
    let set := act.filter fun l => gr.rd l (regNum i.a) ≠ 0
    let cand := if i.mod.getLsbD 0 then set else act
    ((formVote i).ok i = true → ∃ v : Nat → Nat, Runs (.vote g i) s (LaneWrote s g gr (formVote i) i 1 v) ∧ ∀ l ∈ act,
      (i.mod = 0 → v l = if set = [] then 0 else 1) ∧ (i.mod = 1 → v l = if set = act then 1 else 0) ∧
      (i.mod = 2 → ∀ k < 32, (v l).testBit k = decide (k ∈ set))) ∧
    ((formShuffle i).ok i = true →
      Runs (.bcast g i) s (LaneWrote s g gr (formShuffle i) i n fun _ =>
        opVal gr (bVal gr i (act.headD 0) 1 (immSigned i.fmt.toNat) % 32) n i.a) ∧
      Runs (.shfl g i) s (LaneWrote s g gr (formShuffle i) i n fun l =>
        opVal gr (bVal gr i l 1 (immSigned i.fmt.toNat) % 32) n i.a)) ∧
    ((formElect i).ok i = true → Runs (.elect g i) s (LaneWrote s g gr (formElect i) i 1 fun l =>
      match cand with
      | [] => if i.mod.getLsbD 1 then 0xFFFFFFFF else 0
      | k :: _ => if i.mod.getLsbD 1 then k else if k = l then 1 else 0))) ∧
  (∀ (s : State) (g : GRef) (gr : Group) (b : Block) (i : Insn), Ready s g gr → s.blockOf g gr = some b → (formS2r i).ok i = true →
    let num := (imm16 i).toNat
    (num ≠ 11 → Runs (.s2r g i) s (LaneWrote s g gr (formS2r i) i 1 fun l =>
      [l, g.slot, gr.rank, b.groups, b.x, b.y, b.z, g.tile % 64, g.tile / 64, spurOfTile g.tile, crestOfTile g.tile, 0, gr.l.toNat,
        gr.m.toNat, gr.stack.length + gr.spilled].getD num 0)) ∧
    (num = 11 → Runs (.s2r g i) s fun t => ∃ gr' b', t.group g = some gr' ∧ t.blockOf g gr' = some b' ∧
      b' = { b with tcyc := b.tcyc + Config.freeValue s.fresh } ∧ t.fresh = s.fresh + 1 ∧ gr'.pc = gr.pc + 8 ∧
      (∀ l r, l < 32 → r < 128 → gr'.rd l r = if gr.m.getLsbD l ∧ regNum i.d ≤ r ∧ r < regNum i.d + 2 then
        BitVec.ofNat 32 (b'.tcyc.toNat >>> (32 * (r - regNum i.d))) else gr.rd l r))) ∧
  (∀ (s : State) (g : GRef) (gr : Group) (i : Insn), Ready s g gr →
    ((formRnd i).ok i = true → ∃ v : Nat → Nat, Runs (.rnd g i) s (LaneWrote s g gr (formRnd i) i 4 v) ∧ ∀ l k, k < 4 →
      let o := (cg412 gr.key (gr.rd l (regNum i.a)) ((gr.rd l (regNum i.b)).setWidth 16 ++ (gr.rd l (regNum i.a + 1)).setWidth 16)
        (gr.rd l (regNum i.c)) (gr.rd l (regNum i.c + 1))).getD k 0
      bitsOf (v l) (32 * k) 32 = if i.fmt = 4 then fF32.encode 0 false (.fin false (o.toNat / 256) (-24)) else o.toNat) ∧
    ((formRkey i).ok i = true → exec (.rkey g i) s = .next ((s.issued g gr.pc.toNat (regUses (formRkey i) i)).putGroup g
      { gr with pc := gr.pc + 8, key := gr.rd (gr.lanes.headD 0) (regNum i.a + 1) ++ gr.rd (gr.lanes.headD 0) (regNum i.a) })))

/-! ## Control and the mask stack -/

/-- R55, Table 2.12: the whole group goes to the target (the next word, the branch target, or the lowest active lane's A with its low
three bits clear), and CALL gives every active lane the address of the next word. -/
def Obligations.ControlTransfers : Prop :=
  ∀ (s : State) (g : GRef) (gr : Group) (i : Insn), Ready s g gr →
    let tgt := gr.pc + 8 * (i.ext ++ (i.b ++ i.c)).signExtend 64
    let on := fun l => decide (gr.rd l (regNum i.a) ≠ 0)
    let goes := fun (c : Instr) (fm : Form) (pc : BitVec 64) =>
      fm.ok i = true → Runs c s (Issued s g gr fm i { gr with pc := pc })
    goes (.nop g i) (formCtl i 0 0 false) (gr.pc + 8) ∧
    goes (.bra g i) (formCtl i 0 0 true) tgt ∧
    goes (.brany g i) (formCtl i 0 1 true) (if gr.lanes.any on then tgt else gr.pc + 8) ∧
    goes (.brall g i) (formCtl i 0 1 true) (if gr.lanes.all on then tgt else gr.pc + 8) ∧
    ((formCtl i 2 0 true).ok i = true →
      Runs (.callG g i) s (LaneWroteAt s g gr (formCtl i 2 0 true) i 2 tgt fun _ => (gr.pc + 8).toNat)) ∧
    (gr.m ≠ 0 → goes (.retG g i) (formCtl i 0 2 false)
      ((gr.rd (gr.lanes.headD 0) (regNum i.a + 1) ++ gr.rd (gr.lanes.headD 0) (regNum i.a)) &&& ~~~7#64))

/-- R61: MPUSH, MPUSHL, MELSE, MPOP, MBRK and EXIT on the hardware entries of the mask stack, where no entry spills or comes back: the
active and live masks, the entries and the program counter after each.

R62 to R64: a pop, MELSE or MBRK against an empty stack, or MBRK without a loop entry in hardware or spilled, is a counted no-operation; a
push with sixteen hardware entries spills the eight oldest to the group's area and waits for the spill; a push that would spill beyond the area
stops the group, counted, its timer running on; a pop that leaves no hardware entry brings back up to eight of the spilled ones and waits for
them; MBRK whose loop entry is spilled edits the hardware entries and the spilled ones above it, leaves the other spilled ones as they were,
waits only where it edits spilled ones, and goes on at the top entry where no lane is left active; and the end of a spill, a refill or an edit
lets the group issue again. -/
def Obligations.MaskStackSteps : Prop :=
  (∀ (s : State) (g : GRef) (gr : Group) (i : Insn), Ready s g gr →
    let tgt := gr.pc + 8 * (i.ext ++ (i.b ++ i.c)).signExtend 64
    let c := lanesNonzero gr (regNum i.a)
    let after := fun (fm : Form) (gr' : Group) => (s.issued g gr.pc.toNat (regUses fm i)).putGroup g gr'
    ((formCtl i 0 1 true).ok i = true → gr.stack.length < 16 → exec (.mpush g i) s = .next (after (formCtl i 0 1 true)
      { gr with
        stack := ⟨gr.m, gr.m &&& ~~~c, tgt, false⟩ :: gr.stack
        m := if c ≠ 0 then c else gr.m
        pc := if c ≠ 0 then gr.pc + 8 else tgt })) ∧
    ((formCtl i 0 0 true).ok i = true → gr.stack.length < 16 → exec (.mpushl g i) s = .next (after (formCtl i 0 0 true)
      { gr with stack := ⟨gr.m, 0, tgt, true⟩ :: gr.stack, pc := gr.pc + 8 })) ∧
    (∀ e es, (formCtl i 0 0 true).ok i = true → gr.stack = e :: es → exec (.melse g i) s = .next (after (formCtl i 0 0 true)
      (if e.els &&& gr.l ≠ 0 then { gr with m := e.els &&& gr.l, stack := { e with els := 0, rpc := tgt } :: es, pc := gr.pc + 8 }
      else { gr with stack := { e with rpc := tgt } :: es, pc := tgt }))) ∧
    (∀ e es, (formCtl i 0 0 false).ok i = true → gr.stack = e :: es → es ≠ [] ∨ gr.spilled = 0 → e.outer &&& gr.l ≠ 0 →
      exec (.mpop g i) s = .next (after (formCtl i 0 0 false) { gr with m := e.outer &&& gr.l, stack := es, pc := gr.pc + 8 })) ∧
    (∀ e e2 es, (formCtl i 0 0 false).ok i = true → gr.stack = e :: e2 :: es → e.outer &&& gr.l = 0 →
      exec (.mpop g i) s = .next (after (formCtl i 0 0 false) { gr with m := 0, stack := e2 :: es, pc := e2.rpc })) ∧
    (∀ es e rest, (formCtl i 0 1 false).ok i = true → gr.stack = es ++ e :: rest → (∀ x ∈ es, x.loop = false) → e.loop = true →
      exec (.mbrk g i) s = .next (after (formCtl i 0 1 false)
        (let st := es.map (fun x => { x with outer := x.outer &&& ~~~c, els := x.els &&& ~~~c }) ++ e :: rest
        { gr with
          m := gr.m &&& ~~~c
          stack := st
          pc := if gr.m &&& ~~~c = 0 then (st.headD e).rpc else gr.pc + 8 }))) ∧
    (∀ e es, (formCtl i 0 0 false).ok i = true → gr.stack = e :: es → exec (.exitG g i) s = .next (after (formCtl i 0 0 false)
      { gr with l := gr.l &&& ~~~gr.m, m := 0, pc := e.rpc })) ∧
    ((formCtl i 0 0 false).ok i = true → gr.stack = [] → exec (.exitG g i) s = .next
      ((s.issued g gr.pc.toNat (regUses (formCtl i 0 0 false) i)).endGroup g { gr with l := gr.l &&& ~~~gr.m, m := 0 }))) ∧
  ((∀ (s : State) (g : GRef) (gr : Group) (i : Insn), Ready s g gr →
    let noOp := fun (fm : Form) =>
      ((s.issued g gr.pc.toNat (regUses fm i)).putGroup g { gr with pc := gr.pc + 8 }).det detMstackUnderflow
    (gr.stack = [] →
      ((formCtl i 0 0 true).ok i = true → exec (.melse g i) s = .next (noOp (formCtl i 0 0 true))) ∧
      ((formCtl i 0 0 false).ok i = true → exec (.mpop g i) s = .next (noOp (formCtl i 0 0 false)))) ∧
    ((formCtl i 0 1 false).ok i = true → gr.spilled = 0 → (∀ e ∈ gr.stack, e.loop = false) →
      exec (.mbrk g i) s = .next (noOp (formCtl i 0 1 false))) ∧
    (∀ b, (formCtl i 0 1 false).ok i = true → s.blockOf g gr = some b → (∀ e ∈ gr.stack, e.loop = false) →
      (∀ e ∈ spilledAt (s.tile g.tile).scratch (b.spillBase gr.rank) 0 gr.spilled, e.loop = false) →
      exec (.mbrk g i) s = .next (noOp (formCtl i 0 1 false)))) ∧
  (∀ (s : State) (g : GRef) (gr : Group) (b : Block) (i : Insn), Ready s g gr → gr.stack.length = 16 → s.blockOf g gr = some b →
    (formCtl i 0 0 true).ok i = true →
    (gr.spilled + 8 ≤ 8 * b.spillUnits → Runs (.mpushl g i) s fun t => ∃ gr', t.group g = some gr' ∧ gr'.wait = .spill ∧
      gr'.stack = ⟨gr.m, 0, gr.pc + 8 * (i.ext ++ (i.b ++ i.c)).signExtend 64, true⟩ :: gr.stack.take 8 ∧
      gr'.spilled = gr.spilled + 8 ∧ gr'.pc = gr.pc + 8 ∧
      (t.tile g.tile).scratch = spillWrite (s.tile g.tile).scratch (b.spillBase gr.rank) gr.spilled (gr.stack.drop 8).reverse) ∧
    (8 * b.spillUnits < gr.spilled + 8 → exec (.mpushl g i) s = .next (State.holdTimer s
      (((s.issued g gr.pc.toNat (regUses (formCtl i 0 0 true) i)).putGroup g { gr with wait := .overflow }).det detMstackOverflow) g))) ∧
  (∀ (s u : State) (g : GRef) (v : Nat), Tbl.find (s.tile g.tile).timers g.slot = some v →
    Tbl.find ((State.holdTimer s u g).tile g.tile).timers g.slot = some v) ∧
  (∀ (s : State) (g : GRef) (gr : Group) (b : Block) (i : Insn), Ready s g gr → s.blockOf g gr = some b → 0 < gr.spilled →
    let k := min 8 gr.spilled
    (∀ e, gr.stack = [e] → e.outer &&& gr.l ≠ 0 → (formCtl i 0 0 false).ok i = true → Runs (.mpop g i) s fun t => ∃ gr',
      t.group g = some gr' ∧ gr'.wait = .refill ∧ gr'.spilled = gr.spilled - k ∧ gr'.m = e.outer &&& gr.l ∧ gr'.pc = gr.pc + 8 ∧
      gr'.stack = (spilledAt (s.tile g.tile).scratch (b.spillBase gr.rank) (gr.spilled - k) k).reverse) ∧
    (let deep := (spilledAt (s.tile g.tile).scratch (b.spillBase gr.rank) 0 gr.spilled).reverse
    let c := lanesNonzero gr (regNum i.a)
    let cut := fun (x : MEntry) => { x with outer := x.outer &&& ~~~c, els := x.els &&& ~~~c }
    let above := (deep.takeWhile fun x => !x.loop).length
    (∀ x ∈ gr.stack, x.loop = false) → (∃ x ∈ deep, x.loop = true) → gr.stack ≠ [] → (formCtl i 0 1 false).ok i = true →
      Runs (.mbrk g i) s fun t => ∃ gr', t.group g = some gr' ∧ gr'.spilled = gr.spilled ∧ gr'.m = gr.m &&& ~~~c ∧
        gr'.pc = (if gr.m &&& ~~~c = 0 then (gr.stack.headD default).rpc else gr.pc + 8) ∧ gr'.stack = gr.stack.map cut ∧
        (gr'.wait = .edit ↔ 0 < above) ∧
        (spilledAt (t.tile g.tile).scratch (b.spillBase gr.rank) 0 gr.spilled).reverse = (deep.take above).map cut ++ deep.drop above ∧
        ∀ a, (∀ j < gr.spilled, a < b.spillBase gr.rank + 16 * j ∨ b.spillBase gr.rank + 16 * j + 16 ≤ a) →
          Memory.read (t.tile g.tile).scratch a = Memory.read (s.tile g.tile).scratch a)) ∧
  (∀ (s : State) (g : GRef) (gr : Group), s.group g = some gr →
    (gr.wait = .spill → exec (.mstackSpillDone g) s = .next ((s.restart g).putGroup g { gr with wait := .ready })) ∧
    (gr.wait = .refill → exec (.mstackRefillDone g) s = .next ((s.restart g).putGroup g { gr with wait := .ready })) ∧
    (gr.wait = .edit → exec (.mbrkSpillEditDone g) s = .next (s.putGroup g { gr with wait := .ready }))))

/-! ## Scratch, loads and stores -/

/-- R47, R51, Table 2.10: LDS gives each active lane the bytes at its scratch address, extended as the width says; STS leaves in scratch,
at every address, the byte of the highest active lane that covers it, and every other byte as it was; and a lane beyond the block's
visible allocation loses the context with PAGE_FAULT. The words name a scope that fits (R80).

R59, R89: SCOPY takes the bytes of the source range of the group's block for the block of the same launch on the tile named; its
completion writes them there, whichever came first; SCWAIT waits while any of the group's copies is in flight.

R60, R81, Table 2.11: the active lanes of an atomic, in ascending order, each find an old word and leave the new one in its place, which a
later lane sees; a lane that is not aligned is left out and counted; D gets the old word in each lane performed; every other byte, and every
other register, is as it was. On scratch, inside the block's allocation; on global memory, for words in device memory that cisterns hold, once the
tile's earlier stores are performed.

That SCOPY takes its bytes at issue is the reading of log 20; its IMM16, and its block where several stand on the target, are choices of log
43; scratch nothing has written reads zero (log 8). -/
def Obligations.ScratchAccessAndCopies : Prop :=
  (∀ (s : State) (g : GRef) (gr : Group) (b : Block) (i : Insn), Ready s g gr → s.blockOf g gr = some b →
    (i.mod.toNat % 4 = 0 ∨ i.mod.toNat / 4 % 4 < 2) →
    let f := i.fmt.toNat
    let n := widthBytes f
    let at_ := fun l => scratchAddr gr i l
    let m := (s.tile g.tile).scratch
    let inside := ∀ l ∈ gr.lanes, at_ l + n ≤ b.visible
    ((formMem i [0, 1] 1 false).ok i = true → inside →
      Runs (.lds g i) s (LaneWrote s g gr (formMem i [0, 1] 1 false) i (widthRegs f) fun l =>
        let v := leVal (Memory.reads m (b.base + at_ l) n)
        if f = 1 then ((BitVec.ofNat 8 v).signExtend 32).toNat
        else if f = 3 then ((BitVec.ofNat 16 v).signExtend 32).toNat
        else v)) ∧
    ((formMem i [0, 2] 1 false).ok i = true → inside → ∃ m' : Memory,
      (let S := s.issued g gr.pc.toNat (regUses (formMem i [0, 2] 1 false) i)
      exec (.sts g i) s = .next ((S.setTile g.tile ({ S.tile g.tile with scratch := m' }.judgeWaits)).putGroup g { gr with pc := gr.pc + 8 })) ∧
      ∀ a, Memory.read m' a =
        match gr.lanes.reverse.find? fun l => decide (b.base + at_ l ≤ a) && decide (a < b.base + at_ l + n) with
        | some l => BitVec.ofNat 8 (Group.rdN (widthRegs f) gr l (regNum i.d) >>> (8 * (a - (b.base + at_ l))))
        | none => Memory.read m a) ∧
    ((formMem i [0, 1] 1 false).ok i = true → ¬inside → exec (.lds g i) s =
      .next ((s.issued g gr.pc.toNat (regUses (formMem i [0, 1] 1 false) i)).loseGroup g gr stPageFault 0))) ∧
  ((∀ (s : State) (g : GRef) (gr : Group) (b b2 : Block) (i : Insn), Ready s g gr → s.blockOf g gr = some b → gr.m ≠ 0 →
    (formScopy i).ok i = true →
    let l := gr.lanes.headD 0
    let src := (gr.rd l (regNum i.a)).toNat
    let dst := (gr.rd l (regNum i.d)).toNat
    let n := bVal gr i l 1 false
    let dest := tileOfSpur (spurOfTile g.tile) (i.ext.toNat % 16)
    let S := s.issued g gr.pc.toNat (regUses (formScopy i) i)
    n % 32 = 0 → src % 32 = 0 → dst % 32 = 0 → (s.tile dest).siblings b = [b2] →
    src + n ≤ b.visible → dst + n ≤ b2.visible →
    exec (.scopy g i) s = .next ((S.setTile g.tile { S.tile g.tile with scopys := (S.tile g.tile).scopys ++
      [⟨g.slot, ⟨b.cmd, b.num, gr.rank⟩, dest, b2.base + dst, Memory.reads (s.tile g.tile).scratch (b.base + src) n⟩] }).putGroup g { gr with pc := gr.pc + 8 })) ∧
  (∀ (s : State) (g : GRef) (gr : Group) (x : Scopy), s.group g = some gr → gr.wait ≠ .scwait →
    ((s.tile g.tile).scopys.find? fun x => x.slot = g.slot) = some x → x.dstTile ≠ g.tile →
    (∃ b ∈ (s.tile x.dstTile).blocks, b.2.cmd = x.gid.cmd ∧ b.2.base ≤ x.dst ∧ x.dst + x.data.length ≤ b.2.base + b.2.visible) →
    Runs (.scopyDone g) s fun t => (t.tile g.tile).scopys = (s.tile g.tile).scopys.erase x ∧ t.mem = s.mem ∧ t.regs = s.regs ∧
      ∀ a, Memory.read (t.tile x.dstTile).scratch a =
        if x.dst ≤ a ∧ a < x.dst + x.data.length then x.data.getD (a - x.dst) 0 else Memory.read (s.tile x.dstTile).scratch a) ∧
  (∀ (s : State) (g : GRef) (gr : Group) (i : Insn), Ready s g gr → (formScwait i).ok i = true →
    Runs (.scwait g i) s fun t => ∃ gr', t.group g = some gr' ∧
      gr' = { gr with
        pc := gr.pc + 8
        wait := if (s.tile g.tile).scopys.all (fun x => decide (x.slot ≠ g.slot) || !s.isGroup g x.gid) then .ready else .scwait })) ∧
  (∀ p ∈ ([(Instr.atomAdd, 0), (Instr.atomMin, 1), (Instr.atomMax, 2), (Instr.atomAnd, 3), (Instr.atomOr, 4), (Instr.atomXor, 5),
      (Instr.atomExch, 6), (Instr.atomCas, 7)] : List ((GRef → Insn → Instr) × Nat)),
    ∀ (s : State) (g : GRef) (gr : Group) (b : Block) (i : Insn), Ready s g gr → s.blockOf g gr = some b → (formAtom p.2 i).ok i = true →
      let f := i.fmt.toNat
      let n := regsOf f
      let opB := fun l => bVal gr i l n (immSigned f)
      let opC := fun l => opVal gr l n i.c
      let done := fun (addr : Nat → Nat) (old : Nat → Nat) (t : State) =>
        (∃ gr', t.group g = some gr' ∧ gr'.pc = gr.pc + 8 ∧ { gr' with pc := gr.pc, regs := gr.regs } = gr ∧
          ∀ k r, k < 32 → r < 128 → gr'.rd k r =
            if gr.m.getLsbD k ∧ addr k % (4 * n) = 0 ∧ regNum i.d ≤ r ∧ r < regNum i.d + n then
              BitVec.ofNat 32 (old k >>> (32 * (r - regNum i.d))) else gr.rd k r) ∧
        t.regs = ((gr.lanes.filter fun l => addr l % (4 * n) ≠ 0).foldl (fun (u : State) _ => u.det detAtomMisaligned) s).regs
      (i.ext.getLsbD 0 = true → (i.mod.toNat % 4 = 0 ∨ i.mod.toNat / 4 % 4 < 2) →
        let addr := fun l => (gr.rd l (regNum i.a)).toNat
        (∀ l ∈ gr.lanes, addr l % (4 * n) = 0 → addr l + 4 * n ≤ b.visible) →
        Runs (p.1 g i) s fun t => ∃ old, done addr old t ∧ t.mem = s.mem ∧
          AtomsInOrder p.2 f gr.lanes (fun l => if addr l % (4 * n) = 0 then some (b.base + addr l) else none) opB opC old
            (Memory.read (s.tile g.tile).scratch) (Memory.read (t.tile g.tile).scratch)) ∧
      (i.ext.getLsbD 0 = false → ∀ (at_ ch : Nat → Nat) (ln : Nat → CLine),
        let addr := fun l => (gr.rd64 l (regNum i.a)).toNat
        let c := s.ctxOf g gr
        (∀ l ∈ gr.lanes, addr l % (4 * n) = 0 → MapsTo s c (addr l) .write 0 (at_ l) ∧ s.writeWaits (at_ l / 128) = false ∧
          HeldNear s (.group g.tile g.slot) (some c) (at_ l) (4 * n) (ch l) (ln l)) →
        (s.tile g.tile).storeQ = [] → s.tileBoardBusy g.tile = false →
        Runs (p.1 g i) s fun t => ∃ old, done addr old t ∧ t.mem.hbm = s.mem.hbm ∧ t.mem.host = s.mem.host ∧
          AtomsInOrder p.2 f gr.lanes (fun l => if addr l % (4 * n) = 0 then some (at_ l) else none) opB opC old s.devByte t.devByte))

/-- Table 2.10, R48, R84: a load of sectors that the tile's L1 holds gives each active lane its bytes, the newest byte that the store
queue holds before the L1's, extended as the width says, and changes neither memory nor registers; a prefetch of such sectors changes
nothing. A load or prefetch of other sectors goes on once the memory system answers, a load with the bytes answered. The memory system answers a
read of a unit for a context, and takes its write, where the bytes lie in one line that its cistern holds unpoisoned, with its tag and the domains
on the way at RUN, none of them is the device's own, no request of the line stands before it, and its page takes the write (R254, R308, R364, R388,
R414).

R48, R51, R84: a plain store whose lines translate enters the tile's store queue, one entry at its end for each line it reaches, in which
every byte is that of the highest active lane that reaches it; device memory, host memory, registers and the group's own registers
do not change yet.

That only lines of the module's own memory stay in an L1 is the reading of log 19; PREF with hint 01 or 11 and the L1's index are choices of
log 43. -/
def Obligations.GlobalLoadsAndStores : Prop :=
  (∀ (s : State) (g : GRef) (gr : Group) (i : Insn), Ready s g gr →
    let f := i.fmt.toNat
    let n := widthBytes f
    let c := s.ctxOf g gr
    let tl := s.tile g.tile
    let loaded := fun (rd : Nat → BitVec 8) (t : State) => ∃ gr', t.group g = some gr' ∧ gr'.pc = gr.pc + 8 ∧
      { gr' with pc := gr.pc, regs := gr.regs } = gr ∧
      ∀ l r, l < 32 → r < 128 → gr'.rd l r = if gr.m.getLsbD l ∧ regNum i.d ≤ r ∧ r < regNum i.d + widthRegs f then
        (let v := leVal ((List.range n).map fun k => rd (globalAddr gr i l + k))
        let x := if f = 1 then ((BitVec.ofNat 8 v).signExtend 32).toNat
          else if f = 3 then ((BitVec.ofNat 16 v).signExtend 32).toNat else v
        BitVec.ofNat 32 (x >>> (32 * (r - regNum i.d)))) else gr.rd l r
    (∀ at_ : Nat → Nat, (∀ p ∈ touched (laneAccesses gr i), MapsTo s c (128 * p.1) .read 0 (at_ p.1) ∧
        tagDenied (s.reqTag (some c)) (s.lineTag (at_ p.1 / 128)) = false ∧ ∀ k ∈ p.2, tl.l1Has (at_ p.1 / 128) k = true) →
      let rd := fun va => (tl.queued 0 (at_ (va / 128) / 128) (va % 128)).getD ((tl.l1Byte (at_ (va / 128) / 128) (va % 128)).getD 0)
      ((formMem i [0, 1] 2 true).ok i = true →
        Runs (.ld g i) s fun t => loaded rd t ∧ t.mem = s.mem ∧ t.regs = s.regs ∧ (t.tile g.tile).storeQ = tl.storeQ) ∧
      ((formPref i).ok i = true → Runs (.pref g i) s fun t => t.group g = some { gr with pc := gr.pc + 8 } ∧ t.mem = s.mem ∧ t.regs = s.regs ∧
        (t.tile g.tile).storeQ = tl.storeQ ∧ ∀ line k, (t.tile g.tile).l1Has line k = tl.l1Has line k)) ∧
    (∀ (rd : Nat → BitVec 8) (t1 : State),
      let ask := fun (u : State) => u.loadGlobal g c (i.ext.toNat % 4) (laneAccesses gr i)
      (∀ u, ask s ≠ .stall u) →
      ((formMem i [0, 1] 2 true).ok i = true →
        ask (s.issued g gr.pc.toNat (regUses (formMem i [0, 1] 2 true) i)) = .ok rd t1 → Runs (.ld g i) s (loaded rd)) ∧
      ((formPref i).ok i = true → ask (s.issued g gr.pc.toNat (regUses (formPref i) i)) = .ok rd t1 →
        exec (.pref g i) s = .next (t1.putGroup g { gr with pc := gr.pc + 8 }))) ∧
    (∀ (o : Owner) (va m dpa ch : Nat) (ln : CLine), Calm s → 0 < m → HeldNear s o (some c) dpa m ch ln →
      let bs := (List.range m).map fun k => (Tbl.find ln.bytes (dpa % 128 + k)).getD 0
      (MapsTo s c va .read 0 dpa → (∃ t, s.vKeep o c (plainReq (some c)) va m = .ok bs t) ∧ ∃ t, s.vRead o c (plainReq (some c)) va m = .ok bs t) ∧
      (MapsTo s c va .write 0 dpa → s.writeWaits (dpa / 128) = false → ∀ new : List (BitVec 8), new.length = m →
        ∃ t, s.vWrite o c (plainReq (some c)) va new = .ok () t ∧ t.devBytes dpa m = new))) ∧
  (∀ (s : State) (g : GRef) (gr : Group) (i : Insn) (at_ : Nat → Nat × Nat), Ready s g gr →
    (formMem i [0, 2] 2 true).ok i = true → i.mod = 0 →
    (∀ p ∈ touched (laneAccesses gr i), MapsTo s (s.ctxOf g gr) (128 * p.1) .write (at_ p.1).1 (at_ p.1).2) →
    let n := widthBytes i.fmt.toNat
    Runs (.st g i) s fun t => t.mem = s.mem ∧ t.regs = s.regs ∧ t.group g = some { gr with pc := gr.pc + 8 } ∧
      ∃ qs : List QStore, (t.tile g.tile).storeQ = (s.tile g.tile).storeQ ++ qs ∧ (qs.map fun q => (q.tgt, q.line)).Nodup ∧
        (∀ q ∈ qs, q.slot = g.slot ∧ q.ctx = s.ctxOf g gr ∧ q.hint = i.ext.toNat % 4 ∧ q.rel = false) ∧
        ∀ tgt line off, off < 128 →
          ((qs.find? fun q => decide (q.tgt = tgt) && decide (q.line = line)).bind fun q => Tbl.find q.bytes off) =
            gr.lanes.reverse.findSome? fun l => ((List.range n).find? fun k =>
              let va := globalAddr gr i l + k
              decide ((at_ (va / 128)).1 = tgt) && decide ((at_ (va / 128)).2 / 128 = line) && decide (va % 128 = off)).map fun k =>
                BitVec.ofNat 8 (Group.rdN (widthRegs i.fmt.toNat) gr l (regNum i.d) >>> (8 * k)))

/-! ## Atomics -/

/-- R60: where every active lane of an atomic has an address that is not a multiple of the width, each is counted in DET_ATOM_MISALIGNED and left
out, on scratch and in global memory: no memory and no register changes.

R98: a WAITNE whose address is not a multiple of its word's width, in scratch or in global memory, completes at once, reads no memory,
leaves D unchanged, and is counted once in DET_ATOM_MISALIGNED. -/
def Obligations.MisalignedAccessesAreCounted : Prop :=
  (∀ p ∈ ([(Instr.atomAdd, 0), (Instr.atomMin, 1), (Instr.atomMax, 2), (Instr.atomAnd, 3), (Instr.atomOr, 4), (Instr.atomXor, 5),
      (Instr.atomExch, 6), (Instr.atomCas, 7)] : List ((GRef → Insn → Instr) × Nat)),
    ∀ (s : State) (g : GRef) (gr : Group) (b : Block) (i : Insn), Ready s g gr → s.blockOf g gr = some b → (formAtom p.2 i).ok i = true →
      (i.ext.getLsbD 0 = true ∨ ((s.tile g.tile).storeQ = [] ∧ s.tileBoardBusy g.tile = false)) →
      (∀ l ∈ gr.lanes, (if i.ext.getLsbD 0 then (gr.rd l (regNum i.a)).toNat else (gr.rd64 l (regNum i.a)).toNat) %
        (4 * regsOf i.fmt.toNat) ≠ 0) →
      Runs (p.1 g i) s fun t => t.group g = some { gr with pc := gr.pc + 8 } ∧
        (t.tile g.tile).scratch = (s.tile g.tile).scratch ∧ t.mem = s.mem ∧
        t.regs = (gr.lanes.foldl (fun (u : State) _ => u.det detAtomMisaligned) s).regs) ∧
  (∀ (s : State) (g : GRef) (gr : Group) (b : Block) (i : Insn), Ready s g gr → s.blockOf g gr = some b → (formWaitne i).ok i = true →
    gr.m ≠ 0 →
    let l := gr.lanes.headD 0
    let n := if i.fmt.toNat = 2 then 2 else 1
    let S := s.issued g gr.pc.toNat (regUses (formWaitne i) i)
    (if i.ext.getLsbD 0 then (gr.rd l (regNum i.a)).toNat else (gr.rd64 l (regNum i.a)).toNat) % (4 * n) ≠ 0 →
    exec (.waitne g i) s = .next ((S.putGroup g { gr with pc := gr.pc + 8 }).det detAtomMisaligned))

/-! ## Fences, barrier, waits and events -/

/-- R79, R93: FENCE waits for its scope and goes on once the group's earlier accesses are performed as far as the scope reaches; BAR waits
until every live group of the block has arrived, and the last arrival lets all of them go on and starts the next generation.

R78, R80, R100, R330: EVSIG at device or system scope with an aligned address and a valid value, once the tile's earlier stores are
performed, sets the event in device memory that its cistern holds and goes on, and with a misaligned address or an invalid value is
counted and changes nothing; EVWAIT on an aligned address leaves the group waiting on the event, or gives all ones where the address is not
aligned; and what a signal does to an event word (Table 11.19): SET raises it and never lowers it, INC adds and saturates, poisoning
sets the poison bit, and nothing changes a poisoned word.

An operation that waits is presented again (log 3). -/
def Obligations.FencesBarriersAndEvents : Prop :=
  ((∀ (s : State) (g : GRef) (gr : Group) (i : Insn), Ready s g gr → (formFence i).ok i = true →
    Runs (.fence g i) s (Issued s g gr (formFence i) i { gr with pc := gr.pc + 8, wait := .fence (i.mod.toNat / 4) })) ∧
  (∀ (s : State) (g : GRef) (gr : Group) (k : Nat), s.group g = some gr → gr.wait = .fence k →
    (let mine := (s.tile g.tile).storeQ.filter fun e => decide (e.slot = g.slot) && s.isGroup g e.gid
    k < 2 ∨ (k = 2 ∧ mine = []) ∨ (3 ≤ k ∧ mine = [] ∧ s.boardBusy (.store g.tile g.slot) = false)) →
    exec (.fenceComplete g) s = .next ((s.restart g).putGroup g { gr with wait := .ready })) ∧
  (∀ (s : State) (g : GRef) (gr : Group) (b : Block) (i : Insn), Ready s g gr → (formBar i).ok i = true → gr.m ≠ 0 →
    s.blockOf g gr = some b →
    let others := (s.tile g.tile).groups.filter fun e => decide (e.2.block = gr.block) && decide (e.1 ≠ g.slot)
    ((∃ e ∈ others, e.1 ∉ b.arrived) → Runs (.bar g i) s fun t =>
      t.group g = some { gr with pc := gr.pc + 8, wait := .barrier } ∧
      t.blockOf g gr = some { b with arrived := g.slot :: b.arrived, ordering := b.ordering || decide (i.mod = 0) }) ∧
    ((∀ e ∈ others, e.1 ∈ b.arrived) → Runs (.bar g i) s fun t =>
      t.group g = some { gr with pc := gr.pc + 8, wait := .ready } ∧
      t.blockOf g gr = some { b with arrived := [], ordering := false, gen := b.gen + 1 }))) ∧
  ((∀ (s : State) (g : GRef) (gr : Group) (i : Insn), Ready s g gr → (formEvsig i).ok i = true → gr.m ≠ 0 →
    let l := gr.lanes.headD 0
    let a := (gr.rd64 l (regNum i.a)).toNat
    let v := gr.rd64 l (regNum i.b)
    (∀ (dpa ch : Nat) (x : CLine), a % 8 = 0 → v.getLsbD 63 = false → 2 ≤ i.mod.toNat / 4 → (s.tile g.tile).storeQ = [] →
      s.tileBoardBusy g.tile = false → MapsTo s (s.ctxOf g gr) a .write 0 dpa → s.writeWaits (dpa / 128) = false →
      HeldNear s (.group g.tile g.slot) (some (s.ctxOf g gr)) dpa 8 ch x →
      let old := leVal ((List.range 8).map fun k => (Tbl.find x.bytes (dpa % 128 + k)).getD 0)
      let new := if 2 ^ 63 ≤ old then old else max old v.toNat
      Runs (.evsig g i) s fun t => t.group g = some { gr with pc := gr.pc + 8 } ∧ t.mem.hbm = s.mem.hbm ∧ t.mem.host = s.mem.host ∧
        (∀ y, t.devByte y = if dpa ≤ y ∧ y < dpa + 8 then BitVec.ofNat 8 (new >>> (8 * (y - dpa))) else s.devByte y) ∧
        t.regs = (if 2 ^ 63 ≤ old then s.det detEventPoisoned else if v.toNat ≤ old then s.det detEventStale else s).regs) ∧
    (a % 8 ≠ 0 ∨ v.getLsbD 63 = true → Runs (.evsig g i) s fun t => t.group g = some { gr with pc := gr.pc + 8 } ∧ t.mem = s.mem ∧
      t.regs = (s.det detEventInvalid).regs)) ∧
  (∀ (s : State) (g : GRef) (gr : Group) (i : Insn), Ready s g gr → (formEvwait i).ok i = true → gr.m ≠ 0 →
    let l := gr.lanes.headD 0
    let a := (gr.rd64 l (regNum i.a)).toNat
    (∀ dpa, a % 8 = 0 → MapsTo s (s.ctxOf g gr) a .read 0 dpa → Runs (.evwait g i) s fun t => t.mem = s.mem ∧
      t.group g = some { gr with
        pc := gr.pc + 8
        wait := .watch ⟨.sent, dpa, true, true, BitVec.ofNat 64 ((gr.rd64 l (regNum i.b)).toNat % 2 ^ 63), regNum i.d⟩ }) ∧
    (a % 8 ≠ 0 → Runs (.evwait g i) s fun t => t.regs = (s.det detEventInvalid).regs ∧ ∃ gr', t.group g = some gr' ∧
      gr'.pc = gr.pc + 8 ∧ gr'.wait = .ready ∧ ∀ k ∈ gr.lanes, gr'.rd64 k (regNum i.d) = BitVec.allOnes 64)) ∧
  (∀ w v : Nat, w < 2 ^ 63 → (evApply w (.set v)).1.getD w = max w v) ∧
  (∀ w n : Nat, w < 2 ^ 63 → (evApply w (.inc n)).1.getD w = min (w + n) (2 ^ 63 - 1)) ∧
  (∀ w : Nat, w < 2 ^ 64 → (evApply w .poison).1.getD w = w % 2 ^ 63 + 2 ^ 63) ∧
  (∀ (w : Nat) (op : EvOp), 2 ^ 63 ≤ w → (evApply w op).1 = none))

/-- R97: WAITNE on a scratch word that already differs gives its value at once, and on an equal word leaves the wait with the tile; on
global memory it leaves the group waiting for the cistern or the poll.

R97, R99, R100, R272: a wait that arrives at a cistern that holds its word is held there, answered at once where the word ends it; where
256 waits stand there already and the word does not end it, it is counted and answered early, and an early answer makes the group send its
wait again; an answer, or a poll of host memory that ends the wait, gives every active lane the word and lets the group go on; and a
poisoned answer, or a poll that no completion answers (Table 12.8, R395), loses the context.

That host and board words are polled is the model's choice (log 21), and that a word that ends its wait does so at a full cistern is the
reading of log 43. -/
def Obligations.WaitsOnWords : Prop :=
  (∀ (s : State) (g : GRef) (gr : Group) (b : Block) (i : Insn), Ready s g gr → s.blockOf g gr = some b → (formWaitne i).ok i = true →
    gr.m ≠ 0 →
    let l := gr.lanes.headD 0
    let n := if i.fmt.toNat = 2 then 2 else 1
    let cmp := opVal gr l n i.b
    let S := s.issued g gr.pc.toNat (regUses (formWaitne i) i)
    (i.ext.getLsbD 0 = true → (i.mod.toNat % 4 = 0 ∨ i.mod.toNat / 4 % 4 < 2) →
      let a := (gr.rd l (regNum i.a)).toNat
      let v := leVal (Memory.reads (s.tile g.tile).scratch (b.base + a) (4 * n))
      a % (4 * n) = 0 → a + 4 * n ≤ b.visible →
      (v ≠ cmp → Runs (.waitne g i) s (LaneWrote s g gr (formWaitne i) i n fun _ => v)) ∧
      (v = cmp →
        let w : Watch := ⟨.scratch, b.base + a, decide (n = 2), false, BitVec.ofNat 64 cmp, regNum i.d⟩
        exec (.waitne g i) s = .next ((S.setTile g.tile { S.tile g.tile with waits := (S.tile g.tile).waits ++ [⟨g.tile, g.slot, w, none, false⟩] }).putGroup g
          { gr with pc := gr.pc + 8, wait := .watch w }))) ∧
    (i.ext.getLsbD 0 = false → ∀ tgt a, (gr.rd64 l (regNum i.a)).toNat % (4 * n) = 0 →
      MapsTo s (s.ctxOf g gr) (gr.rd64 l (regNum i.a)).toNat .read tgt a →
      (i.mod.toNat % 4 = 0 ∨ i.mod.toNat / 4 % 4 = 3 ∨ tgt = 0) →
      exec (.waitne g i) s = .next (S.putGroup g { gr with
        pc := gr.pc + 8
        wait := .watch ⟨if tgt = 0 then .sent else if tgt = 1 then .board else .host, a, decide (n = 2), false,
          BitVec.ofNat 64 cmp, regNum i.d⟩ }))) ∧
  ((∀ (s : State) (g : GRef) (gr : Group) (w : Watch) (ch : Nat) (l : CLine), Calm s → s.group g = some gr →
    gr.wait = .watch w → w.site = .sent → (s.tile g.tile).holdsStore 0 (w.addr / 128) = false → s.chanOf w.addr = ch →
    HeldNear s (.group g.tile g.slot) (some (s.ctxOf g gr)) w.addr w.size ch l →
    let v : BitVec 64 := BitVec.ofNat 64 (leVal ((List.range w.size).map fun k => (Tbl.find l.bytes (w.addr % 128 + k)).getD 0))
    ((s.cistern ch).holding < 256 → Runs (.cisternWaitArrival g) s fun t =>
      t.group g = some { gr with wait := .watch { w with site := .held } } ∧
      (t.cistern ch).waits = (s.cistern ch).waits ++
        [⟨g.tile, g.slot, { w with site := .held }, if Watch.fires w v then some v else none, false⟩] ∧ t.regs = s.regs) ∧
    (Watch.fires w v = false → 256 ≤ (s.cistern ch).holding → Runs (.cisternWaitArrival g) s fun t =>
      t.group g = some { gr with wait := .watch { w with site := .early } } ∧ (t.cistern ch).waits = (s.cistern ch).waits ∧
      t.regs = (s.det detWaitOverflow).regs)) ∧
  (∀ (s : State) (g : GRef) (gr : Group) (w : Watch), s.group g = some gr → gr.wait = .watch w →
    let got := fun (v : BitVec 64) (t : State) => ∃ gr', t.group g = some gr' ∧ gr'.wait = .ready ∧
      { gr' with regs := gr.regs, wait := gr.wait } = gr ∧
      (w.dst + w.regs ≤ 128 → ∀ l r, l < 32 → r < 128 → gr'.rd l r = if gr.m.getLsbD l ∧ w.dst ≤ r ∧ r < w.dst + w.regs then
        BitVec.ofNat 32 (v.toNat >>> (32 * (r - w.dst))) else gr.rd l r)
    (w.site = .early → exec (.waitResend g) s = .next (s.putGroup g { gr with wait := .watch { w with site := .sent } })) ∧
    (∀ v, w.site = .held ∨ w.site = .scratch → s.heldAnswer g w = some (v, false) →
      (w.event = false → Runs (.waitneAnswer g) s (got v)) ∧ (w.event = true → Runs (.evwaitAnswer g) s (got v))) ∧
    (∀ v, w.site = .held ∨ w.site = .scratch → s.heldAnswer g w = some (v, true) →
      let lost := (s.withdraw g w).loseGroup g gr stPoisonConsumed 0
      (w.event = false → exec (.waitneAnswer g) s = .next lost) ∧ (w.event = true → exec (.evwaitAnswer g) s = .next lost)) ∧
    (w.site = .host → (s.tile g.tile).holdsStore 2 (w.addr / 128) = false → s.hostReach (.group g.tile g.slot) = .ok → s.hostCut = true →
      exec (.hostWaitPoll g) s = .next ((s.note detPcieCpl 0).loseGroup g gr stPoisonConsumed 0)) ∧
    (w.site = .host → (s.tile g.tile).holdsStore 2 (w.addr / 128) = false → s.hostReach (.group g.tile g.slot) = .ok → s.hostCut = false →
      let v : BitVec 64 := BitVec.ofNat 64 (leVal (Memory.reads s.mem.host w.addr w.size))
      (Watch.fires w v = true → Runs (.hostWaitPoll g) s (got v)) ∧ (Watch.fires w v = false → exec (.hostWaitPoll g) s = .next s))))

/-! ## Cisterns, channels and HBM -/

/-- R253, R258, R272: a read of bytes a cistern holds is answered from the cistern with no HBM access and makes the line the most recently
used; a store that hits leaves its bytes there, the line dirty, every other device byte as it was, and leaves the store queue.

R81: an atomic served by a cistern that holds its word answers the old word and leaves the new one (Table 2.11), changing no other
device byte.

Where errors are judged is the reading of log 40. -/
def Obligations.CisternsServeReadsWritesAndAtomics : Prop :=
  ((∀ (s : State) (q : MemReq) (dpa n ch set pg : Nat) (l : CLine), Calm s → 0 < n → dpa % 128 + n ≤ 128 → (s.home dpa).isSome →
    s.lineHome (dpa / 128) = some (ch, set, pg) → (s.cistern ch).lineOf (dpa / 128) = some l →
    (∀ k < n, (Tbl.find l.bytes (dpa % 128 + k)).isSome) → l.poison = false → tagDenied (s.reqTag q.ctx) l.tag = false →
    (∀ k < n, s.deviceOwn (dpa + k) = false) → s.domState (domOfChan ch) = 0 → s.heldBefore (.access dpa n) q.ctx (dpa / 128) = false →
    q.hint = 0 → q.win = none → q.quiet = false →
    Runs (.cisternRead q dpa n) s fun t =>
      t.out = .served ((List.range n).map fun k => (Tbl.find l.bytes (dpa % 128 + k)).getD 0) false :: s.out ∧
      (t.cistern ch).lines = l :: (s.cistern ch).lines.filter (fun x => decide (x.line ≠ dpa / 128)) ∧
      (t.cistern ch).reqs = (s.cistern ch).reqs ∧ (∀ a, t.devByte a = s.devByte a) ∧
      t.mem.hbm = s.mem.hbm ∧ t.mem.host = s.mem.host ∧ t.regs = s.regs ∧ t.tiles = s.tiles) ∧
  (∀ (s : State) (tile k ch set pg : Nat) (e : QStore) (l : CLine), Calm s → (s.tile tile).storeQ[k]? = some e → e.tgt = 0 →
    s.storeReady tile k e = true → s.lineHome e.line = some (ch, set, pg) → (s.cistern ch).lineOf e.line = some l →
    tagDenied (s.reqTag (some e.ctx)) l.tag = false → s.reachDoms (wayTo (.store tile e.slot) (ch / 64)) = .ok →
    s.heldBefore (.store tile e.slot) (some e.ctx) e.line = false → s.writeWaits e.line = false → e.hint = 0 →
    Tbl.rising e.bytes = true →
    Runs (.cisternWrite tile k) s fun t =>
      (t.tile tile).storeQ = (s.tile tile).storeQ.take k ++ (s.tile tile).storeQ.drop (k + 1) ∧
      (∃ l', (t.cistern ch).lineOf e.line = some l' ∧ l'.dirty = true ∧ l'.bytes = Tbl.putAll l.bytes e.bytes) ∧
      (∀ a, t.devByte a = if a / 128 = e.line then (Tbl.find e.bytes (a % 128)).getD (s.devByte a) else s.devByte a) ∧
      t.mem.hbm = s.mem.hbm ∧ t.mem.host = s.mem.host ∧ t.regs = s.regs)) ∧
  (∀ (s : State) (q : MemReq) (dpa op fmt ch set pg : Nat) (b c : BitVec 64) (l : CLine), Calm s → op < 8 → fmt ∈ atomFmts op →
    let w := bitsOfFmt fmt / 8
    dpa % w = 0 → s.lineHome (dpa / 128) = some (ch, set, pg) → (s.cistern ch).lineOf (dpa / 128) = some l →
    (∀ k < w, (Tbl.find l.bytes (dpa % 128 + k)).isSome) → l.poison = false → tagDenied (s.reqTag q.ctx) l.tag = false →
    (∀ k < w, s.deviceOwn (dpa + k) = false) → s.domState (domOfChan ch) = 0 → s.heldBefore (.access dpa w) q.ctx (dpa / 128) = false →
    s.writeWaits (dpa / 128) = false → q.hint = 0 → q.win = none →
    let old := leVal ((List.range w).map fun k => (Tbl.find l.bytes (dpa % 128 + k)).getD 0)
    let new := atomWord op fmt old (b.toNat % 2 ^ (8 * w)) (c.toNat % 2 ^ (8 * w))
    Runs (.cisternAtomic q dpa op fmt b c) s fun t => t.out = .served (leBytes w old) false :: s.out ∧
      (∀ a, t.devByte a = if dpa ≤ a ∧ a < dpa + w then BitVec.ofNat 8 (new >>> (8 * (a - dpa))) else s.devByte a) ∧
      t.mem.hbm = s.mem.hbm ∧ t.regs = s.regs)

/-- R253, R255, R256, R387: with no error, an HBM read of a line the cistern does not hold brings all 128 bytes in, clean, as its controller reads
them; a write-back puts the line's valid bytes and no others into HBM, encrypted where the line carries a tag, and leaves it clean; and the dirty
victim of a full set is written back and leaves its way.

R267 to R270: a slot of a pseudo-channel goes to a request that waits there, with no older request of its line before it, and that request
alone leaves the queue; its bank is ready and the highest class goes first, unless the guard needs the slot; the guard gives class 3 a slot in
time whatever waits before it, whichever banks are ready; a refresh changes nothing software sees, a scrub that finds no error only takes its class 3 slot, and one that finds an uncorrectable word
poisons the line the cistern holds. Which banks are ready is a free choice (log 9).

Where errors are judged, and that slots order requests whose data has moved, are the readings of log 40; which banks are ready is open (log
9); upsets of on-chip memories come by empty steps (log 45). -/
def Obligations.HbmLinesAndTheirController : Prop :=
  ((∀ (s : State) (line ch set pg : Nat), Calm s → s.lineHome line = some (ch, set, pg) → (s.cistern ch).lineOf line = none →
    ((s.cistern ch).lines.filter fun l => l.set = set).length < 16 → s.reachLine .noone none line true = .ok →
    Runs (.hbmRead line .ok) s fun t => t.mem.hbm = s.mem.hbm ∧ t.regs = s.regs ∧
      ∃ l', (t.cistern ch).lines = l' :: (s.cistern ch).lines ∧ l'.line = line ∧ l'.dirty = false ∧ l'.poison = s.hbmPoison line ∧
        ∀ o < 128, Tbl.find l'.bytes o = some (s.hbmByte (128 * line + o))) ∧
  (∀ (s : State) (line ch set pg : Nat) (l : CLine), Calm s → s.lineHome line = some (ch, set, pg) →
    (s.cistern ch).lineOf line = some l → l.dirty = true → l.poison = false → s.hbmPoison line = false → s.reachLine .noone none line true = .ok →
    Tbl.rising l.bytes = true → (∀ e ∈ l.bytes, e.1 < 128) → (l.tag = 0 → Tbl.getD s.mem.tags line 0 = 0) →
    Runs (.hbmWriteback line .ok) s fun t => (∃ l', (t.cistern ch).lineOf line = some l' ∧ l' = { l with dirty := false }) ∧
      (∀ a, t.hbmByte a = if a / 128 = line then (Tbl.find l.bytes (a % 128)).getD (s.hbmByte a) else s.hbmByte a) ∧
      t.regs = s.regs ∧ t.mem.host = s.mem.host) ∧
  (∀ (s : State) (ch set : Nat) (ls : List CLine) (v : CLine), Calm s → s.domState (domOfChan ch) = 0 →
    s.domState (domOfStack ch) = 0 → 16 ≤ ((s.cistern ch).lines.filter fun l => l.set = set).length →
    pickVictim 16 (s.cistern ch).lines set = (ls, some v) → v.dirty = true → v.poison = false →
    Tbl.rising v.bytes = true → (∀ e ∈ v.bytes, e.1 < 128) → (v.tag = 0 → Tbl.getD s.mem.tags v.line 0 = 0) →
    Runs (.cisternVictimWriteback ch set) s fun t => (t.cistern ch).lines = ls ∧
      (∀ a, t.hbmByte a = if a / 128 = v.line then (Tbl.find v.bytes (a % 128)).getD (s.hbmByte a) else s.hbmByte a) ∧ t.regs = s.regs)) ∧
  ((∀ (s : State) (ch pc : Nat), s.domState (domOfStack ch) = 0 → pc < 2 →
    let mine := (s.cistern ch).reqs.filter fun x => x.pc = pc
    let g := if pc = 0 then (s.cistern ch).guard0 else (s.cistern ch).guard1
    Runs (.channelSlotGrant ch pc) s fun t => (t.cistern ch).lines = (s.cistern ch).lines ∧ t.mem.hbm = s.mem.hbm ∧ t.regs = s.regs ∧
      match slotWinner mine g (Config.bankReady s.fresh) with
      | some r => (t.cistern ch).reqs = (s.cistern ch).reqs.erase r ∧
        (if pc = 0 then (t.cistern ch).guard0 else (t.cistern ch).guard1) = (if r.cls = 3 ∨ mine.all (fun x => x.cls ≠ 3) then 0 else g + 1)
      | none => (t.cistern ch).reqs = (s.cistern ch).reqs) ∧
  (∀ (rs : List ChanReq) (g : Nat) (ready : Nat → Bool) (r : ChanReq), slotWinner rs g ready = some r →
    r ∈ firstOfLine rs [] ∧
    ((∀ x, guardLine rs = some x → g + x.2 < 15) → ready r.line = true ∧
      (∀ x ∈ firstOfLine rs [], ready x.line = true → x.cls = 1 → r.cls = 1) ∧
      ((∀ x ∈ rs, x.cls = 1 ∨ x.cls = 2 ∨ x.cls = 3) → ∀ x ∈ firstOfLine rs [], ready x.line = true → x.cls = 2 → r.cls ≤ 2)) ∧
    (∀ x, guardLine rs = some x → g + x.2 ≤ 15 → r.cls ≠ 3 → ∃ y, guardLine (rs.erase r) = some y ∧ g + 1 + y.2 ≤ 15)) ∧
  (∀ (rs : List ChanReq) (g : Nat) (ready : Nat → Bool), (∃ x ∈ firstOfLine rs [], x.cls = 3) → 15 ≤ g →
    ∃ r, slotWinner rs g ready = some r ∧ r.cls = 3) ∧
  (∀ (rs : List ChanReq) (g : Nat) (ready : Nat → Bool), (∃ x ∈ firstOfLine rs [], ready x.line = true) → ∃ r, slotWinner rs g ready = some r) ∧
  (∀ (s : State) (ch bank : Nat), exec (.hbmRefresh ch bank) s = .next s) ∧
  (∀ (s : State) (line ch set pg : Nat), Calm s → s.lineHome line = some (ch, set, pg) → s.fld regCisErrCfg 40 8 ≠ 0 →
    s.reachLine .noone none line true = .ok → exec (.scrub line .ok) s = .next (s.queueChan ch 3 line false)) ∧
  (∀ (s : State) (line ch set pg w : Nat) (l : CLine), Calm s → s.lineHome line = some (ch, set, pg) →
    s.fld regCisErrCfg 40 8 ≠ 0 → s.reachLine .noone none line true = .ok → s.wordPoison line w = false → (s.cistern ch).lineOf line = some l →
    Runs (.scrub line (.uncorrectable w)) s fun t =>
      (t.cistern ch).lines = (s.cistern ch).lines.map (fun x => if x.line = line then { x with poison := true } else x) ∧
      t.mem.hbm = s.mem.hbm))

/-! ## Arrays and the well -/

/-- R104, R105, Table 4.2: an array or well instruction of a group whose block holds the claim enters the end of the queue with the
registers of the lowest active lane as its operands, and nothing else of the module changes but what issue changes; into a full queue of 16 it does
not enter. A word with IMM = 1 is illegal. -/
def Obligations.ArrayInstructionsEnterTheQueue : Prop :=
  ∀ p ∈ ([(Instr.aload, formAload, 0), (Instr.astream, formAstream, 1), (Instr.gpair, formGpair, 2), (Instr.wdrain, formWdrain, 3),
      (Instr.wreduce, formWreduce, 4), (Instr.wacc, formWacc, 5), (Instr.wclr, formWclr, 6), (Instr.amode, formAmode, 7)] :
      List ((GRef → Insn → Instr) × (State → GRef → Insn → Form) × Nat)),
    (∀ (s : State) (g : GRef) (i : Insn), i.imm = true → (p.2.1 s g i).ok i = false) ∧
    ∀ (s : State) (g : GRef) (gr : Group) (c : Claim) (i : Insn), Ready s g gr → (p.2.1 s g i).ok i = true → gr.m ≠ 0 →
      (s.tile g.tile).claim = some c →
      let rd := fun (x : BitVec 8) (k : Nat) => gr.rd (gr.lanes.headD 0) (regNum x + k)
      let x : ArrInsn := ⟨p.2.2, i.fmt.toNat, i.mod.toNat, i.ext.toNat, rd i.d 0, rd i.d 1, rd i.a 0, rd i.b 0, rd i.b 1, rd i.c 0,
        rd i.c 1, c.seq, 0, false, []⟩
      let S := s.issued g gr.pc.toNat (regUses (p.2.1 s g i) i)
      (c.queue.length < 16 → exec (p.1 g i) s = .next ((S.setTile g.tile { S.tile g.tile with
        claim := some { c with queue := c.queue ++ [x], seq := c.seq + 1 } }).putGroup g { gr with pc := gr.pc + 8 })) ∧
      (16 ≤ c.queue.length → exec (p.1 g i) s = .next s)

/-- R104, R123, R131, R134: the head of the queue leaves it and occupies its port when the ports and rows it needs are free and it is valid;
an invalid one leaves it without effect, counted in DET_ARRAY_INVALID, and so does GPAIR in FWD mode, in DET_AMODE_MISMATCH; while
its port is busy nothing happens. The progress timer of a frozen array goes on (R107, R136).

R86: UWAIT makes a group of the block that holds the claim wait for the units it names, up to what the block has issued; the wait ends
once those units have completed it; a group of another block goes on.

That a port is held from start to completion is the reading of log 22; that a GPAIR both invalid and in FWD mode counts as invalid alone is
a choice of log 43. -/
def Obligations.ArrayInstructionsStartAndAreWaitedFor : Prop :=
  (∀ (s : State) (tile : Nat) (c : Claim) (b : Block) (i : ArrInsn) (rest : List ArrInsn), Calm s → (s.tile tile).claim = some c →
    Tbl.find (s.tile tile).blocks c.block = some b → (s.tile tile).groupsOf c.block ≠ [] → c.queue = i :: rest →
    let dropped := s.putClaim tile { c with queue := rest }
    (c.mayStart i = false → exec (.arrayInsnStart tile) s = .next s) ∧
    (c.mayStart i = true → c.valid i = false → Runs (.arrayInsnStart tile) s fun t =>
      t.tiles = dropped.tiles ∧ t.mem = s.mem ∧ t.hif = s.hif ∧ t.regs = (s.det detArrayInvalid).regs) ∧
    (c.mayStart i = true → c.valid i = true → i.op = 2 → c.bwd = false → Runs (.arrayInsnStart tile) s fun t =>
      t.tiles = dropped.tiles ∧ t.mem = s.mem ∧ t.hif = s.hif ∧ t.regs = (s.det detAmodeMismatch).regs) ∧
    (c.mayStart i = true → c.valid i = true → (i.op = 2 → c.bwd = true) → (∀ r ∈ i.ranges, r.1 + r.2 ≤ b.visible) →
      ∃ c', (let t := s.putClaim tile c'
        exec (.arrayInsnStart tile) s = .next (if i.arrays.all c.frozen then t else t.work b.cmd.ctx)) ∧ c'.queue = rest ∧
        (∀ a < 2, c.frozen a = true → (if a = 0 then c'.timer0 = c.timer0 else c'.timer1 = c.timer1)) ∧
        (i.op = 0 → (c'.arr i.arr).load = some i) ∧ (i.op = 1 → (c'.arr i.arr).stream = some i) ∧
        (i.op = 2 → c'.prim.stream = some i ∧ c'.part.stream = some i) ∧ (i.op = 7 → c'.amode = some i) ∧
        (3 ≤ i.op → i.op ≤ 6 → (c'.arr i.arr).drain = some i))) ∧
  ((∀ (s : State) (g : GRef) (gr : Group) (i : Insn), Ready s g gr → (formUwait i).ok i = true →
    Runs (.uwait g i) s (Issued s g gr (formUwait i) i
      { gr with
        pc := gr.pc + 8
        wait := match (s.tile g.tile).claim with
          | some c => if c.block = gr.block then .uwait (i.ext.extractLsb' 0 4) c.seq else .ready
          | none => .ready })) ∧
  (∀ (s : State) (g : GRef) (gr : Group) (m : BitVec 4) (k : Nat), s.group g = some gr → gr.wait = .uwait m k →
    (s.unitsDone g m k = true → exec (.uwaitComplete g) s = .next ((s.restart g).putGroup g { gr with wait := .ready })) ∧
    (s.unitsDone g m k = false → exec (.uwaitComplete g) s = .next s)) ∧
  (∀ (s : State) (g : GRef) (gr : Group) (c : Claim) (k : Nat), s.group g = some gr → (s.tile g.tile).claim = some c → c.block = gr.block →
    c.queue = [] → c.amode = none → c.prim.load = none → c.prim.stream = none → c.prim.drain = none → s.unitsDone g 1 k = true))

/-- R113, R114, R121, R122, R129, R130, R149: what ALOAD, ASTREAM with CLR from scratch, WCLR and AMODE leave when they complete: the shadow
buffer with the block's elements and exponent; in every accumulator of the rows the sum of the products of finite elements, each
truncated toward zero at 2^(base - 95), with the rows' base and truncation counts; cleared rows with the base named; and the mode.
Every other accumulator and row is unchanged, and the port is free. Their arrays are not frozen (R136), and no earlier instruction must act
before them (R85, R104).

R124, R144, R161: a WDRAIN of F32 rows to scratch without a saved output writes each accumulator without flags as its exact value times
2^-s rounded once to nearest even, in row order; the rows keep their contents with KEEP and are else cleared, keeping their
bases; in a context without a statistics table DET_STAT_DROPPED counts once.

That an instruction reads and writes as its command advances it, and the drain of a flagged accumulator, are readings of log 22; truncation
into an accumulator that is OVF is a choice of log 43; a product of two infinities, a zero factor and the reasons of OVF are choices of log
48. -/
def Obligations.ArrayAndWellResults : Prop :=
  (∀ (s : State) (tile : Nat) (c : Claim) (b : Block) (i : ArrInsn), Calm s → (s.tile tile).claim = some c →
    Tbl.find (s.tile tile).blocks c.block = some b → (s.tile tile).groupsOf c.block ≠ [] →
    let m := (s.tile tile).scratch
    let a := c.arr i.arr
    let after := fun (port : Nat) (P : State → Arr → Prop) => c.frozen i.arr = false → c.behind i = false → Runs (.arrayInsnComplete tile i.arr port) s fun t =>
      ∃ c', (t.tile tile).claim = some c' ∧ c'.queue = c.queue ∧ ((c'.arr i.arr).onPort port = none) ∧
        c'.arr (1 - i.arr) = c.arr (1 - i.arr) ∧ t.mem = s.mem ∧ P t (c'.arr i.arr)
    (i.op = 0 → i.src = 0 → a.load = some i → after 0 fun _ a' => a'.shadow.fmt = i.fmt ∧ a'.shadow.e = i.b ∧
      a'.active = a.active ∧ a'.acc = a.acc ∧ a'.rows = a.rows ∧
      ∀ k n, k < 64 → n < 32 → Tbl.getD a'.shadow.elems (32 * k + n) 0 =
        bitsOf (leVal (Memory.reads m (b.base + i.a.toNat + k * blockRow i.fmt) (blockRow i.fmt))) (arrBits i.fmt * n) (arrBits i.fmt)) ∧
    (i.op = 1 → i.src = 0 → i.clears i.arr = true → a.stream = some i →
      let beta := (BitVec.ofInt 16 (expWord i.b + arrC i.fmt + a.active.tau)).toInt
      let xs := fun r => streamVals i.fmt (expWord i.b) (Memory.reads m (b.base + (i.a.toNat + r * i.c2.toNat)) (streamRow i.fmt))
      let terms := fun r n => (List.range 64).map fun k => productUnits beta i.sh ((xs r).getD k .nan) (a.active.val k n)
      let finite := fun (v : FVal) => v ≠ .nan ∧ ∀ neg : Bool, v ≠ .inf neg
      (∀ r < i.c.toNat, ∀ k < 64, finite ((xs r).getD k .nan)) → (∀ k < 64, ∀ n < 32, finite (a.active.val k n)) →
      (∀ r < i.c.toNat, ∀ n < 32, -(2 ^ 191) ≤ ((terms r n).map (·.1)).sum ∧ ((terms r n).map (·.1)).sum < 2 ^ 191) →
      after 1 fun _ a' =>
        (∀ r < i.c.toNat, (a'.rowAt (i.d.toNat + r)).base.toInt = beta ∧
          (a'.rowAt (i.d.toNat + r)).trunc.toNat = ((List.range 32).map fun n => ((terms r n).filter (·.2)).length).sum ∧
          ∀ n < 32, a'.accAt (i.d.toNat + r) n = ⟨BitVec.ofInt 192 ((terms r n).map (·.1)).sum, false, false, false, false⟩) ∧
        (∀ row n, n < 32 → (row < i.d.toNat ∨ i.d.toNat + i.c.toNat ≤ row) → a'.accAt row n = a.accAt row n ∧ a'.rowAt row = a.rowAt row) ∧
        a'.active = a.active ∧ a'.shadow = a.shadow) ∧
    (i.op = 6 → a.drain = some i → after 2 fun _ a' =>
      (∀ r < i.rows, a'.rowAt (i.a.toNat + r) = ⟨BitVec.ofInt 16 i.b.toInt, 0⟩ ∧
        ∀ n < 32, a'.accAt (i.a.toNat + r) n = ⟨0, false, false, false, false⟩) ∧
      (∀ row n, n < 32 → (row < i.a.toNat ∨ i.a.toNat + i.rows ≤ row) → a'.accAt row n = a.accAt row n ∧ a'.rowAt row = a.rowAt row) ∧
      a'.active = a.active ∧ a'.shadow = a.shadow) ∧
    (c.amode = some i → exec (.arrayInsnComplete tile 0 3) s = .next
      (s.putAdvanced tile { c with amode := none, bwd := i.ext.testBit 0 } [0, 1]))) ∧
  (∀ (s : State) (tile : Nat) (c : Claim) (b : Block) (i : ArrInsn), Calm s → (s.tile tile).claim = some c →
    Tbl.find (s.tile tile).blocks c.block = some b → (s.tile tile).groupsOf c.block ≠ [] → i.op = 3 → i.port87 = 0 → i.fmt = 11 →
    i.fn = 0 → s.statVa b.cmd.ctx i.b2.toNat = none →
    let a := c.arr i.arr
    a.drain = some i → c.frozen i.arr = false → c.behind i = false →
    (∀ r < i.rows, ∀ n < 32, let x := a.accAt (i.a.toNat + r) n; x.nan = false ∧ x.pinf = false ∧ x.ninf = false ∧ x.ovf = false) →
    Runs (.arrayInsnComplete tile i.arr 2) s fun t => t.regs = (s.det detStatDropped).regs ∧ t.mem = s.mem ∧
      (∀ r < i.rows, ∀ n < 32, leVal (Memory.reads (t.tile tile).scratch (b.base + i.d.toNat + 128 * r + 4 * n) 4) =
        (let x := (a.accAt (i.a.toNat + r) n).x.toInt
        fF32.encode 0 (i.mod.testBit 1) (.fin (decide (x < 0)) x.natAbs (a.beta (i.a.toNat + r) - 95 - i.b.toInt)))) ∧
      (∀ p, p < b.base + i.d.toNat ∨ b.base + i.d.toNat + 128 * i.rows ≤ p →
        Memory.read (t.tile tile).scratch p = Memory.read (s.tile tile).scratch p) ∧
      ∃ c', (t.tile tile).claim = some c' ∧ (c'.arr i.arr).drain = none ∧
        (∀ r < i.rows, ∀ n < 32, (c'.arr i.arr).accAt (i.a.toNat + r) n =
          if i.mod.testBit 0 then a.accAt (i.a.toNat + r) n else ⟨0, false, false, false, false⟩) ∧
        ∀ row, (c'.arr i.arr).beta row = a.beta row)

/-- R112, R118, R127, R128: adding a raw record into an accumulator aligns its X at the floor, exact where the record's base lies above the
accumulator's and truncated toward zero where it lies below, and adds it; beyond the range of s192 the accumulator takes OVF and its X saturates
with the sign of the exact sum, and a record with OVF sets it with the record's sign; flags are taken over; once OVF is set, X never changes; and
the 256 bits of a record hold all of it.

R182: a record added at a cistern that holds its 32 bytes leaves the destination's base with the sum there, at most one of
DET_PUMP_ADD_OVERFLOW and DET_PUMP_ADD_TRUNC counted as R182 says, and changes no other device byte.

A record in another module's memory is added to word by word (log 44); truncation into an accumulator that is OVF is a choice of log 43, and
one count for two records with reserved bits of log 48. -/
def Obligations.RawRecordSums : Prop :=
  ((∀ (a : Acc) (beta : Int) (r : RawRec) (ovr : Bool),
    (a.ovf = true → (a.place beta r ovr).1.x = a.x ∧ (a.place beta r ovr).1.ovf = true) ∧
    (a.place beta r ovr).1.nan = (a.nan || r.acc.nan) ∧ (a.place beta r ovr).1.pinf = (a.pinf || r.acc.pinf) ∧
    (a.place beta r ovr).1.ninf = (a.ninf || r.acc.ninf) ∧
    (a.ovf = false → r.acc.ovf = true → (a.place beta r ovr).1.ovf = true ∧
      (a.place beta r ovr).1.x.toInt = if r.acc.x.toInt < 0 then -(2 ^ 191) else 2 ^ 191 - 1)) ∧
  (∀ (a : Acc) (beta : Int) (r : RawRec), a.ovf = false → r.acc.ovf = false →
    let x := r.acc.x.toInt
    let k := (beta - r.base).toNat
    let q := if beta < r.base then x * 2 ^ (r.base - beta).toNat
      else if x < 0 then -((x.natAbs / 2 ^ k : Nat) : Int) else ((x.natAbs / 2 ^ k : Nat) : Int)
    let sum := a.x.toInt + q
    let a' := (a.place beta r (a.placeOver beta r)).1
    (r.units beta).1 = q ∧ ((r.units beta).2 = true ↔ r.base ≤ beta ∧ ¬(2 ^ k ∣ x.natAbs)) ∧
    (-(2 ^ 191) ≤ sum → sum < 2 ^ 191 → a'.x.toInt = sum ∧ a'.ovf = false) ∧
    (2 ^ 191 ≤ sum → a'.x.toInt = 2 ^ 191 - 1 ∧ a'.ovf = true) ∧
    (sum < -(2 ^ 191) → a'.x.toInt = -(2 ^ 191) ∧ a'.ovf = true)) ∧
  (∀ r : RawRec, r.resv = false → -(2 ^ 15) ≤ r.base → r.base < 2 ^ 15 → RawRec.ofNat r.toNat = r)) ∧
  (∀ (s : State) (tile pump : Nat) (c : Claim) (b : Block) (x : PumpDesc) (e : QElem) (rest : List QElem) (l : Int) (y : Span)
    (s1 : State) (ch : Nat) (ln : CLine), Calm s → Calm s1 → pump < 2 → (s.tile tile).claim = some c →
    Tbl.find (s.tile tile).blocks c.block = some b → (s1.tile tile).groupsOf c.block ≠ [] →
    let p := if pump = 0 then c.pump0 else c.pump1
    p.wr = [x] → x.full = false → tAdd x.raw = true → x.role = 2 → tIdxEn x.raw = false → p.writeQ = e :: rest → e.stat = none → e.trunc = 0 →
    x.pos < tTotal x.raw → tOffset x.raw (fun _ => 0) x.pos = some l → tHint x.raw = 0 → tWinEn x.raw = false →
    s.span b.cmd.ctx (tAddr x.raw l) 32 .write = .ok y s1 → y.tgt = 0 → y.addr % 32 = 0 →
    HeldNear s1 (.pump tile (2 + pump)) (some b.cmd.ctx) y.addr 32 ch ln → s1.writeWaits (y.addr / 128) = false →
    let dst := RawRec.ofNat (leVal ((List.range 32).map fun k => (Tbl.find ln.bytes (y.addr % 128 + k)).getD 0))
    let inc := RawRec.ofNat e.code
    dst.resv = false → inc.resv = false → dst.acc.ovf = false → inc.acc.ovf = false →
    let u := inc.units dst.base
    dst.acc.x.toInt + u.1 < 2 ^ 191 → -(2 ^ 191) ≤ dst.acc.x.toInt + u.1 →
    let sum : RawRec := ⟨⟨BitVec.ofInt 192 (dst.acc.x.toInt + u.1), dst.acc.nan || inc.acc.nan, dst.acc.pinf || inc.acc.pinf,
      dst.acc.ninf || inc.acc.ninf, false⟩, dst.base, false⟩
    Runs (.pumpAdd tile pump) s fun t =>
      (∀ a, t.devByte a = if y.addr ≤ a ∧ a < y.addr + 32 then BitVec.ofNat 8 (sum.toNat >>> (8 * (a - y.addr))) else s1.devByte a) ∧
      t.regs = (if u.2 then s1.det detPumpAddTrunc else s1).regs ∧ ∃ c', (t.tile tile).claim = some c' ∧
        (let p' := if pump = 0 then c'.pump0 else c'.pump1
        p'.writeQ = rest ∧ p'.wr = [{ x with pos := x.pos + 1, full := decide (tTotal x.raw ≤ x.pos + 1) }]))

/-! ## Statistics -/

/-- R158, R161, R162, Table 5.8: in a context with a statistics table STRD gives every active lane the field of the record of A, and STCLR
and STADD change the record as their row says, once no store to it is queued at the tile (R73); in a context without one STRD gives 0 and STCLR and STADD are counted in
DET_STAT_DROPPED. STADD adds to a counter, saturating at all ones, or raises MAXEXP, and leaves the other fields. -/
def Obligations.StatisticsInstructions : Prop :=
  (∀ (s : State) (g : GRef) (gr : Group) (i : Insn), Ready s g gr → gr.m ≠ 0 →
    let c := s.ctxOf g gr
    let id := (gr.rd (gr.lanes.headD 0) (regNum i.a)).toNat
    let at_ := fun (fm : Form) => s.issued g gr.pc.toNat (regUses fm i)
    let counted := fun (o : Host.Outcome State Fault Refusal) (fm : Form) =>
      o = .next (((at_ fm).det detStatDropped).putGroup g { gr with pc := gr.pc + 8 })
    (s.statVa c id = none →
      ((formStat i 2 0 true).ok i = true → Runs (.strd g i) s (LaneWrote s g gr (formStat i 2 0 true) i 2 fun _ => 0)) ∧
      ((formStat i 0 0 false).ok i = true → counted (exec (.stclr g i) s) (formStat i 0 0 false)) ∧
      ((formStat i 0 2 true).ok i = true → counted (exec (.stadd g i) s) (formStat i 0 2 true))) ∧
    (∀ va, s.statVa c id = some va → s.behindStores g c va = false →
      (∀ bs t1, (formStat i 2 0 true).ok i = true → (at_ (formStat i 2 0 true)).behindStores g c va = false →
        (∀ u, s.vRead (.group g.tile g.slot) c (plainReq (some c)) va 52 ≠ .stall u) →
        (at_ (formStat i 2 0 true)).vRead (.group g.tile g.slot) c (plainReq (some c)) va 52 = .ok bs t1 →
        Runs (.strd g i) s fun t => ∃ gr', t.group g = some gr' ∧ gr'.pc = gr.pc + 8 ∧ ∀ l ∈ gr.lanes,
          (gr'.rd64 l (regNum i.d)).toNat = if i.mod = 6 then
            ((BitVec.ofNat 32 (leVal ((bs.drop 48).take 4))).signExtend 64).toNat
          else leVal ((bs.drop (8 * i.mod.toNat)).take 8)) ∧
      (∀ bs t1, (formStat i 0 0 false).ok i = true → (at_ (formStat i 0 0 false)).behindStores g c va = false →
        (∀ u, s.vModify (.group g.tile g.slot) c va 52 (fun _ => statClear) ≠ .stall u) →
        (at_ (formStat i 0 0 false)).vModify (.group g.tile g.slot) c va 52 (fun _ => statClear) = .ok bs t1 →
        exec (.stclr g i) s = .next (t1.putGroup g { gr with pc := gr.pc + 8 })) ∧
      (∀ bs t1, (formStat i 0 2 true).ok i = true → (at_ (formStat i 0 2 true)).behindStores g c va = false →
        let b := gr.rd64 (gr.lanes.headD 0) (regNum i.b)
        let f := fun bs => if i.mod.toNat = 6 then raiseMaxExp bs (b.setWidth 32).toInt else satAdd64 bs i.mod.toNat b.toNat
        (∀ u, s.vModify (.group g.tile g.slot) c va 52 f ≠ .stall u) →
        (at_ (formStat i 0 2 true)).vModify (.group g.tile g.slot) c va 52 f = .ok bs t1 →
        exec (.stadd g i) s = .next (t1.putGroup g { gr with pc := gr.pc + 8 })))) ∧
  (∀ (bs : List (BitVec 8)) (k n : Nat), bs.length = 52 → k < 6 →
    (satAdd64 bs k n).length = 52 ∧ leVal (((satAdd64 bs k n).drop (8 * k)).take 8) = min (leVal ((bs.drop (8 * k)).take 8) + n) (2 ^ 64 - 1) ∧
    (∀ j, j < 8 * k ∨ (8 * k + 8 ≤ j ∧ j < 52) → (satAdd64 bs k n).getD j 0 = bs.getD j 0)) ∧
  (∀ (bs : List (BitVec 8)) (e : Int), bs.length = 52 → -(2 ^ 31) ≤ e → e < 2 ^ 31 →
    (raiseMaxExp bs e).length = 52 ∧ maxExpOf (raiseMaxExp bs e) = max (maxExpOf bs) e ∧ (raiseMaxExp bs e).take 48 = bs.take 48) ∧
  (statClear.length = 52 ∧ leVal (statClear.take 48) = 0 ∧ maxExpOf statClear = -(2 ^ 31))

/-! ## Pumps -/

/-- R171 to R173, R184, Table 6.7: PDESC with a descriptor, in scratch or in global memory, that every check accepts puts it at the end of its
pump's side and writes 0 to D of every active lane; one that a field check refuses, or that is not on a multiple of 64 bytes, writes 1,
enqueues nothing and is counted in DET_PUMP_DESC_INVALID; a misaligned tensor loses the context with ALIGN_FAULT and an overlapping write
descriptor with ALIAS_FAULT; a full pump makes it wait.

R191: the oldest descriptor of a side completes and leaves its pump once a FEED is all read, a FILL is all in scratch, or a
write descriptor's writes are acknowledged; until then nothing happens.

That a refused descriptor keeps the group going is the reading of log 41. -/
def Obligations.DescriptorsEnterAndLeavePumps : Prop :=
  (∀ (s : State) (g : GRef) (gr : Group) (c : Claim) (b : Block) (i : Insn), Ready s g gr → (formPdesc s g i).ok i = true → gr.m ≠ 0 →
    (s.tile g.tile).claim = some c → s.blockOf g gr = some b →
    let l := gr.lanes.headD 0
    let scratch := i.ext.getLsbD 0
    let a := if scratch then (gr.rd l (regNum i.a)).toNat else (gr.rd64 l (regNum i.a)).toNat
    let role := i.mod.toNat
    let scr := if role % 2 = 1 then (gr.rd l (regNum i.b)).toNat else 0
    let stride := if role % 2 = 1 then (gr.rd l (regNum i.c)).toNat else 0
    let pump := i.ext.toNat / 2 % 2
    let p := if pump = 0 then c.pump0 else c.pump1
    let S := s.issued g gr.pc.toNat (regUses (formPdesc s g i) i)
    let answers := fun (v : Nat) (t : State) => ∃ gr', t.group g = some gr' ∧ gr'.pc = gr.pc + 8 ∧
      { gr' with pc := gr.pc, regs := gr.regs } = gr ∧
      ∀ k r, k < 32 → r < 128 → gr'.rd k r = if gr.m.getLsbD k ∧ r = regNum i.d then BitVec.ofNat 32 v else gr.rd k r
    let takes := fun (d : BitVec 512) (s1 : State) =>
      (tCheck d role scr stride = true → tAligned d = true → (2 ≤ role → tDisjoint d = true) →
        Runs (.pdesc g i) s fun t => answers 0 t ∧ t.mem = s1.mem ∧ t.regs = s1.regs ∧ ∃ c', (t.tile g.tile).claim = some c' ∧
          (let p' := if pump = 0 then c'.pump0 else c'.pump1
          let x : PumpDesc := ⟨d, role, scr, stride, g.slot, 0, 0, false, c.seq, [], 0, false⟩
          p' = (if role < 2 then { p with rd := p.rd ++ [x] } else { p with wr := p.wr ++ [x] })) ∧
          (if pump = 0 then c'.pump1 = c.pump1 else c'.pump0 = c.pump0) ∧ c'.prim = c.prim ∧ c'.part = c.part ∧ c'.queue = c.queue) ∧
      (tCheck d role scr stride = false → Runs (.pdesc g i) s fun t => answers 1 t ∧ (t.tile g.tile).claim = some c ∧ t.mem = s1.mem ∧
        t.regs = (s1.det detPumpDescInvalid).regs) ∧
      (tCheck d role scr stride = true → tAligned d = false → exec (.pdesc g i) s = .next (s1.loseGroup g gr stAlignFault (tBase d))) ∧
      (tCheck d role scr stride = true → tAligned d = true → 2 ≤ role → tDisjoint d = false →
        exec (.pdesc g i) s = .next (s1.loseGroup g gr stAliasFault (tBase d)))
    (64 ≤ p.rd.length + p.wr.length → exec (.pdesc g i) s = .next s) ∧
    (p.rd.length + p.wr.length < 64 →
      (a % 64 ≠ 0 → Runs (.pdesc g i) s fun t => answers 1 t ∧ (t.tile g.tile).claim = some c ∧ t.mem = s.mem ∧
        t.regs = (s.det detPumpDescInvalid).regs) ∧
      (a % 64 = 0 → scratch = true →
        (a + 64 ≤ b.visible → takes (BitVec.ofNat 512 (leVal (Memory.reads (s.tile g.tile).scratch (b.base + a) 64))) S) ∧
        (b.visible < a + 64 → exec (.pdesc g i) s = .next (S.loseGroup g gr stPageFault a))) ∧
      (a % 64 = 0 → scratch = false → ∀ rd t1, (∀ u, s.loadGlobal g (s.ctxOf g gr) 0 [(a, 64)] ≠ .stall u) →
        S.loadGlobal g (s.ctxOf g gr) 0 [(a, 64)] = .ok rd t1 → Calm t1 → (t1.tile g.tile).claim = some c →
        takes (BitVec.ofNat 512 (leVal ((List.range 64).map fun k => rd (a + k)))) t1))) ∧
  (∀ (s : State) (tile pump : Nat) (c : Claim) (b : Block) (x : PumpDesc) (rest : List PumpDesc), pump < 2 → (s.tile tile).claim = some c →
    Tbl.find (s.tile tile).blocks c.block = some b → (s.tile tile).groupsOf c.block ≠ [] →
    let p := if pump = 0 then c.pump0 else c.pump1
    let set := fun (p' : Pump) => s.putClaim tile (if pump = 0 then { c with pump0 := p' } else { c with pump1 := p' })
    (p.rd = x :: rest → x.full = true → (x.role = 0 ∨ x.out = x.pos) →
      exec (.pumpDescComplete tile pump false) s = .next (set { p with rd := rest })) ∧
    (p.wr = x :: rest → x.full = true → (∀ q ∈ s.ridge.reqs, q.owner ≠ .pump tile (2 + pump)) →
      exec (.pumpDescComplete tile pump true) s = .next (set { p with wr := rest })) ∧
    (p.rd = x :: rest → x.full = false → exec (.pumpDescComplete tile pump false) s = .next s))

/-- R169 to R173, R181: over a descriptor of the delivered order the positions of two elements of a write descriptor that passes the
non-overlap test, has no index and whose offsets fit an s64 (R9) differ; and the elements of the order are as many as the product of the extents. -/
def Obligations.DeliveryPositions : Prop :=
  (∀ (d : TDesc) (m n : Nat), tNdim d ≠ 0 → tNdim d ≤ 6 → (∀ k < tNdim d, tExt d k ≠ 0) → (tTrn d = true → 2 ≤ tNdim d) →
    tIdxEn d = false → tDisjoint d = true → m < tTotal d → n < tTotal d →
    ((tDims d).map fun k => (tExt d k - 1) * (tStr d k).natAbs).sum < 2 ^ 63 →
    tOffset d (fun _ => 0) m = tOffset d (fun _ => 0) n → m = n) ∧
  (∀ (d : TDesc) (n k : Nat), tNdim d ≤ 6 → (tTrn d = true → 2 ≤ tNdim d) → k < tNdim d → tExt d k ≠ 0 → tCoord d n k < tExt d k) ∧
  (∀ (d : TDesc), tTotal d = ((List.range (tNdim d)).map (tExt d)).prod)

/-- R178, R179, R189: a near fetch whose elements are read lands the next piece of the first descriptor not all fetched and goes on behind it;
a far prefetch of the first descriptor with anything
left to prefetch goes on by a piece, or by as much less as its PFD and the 2 MiB over all descriptors leave, changes no element and loses no
context; delivery moves the oldest landed unit to the end of the feed
queue, or, of a FILL inside the block's allocation, its bytes into scratch.

R181, R188: the bytes that whole-byte elements write are, for each element, the bytes of its code at its address, and a skipped element
writes nothing; where their statistics and the write go through, the descriptor goes on behind them and a SINK takes them out of the
write queue.

That what a pump has landed stands as pieces in a list is the model's form (log 22); bytes written in part in another module, and units
fetched again, are readings of log 44. -/
def Obligations.PumpsReadAndWrite : Prop :=
  (∀ (s : State) (tile pump : Nat) (c : Claim) (b : Block), Calm s → pump < 2 → (s.tile tile).claim = some c →
    Tbl.find (s.tile tile).blocks c.block = some b →
    let p := if pump = 0 then c.pump0 else c.pump1
    let left := fun (t : State) (p' : Pump) => ∃ c', (t.tile tile).claim = some c' ∧ (if pump = 0 then c'.pump0 else c'.pump1) = p' ∧
      (if pump = 0 then c'.pump1 = c.pump1 else c'.pump0 = c.pump0) ∧ c'.queue = c.queue ∧ c'.prim = c.prim ∧ c'.part = c.part
    (∀ pre x post es t1, p.rd = pre ++ x :: post → (∀ y ∈ pre, y.full = true) → x.full = false → 0 < x.pos → p.landing = [] → p.feed = [] →
      p.again = [] → tSlice x.raw = 0 → s.elemRead (.pump tile pump) b.cmd.ctx x x.pos (tPiece x.raw x.pos) = .ok es t1 →
      Runs (.pumpNearFetch tile pump) s fun t => t.mem = t1.mem ∧ ∃ p', left t p' ∧ p'.wr = p.wr ∧ p'.writeQ = p.writeQ ∧ p'.feed = [] ∧
        p'.rd = pre ++ { es.2 with
          dropped := x.dropped
          pos := x.pos + tPiece x.raw x.pos
          full := decide (tTotal x.raw ≤ x.pos + tPiece x.raw x.pos) } :: post ∧
        p'.landing = [⟨decide (x.role = 1), tPiece x.raw x.pos, (tDeliver x.raw x.scr x.stride x.pos es.1).1⟩]) ∧
    (∀ pre x post, p.rd = pre ++ x :: post → (∀ y ∈ pre, y.prefetches = false) → x.prefetches = true →
      let at_ := max x.far x.pos
      let all := (p.rd.map (·.ahead)).sum
      let room := min (2 ^ (tPfd x.raw + 10) - x.ahead) (0x200000 - all)
      let n := min (tPiece x.raw at_) (min (tTotal x.raw - at_) (8 * room / memBits (tFmt x.raw)))
      let y := { x with far := at_ + n }
      (n = 0 → exec (.pumpFarPrefetch tile pump) s = .next s) ∧
      (0 < n → y.ahead ≤ 2 ^ (tPfd x.raw + 10) ∧ all + (y.ahead - x.ahead) ≤ 0x200000 ∧
        Runs (.pumpFarPrefetch tile pump) s fun t => left t { p with rd := pre ++ y :: post } ∧ t.hif.ctxs = s.hif.ctxs ∧
          t.mem.host = s.mem.host)) ∧
    (∀ u us, p.landing = u :: us → u.fill = false → Runs (.pumpDeliver tile pump) s fun t =>
      left t { p with landing := us, feed := p.feed ++ u.parts.flatMap (·.2) } ∧ t.mem = s.mem ∧ t.regs = s.regs ∧
      (t.tile tile).scratch = (s.tile tile).scratch) ∧
    (∀ u us a bs, p.landing = u :: us → u.fill = true → u.parts = [(a, bs)] → a + bs.length ≤ b.visible →
      Runs (.pumpDeliver tile pump) s fun t => (∃ p', left t p' ∧ p'.landing = us ∧ p'.feed = p.feed ∧ p'.wr = p.wr) ∧ t.mem = s.mem ∧
        t.regs = s.regs ∧ ∀ k, Memory.read (t.tile tile).scratch k =
          if b.base + a ≤ k ∧ k < b.base + a + bs.length then bs.getD (k - (b.base + a)) 0 else Memory.read (s.tile tile).scratch k) ∧
    (∀ u us a bs, p.landing = u :: us → u.fill = true → u.parts = [(a, bs)] → b.visible < a + bs.length →
      exec (.pumpDeliver tile pump) s = .next (s.loseClaim tile 2 c stPageFault 0))) ∧
  ((∀ (d : TDesc) (os : List (OutElem × Option Int)) (k : Nat) (e : OutElem) (l : Int), memBits (tFmt d) % 8 = 0 → isMx (tFmt d) = false →
    os[k]? = some (e, some l) →
    let w := memBits (tFmt d) / 8
    (∀ j e' l', os[j]? = some (e', some l') → j ≠ k → tAddr d l' + w ≤ tAddr d l ∨ tAddr d l + w ≤ tAddr d l') →
    ∀ j < w, Tbl.find (outBytes d os) (tAddr d l + j) = some (BitVec.ofNat 8 (e.code >>> (8 * j)), 255)) ∧
  (∀ (d : TDesc) (os : List (OutElem × Option Int)), (∀ x ∈ os, x.2 = none) → outBytes d os = []) ∧
  (∀ (s : State) (tile pump : Nat) (c : Claim) (b : Block) (pre post : List PumpDesc) (x : PumpDesc) (s2 s3 : State), Calm s → pump < 2 →
    (s.tile tile).groupsOf c.block ≠ [] → (s.tile tile).claim = some c → Tbl.find (s.tile tile).blocks c.block = some b →
    let p := if pump = 0 then c.pump0 else c.pump1
    p.wr = pre ++ x :: post → (∀ y ∈ pre, y.full = true) → x.full = false → tAdd x.raw = false → x.role = 2 → tIdxEn x.raw = false →
    let es := (p.writeQ.take (min 32 (tTotal x.raw - x.pos))).map fun e => OutElem.mk e.code e.scale e.stat e.trunc
    let os := es.zipIdx.map fun e => (e.1, tOffset x.raw (fun _ => 0) (x.pos + e.2))
    let o := Owner.pump tile (2 + pump)
    es ≠ [] → s.statAdd o b.cmd.ctx (tTid x.raw) (outStats os) = .ok () s2 →
    s2.vScatter o b.cmd.ctx (tReq x.raw b.cmd.ctx false) (outBytes x.raw os) = .ok () s3 →
    Runs (.pumpWrite tile pump) s fun t => t.mem = s3.mem ∧ t.regs = s3.regs ∧ t.hif = s3.hif ∧ ∃ c', (t.tile tile).claim = some c' ∧
      (let p' := if pump = 0 then c'.pump0 else c'.pump1
      p'.writeQ = p.writeQ.drop es.length ∧ p'.rd = p.rd ∧ p'.wr = pre ++ { x with
        pos := x.pos + es.length
        full := decide (tTotal x.raw ≤ x.pos + es.length) } :: post) ∧
      (if pump = 0 then c'.pump1 = c.pump1 else c'.pump0 = c.pump0)))

/-! ## Blocks, the loss of a context, and progress timers -/

/-- R66, R67, R325: a block of a started launch of a resident context, placed where its slots, scratch and claim are free, becomes resident
whole: it has its coordinates and allocation; its groups stand in the slots at CODE with every lane live and active, v0 to v3 set and every
other register zero; other groups stay; the claim is fresh where it claims the arrays; and the block counts as placed. The sixteen blocks of
an SCOPY launch become resident together on the sixteen tiles of a spur that hold none of the launch, each at places of its own.

R312: the scheduler notes when a context that is not resident is first found with a command able to start. A resident context of a swapping
partition whose quantum has passed, or that runs nothing, and whose state fits its save area gives way where another waits, once the domains on
the way to the area are at RUN: it gives up its slot, no block of it stays on a tile, and no device byte outside the area changes; a state larger
than the area leaves it where it is, counted in DET_SWAP_REFUSED, until another quantum has passed; before its quantum has passed it stays. A waiting
context that has waited longest takes the lowest free slot, and what was saved is read back first: poison there loses it.

The numbers of blocks, the registers of a starting group, and the order of swapping are the readings of log 41, log 7, log 17 and log 23;
what the instruction cache drops at a block's start is the reading of log 43. -/
def Obligations.BlocksAndContextsComeAndGo : Prop :=
  (∀ (s : State) (r : CmdRef) (blk tile : Nat) (c : Cmd) (run : CtxRun) (p : PartEnt), s.cmd r = some c →
    c.phase = .started → c.progress = 1 → s.ctx r.ctx = some run → run.slot.isSome → s.part run.words.part = some p →
    let f := fun lo n => bitsOf c.raw.toNat lo n
    let stands := fun (t : State) (tile num base : Nat) (slots : List Nat) =>
      (t.tile tile).scratch = (s.tile tile).scratch ∧ (t.tile tile).storeQ = (s.tile tile).storeQ ∧
      ∃ key b, Tbl.find (s.tile tile).blocks key = none ∧ Tbl.find (t.tile tile).blocks key = some b ∧ b.cmd = r ∧ b.num = num ∧
        b.x + f 256 16 * (b.y + f 272 16 * b.z) = num ∧ b.x < f 256 16 ∧ b.y < f 272 16 ∧ b.groups = f 304 5 + 1 ∧ b.base = base ∧
        b.visible = 4096 * f 309 9 ∧ b.claim = c.raw.getLsbD 321 ∧
        (∀ k, k ≠ key → Tbl.find (t.tile tile).blocks k = Tbl.find (s.tile tile).blocks k) ∧
        (t.tile tile).claim = (if c.raw.getLsbD 321 then some (Claim.fresh key) else (s.tile tile).claim) ∧
        (∀ k, k ∉ slots → Tbl.find (t.tile tile).groups k = Tbl.find (s.tile tile).groups k) ∧
        ∀ n k, slots[n]? = some k → ∃ gr, Tbl.find (t.tile tile).groups k = some gr ∧ gr.rank = n ∧ gr.block = key ∧ gr.pc.toNat = f 128 57 ∧
          gr.m = 0xFFFFFFFF ∧ gr.l = 0xFFFFFFFF ∧ gr.stack = [] ∧ gr.wait = .ready ∧ Tbl.find (t.tile tile).timers k = none ∧
          ∀ l r, l < 32 → r < 128 → (gr.rd l r).toNat = (match r with | 0 => f 448 32 | 1 => f 480 32 | 2 => f 192 32 | 3 => f 224 25 | _ => 0)
    f 0 8 = 1 → blk < f 256 16 * f 272 16 * f 288 16 → s.domState (domOfTile tile) = 0 →
    (∀ base slots, f 322 1 = 0 → blk ∉ c.placed → p.hasTile tile = true → (s.tile tile).fits c.raw.toNat base slots = true →
      Runs (.blockResident r blk tile [base] [slots]) s fun t => t.mem = s.mem ∧ t.regs = s.regs ∧
        (∃ c', t.cmd r = some c' ∧ c' = { c with placed := c.placed ++ [blk] }) ∧
        (∀ k, k ≠ tile → t.tile k = s.tile k) ∧ stands t tile blk base slots) ∧
    (∀ (base : List Nat) (slots : List (List Nat)), f 322 1 = 1 → blk / 16 * 16 ∉ c.placed → base.length = 16 → slots.length = 16 →
      (∀ k < 16, p.hasTile (tileOfSpur (spurOfTile tile) k) = true ∧
        (s.tile (tileOfSpur (spurOfTile tile) k)).fits c.raw.toNat (base.getD k 0) (slots.getD k []) = true ∧
        ∀ b ∈ (s.tile (tileOfSpur (spurOfTile tile) k)).blocks, b.2.cmd ≠ r) →
      Runs (.blockResident r blk tile base slots) s fun t => t.mem = s.mem ∧ t.regs = s.regs ∧
        (∃ c', t.cmd r = some c' ∧ c' = { c with placed := c.placed ++ (List.range 16).map (blk / 16 * 16 + ·) }) ∧
        (∀ n, (∀ k < 16, n ≠ tileOfSpur (spurOfTile tile) k) → t.tile n = s.tile n) ∧
        ∀ k < 16, stands t (tileOfSpur (spurOfTile tile) k) (blk / 16 * 16 + k) (base.getD k 0) (slots.getD k []))) ∧
  (∀ (s : State), Calm s → Tbl.rising s.hif.ctxs = true →
    let u := s.noteWaits
    let over_ := fun (r : CtxRun) => r.words.quantum.toNat < (s.ms + 1 - r.resident) * 1000 ∨ (r.tried = false ∧ r.running = false)
    let since := fun (k : Nat) (r : CtxRun) =>
      if r.slot.isNone && !r.lost && s.wants k r then (if r.order = 0 then s.ms + 1 else r.order) else 0
    (∀ k r, s.ctx k = some r → u.ctx k = some { r with order := since k r }) ∧
    ∀ (c : Nat) (r : CtxRun) (p : PartEnt), u.ctx c = some r → r.lost = false → s.part r.words.part = some p → p.swap = true →
    (r.slot.isSome →
      (¬ over_ r → exec (.contextSwapOut c) s = .next u) ∧
      (u.waiting r.words.part = [] → exec (.contextSwapOut c) s = .next u) ∧
      (over_ r → u.waiting r.words.part ≠ [] → u.swapPoint c = true →
        (u.saveNeed c ≤ r.words.saveSize →
          (∀ d, u.areaReach r.words.saveBase (u.saveNeed c) true = .asleep d → exec (.contextSwapOut c) s = .next (u.noteDom .noone d)) ∧
          (u.areaReach r.words.saveBase (u.saveNeed c) true = .busy → exec (.contextSwapOut c) s = .next u) ∧
          (u.areaReach r.words.saveBase (u.saveNeed c) true = .ok ∨ u.areaReach r.words.saveBase (u.saveNeed c) true = .failed →
            Runs (.contextSwapOut c) s fun t => t.regs = s.regs ∧
            (∃ v o, t.ctx c = some { r with slot := none, saved := v, order := o, tried := false }) ∧
            (∀ k, k ≠ c → ∃ o, t.ctx k = (u.ctx k).map fun x => { x with order := o }) ∧ (∀ n, ∀ b ∈ (t.tile n).blocks, b.2.cmd.ctx ≠ c) ∧
            ∀ a, a / 128 ∉ linesOf r.words.saveBase (u.saveNeed c) → t.devByte a = s.devByte a)) ∧
        (r.words.saveSize < u.saveNeed c → Runs (.contextSwapOut c) s fun t =>
          t.ctx c = some { r with resident := s.ms, tried := true } ∧
          (∀ k, k ≠ c → t.ctx k = u.ctx k) ∧ t.tiles = s.tiles ∧
          t.reg (regDetCounter detSwapRefused) = (s.det detSwapRefused).reg (regDetCounter detSwapRefused)))) ∧
    (∀ k, r.slot = none → u.freeSlot = some k → u.residents r.words.part < p.slots →
      (∃ x ∈ u.waiting r.words.part, x.1 = c) → (∀ x ∈ u.waiting r.words.part, r.order ≤ x.2.order) →
      (∀ v ∈ r.saved, (s.tile v.tile).canTake v = true) →
      let back := fun (t : State) =>
        t.ctx c = some { r with slot := some k, saved := [], order := 0, resident := s.ms } ∧ ∀ j, j ≠ c → t.ctx j = u.ctx j
      let n := savedNeed r.saved
      let rd := u.devRead (plainReq (some c)) r.words.saveBase n
      (r.saved = [] → Runs (.contextSwapIn c) s fun t => back t ∧ t.mem = s.mem ∧ t.regs = s.regs ∧ t.tiles = s.tiles) ∧
      (r.saved ≠ [] → u.areaReach r.words.saveBase n false = .ok → rd.poison = false →
        Runs (.contextSwapIn c) s fun t => back t ∧ t.mem = rd.st.mem ∧ t.regs = rd.st.regs) ∧
      (r.saved ≠ [] → (u.areaReach r.words.saveBase n false = .failed ∨
          (u.areaReach r.words.saveBase n false = .ok ∧ rd.poison = true)) → r.destroying = false →
        Runs (.contextSwapIn c) s fun t => ∃ r', t.ctx c = some r' ∧ r'.lost = true) ∧
      (∀ d, r.saved ≠ [] → u.areaReach r.words.saveBase n false = .asleep d → exec (.contextSwapIn c) s = .next (u.noteDom .noone d)) ∧
      (r.saved ≠ [] → u.areaReach r.words.saveBase n false = .busy → exec (.contextSwapIn c) s = .next u)))

/-- R332, R71, R107, R394: a fault makes its context lost: the context has the code and, unless it is confidential, the address of the fault;
it keeps its handles; no block of it is resident on any tile; and once its loss is settled every command of it has been answered. Every other
context, and every block of another one, stays as it was, where no cistern has lost its tags, nothing is being destroyed and the tables of tiles
and blocks stand in their order. A later fault of a lost context changes nothing, or goes on with what is left of the loss. The timers of groups and arrays that have reached the
period of the partition are such faults, with NO_PROGRESS; before that they change nothing.

The codes that the row CONTEXT_LOSS carries are the reading of log 23. -/
def Obligations.AFaultLosesItsContext : Prop :=
  ∀ (s : State) (c : Nat) (r : CtxRun), s.ctx c = some r →
    let tables := Tbl.rising r.queues = true ∧ ∀ q ∈ r.queues, Tbl.rising q.2.cmds = true
    let lost := fun (code : Nat) (va : Option (BitVec 64)) (t : State) => (∃ r', t.ctx c = some r' ∧ r'.lost = true ∧ r'.code = code ∧
      r'.handles = r.handles ∧ (∀ v, va = some v → r'.faultVa = if r.words.conf then 0 else v) ∧
      (r'.ending = none → t.openCmds c = [])) ∧ (∀ n, ∀ b ∈ (t.tile n).blocks, b.2.cmd.ctx ≠ c) ∧
      (Calm s → s.tagLoss = [] → s.hif.admin = .none → (∀ e ∈ s.hif.ctxs, e.2.destroying = false) → Tbl.rising s.tiles = true →
        (∀ n, Tbl.rising (s.tile n).blocks = true) → (∀ k, k ≠ c → t.ctx k = s.ctx k) ∧
          ∀ n, ∀ b : Nat × Block, b.2.cmd.ctx ≠ c → (b ∈ (t.tile n).blocks ↔ b ∈ (s.tile n).blocks))
    (∀ code va info, r.lost = true → r.ending = none → s.tagLoss = [] → exec (.contextLoss c code va info) s = .next s) ∧
    (∀ code va info, r.ending.isSome → exec (.contextLoss c code va info) s = .next (s.settleCtx c)) ∧
    (r.lost = false → r.ending = none → r.destroying = false → tables →
      (∀ (code : BitVec 8) (va info : BitVec 64), (code = 3 ∨ code = 4 ∨ code = 6 ∨ code = 7 ∨ code = 8) →
        Runs (.contextLoss c code va info) s (lost code.toNat (some va))) ∧
      (∀ (g : GRef) (gr : Group) (b : Block), s.armed = [] → s.group g = some gr → s.blockOf g gr = some b → b.cmd.ctx = c →
        (Tbl.getD (s.tile g.tile).timers g.slot 0 < s.periodOf c → exec (.noProgressExpiry g) s = .next s) ∧
        (s.periodOf c ≤ Tbl.getD (s.tile g.tile).timers g.slot 0 → Runs (.noProgressExpiry g) s (lost 8 none))) ∧
      (∀ (tile a : Nat) (k : Claim) (b : Block), a < 2 → (s.tile tile).claim = some k →
        Tbl.find (s.tile tile).blocks k.block = some b → b.cmd.ctx = c →
        let due := s.periodOf c ≤ if a = 0 then k.timer0 else k.timer1
        (¬due → exec (.arrayProgressExpiry tile a) s = .next s) ∧
        (∀ i : ArrInsn, due → ((k.arr a).stream = some i ∨ (k.arr a).load = some i ∨ (k.arr a).drain = some i ∨ (i ∈ k.queue ∧ a ∈ i.arrays)) →
          Runs (.arrayProgressExpiry tile a) s (lost 8 none))))

/-! ## Queues and commands -/

/-- R322, R333: a submitted command of a resident context starts when its queue's order allows and it has no WAIT, or its event's value has
reached the target; a poisoned event finishes it with FENCE_POISONED; while the target is not reached, or it is not its turn, it
does not start.

R91, R322, R323: a finished command without a SIG, next in sequence, whose writes are performed has its completion entry written at its
place in the ring, counts as done, leaves its queue and, where it and the queue ask, signals the queue's vector; out of sequence nothing
happens. The entry holds the sequence number, status, queue and tag, and the phase of its pass over the ring.

That a context must be resident for its commands to start is the reading of log 41. -/
def Obligations.CommandsStartAndComplete : Prop :=
  (∀ (s : State) (r : CmdRef) (run : CtxRun) (q : Queue) (c : Cmd), s.ctx r.ctx = some run → Tbl.find run.queues r.queue = some q →
    Tbl.find q.cmds r.id = some c → c.phase = .submitted → run.slot.isSome →
    let before := q.cmds.filter fun k => k.1 < r.id
    let turn := if c.raw.getLsbD 8 then (∀ k, before.getLast? = some k → k.2.phase ≠ .submitted) else before = []
    let becomes := fun (p : Phase) (t : State) => ∃ c', t.cmd r = some c' ∧ c' = { c with phase := p, progress := 0 }
    (¬turn → exec (.commandStart r) s = .next s) ∧
    (turn → c.wait = none → Runs (.commandStart r) s fun t => becomes .started t ∧ t.mem = s.mem ∧ t.regs = s.regs ∧ t.tiles = s.tiles) ∧
    (turn → ∀ a target v t1, c.wait = some (a, target) → s.evRead (.cmd r) r.ctx a.toNat = .ok v t1 → t1.cmd r = some c →
      (v.getLsbD 63 = true → Runs (.commandStart r) s fun t => becomes (.finished 2) t ∧ t.mem = t1.mem) ∧
      (v.getLsbD 63 = false → target.toNat ≤ v.toNat → Runs (.commandStart r) s fun t => becomes .started t ∧ t.mem = t1.mem) ∧
      (v.getLsbD 63 = false → v.toNat < target.toNat → exec (.commandStart r) s = .next t1))) ∧
  ((∀ (s : State) (r : CmdRef) (run : CtxRun) (q : Queue) (c : Cmd) (n : BitVec 32) (status : Nat), s.ctx r.ctx = some run →
    Tbl.find run.queues r.queue = some q → Tbl.find q.cmds r.id = some c → c.phase = .finished status → c.seq = some n → c.sig = none →
    c.objs = [] → s.hif.admin = .none → run.lost = false → run.ending = none →
    (n ≠ q.done → exec (.commandComplete r) s = .next s) ∧
    (n = q.done → s.writesDone r = true → ∀ t1, t1.ctx r.ctx = some run → t1.hif.admin = .none → (∀ e ∈ t1.hif.ctxs, e.2.destroying = false) →
      s.vWrite (.cmd r) r.ctx (plainReq (some r.ctx)) (q.cq.toNat + 16 * (n.toNat % 2 ^ q.log2n))
        (cqBytes q r.queue n status (bitsOf c.raw.toNat 32 32)) = .ok () t1 →
      Runs (.commandComplete r) s fun t => t.mem = t1.mem ∧ t.regs = t1.regs ∧
        (∃ q', t.queue r.ctx r.queue = some q' ∧ q' = { q with cmds := Tbl.del q.cmds r.id, done := q.done + 1 }) ∧
        t.out = (if c.raw.getLsbD 9 && q.irqen then [Output.msix q.vector] else []) ++ t1.out)) ∧
  (∀ (q : Queue) (qn : Nat) (n : BitVec 32) (status tag : Nat), qn < 16 → status < 256 → tag < 2 ^ 32 →
    let v := leVal (cqBytes q qn n status tag)
    (cqBytes q qn n status tag).length = 16 ∧ bitsOf v 0 32 = n.toNat ∧ bitsOf v 32 8 = status ∧ bitsOf v 40 4 = qn ∧
    bitsOf v 63 1 = (if (n.toNat / 2 ^ q.log2n) % 2 = 0 then 1 else 0) ∧ bitsOf v 64 32 = tag ∧ bitsOf v 96 32 = 0))

/-- R325, R326, R274, Table 11.15: what the host interface's own commands do when they are started: NOP finishes with OK; LAUNCH opens its
grid and finishes once every block has been placed and has left; COPY of overlapping, empty or too long ranges and OBJ_REPAIR of
nothing, or of addresses in no device memory, finish with DESCRIPTOR_INVALID; a COPY inside one line, an EVT_SIGNAL and an OBJ_REPAIR of the context's own object whose accesses
are performed finish with OK.

An access that waits leaves the command where it is (log 3, log 11). -/
def Obligations.HostCommandsRun : Prop :=
  ∀ (s : State) (r : CmdRef) (c : Cmd), s.cmd r = some c → c.phase = .started →
    let f := fun lo n => bitsOf c.raw.toNat lo n
    let finished := fun (st : Nat) (t : State) => ∃ c', t.cmd r = some c' ∧ c' = { c with phase := .finished st, progress := 0 }
    (f 0 8 = 0 → Runs (.nopCommand r) s fun t => finished 0 t ∧ t.mem = s.mem ∧ t.regs = s.regs ∧ t.tiles = s.tiles) ∧
    (f 0 8 = 1 →
      (c.progress = 0 → Runs (.launchCmd r) s fun t => (∃ c', t.cmd r = some c' ∧ c' = { c with progress := 1 }) ∧ t.tiles = s.tiles) ∧
      (c.progress = 1 → c.placed.length = f 256 16 * f 272 16 * f 288 16 → (∀ x ∈ s.tiles, ∀ b ∈ x.2.blocks, b.2.cmd ≠ r) →
        Runs (.launchCmd r) s fun t => finished 0 t ∧ t.tiles = s.tiles ∧ t.mem = s.mem)) ∧
    (f 0 8 = 2 →
      let src := f 128 57
      let dst := f 192 57
      let n := f 256 41
      ((n = 0 ∨ 2 ^ 40 < n ∨ (src < dst + n ∧ dst < src + n)) → Runs (.copyCmd r) s fun t => finished 9 t ∧ t.mem = s.mem) ∧
      (∀ bs t1 t2, 0 < n → src % 128 + n ≤ 128 → (src + n ≤ dst ∨ dst + n ≤ src) → c.progress = 0 →
        s.vRead (.cmd r) r.ctx (plainReq (some r.ctx)) src n = .ok bs t1 →
        t1.vWrite (.cmd r) r.ctx (plainReq (some r.ctx)) dst bs = .ok () t2 → t2.cmd r = some c →
        Runs (.copyCmd r) s fun t => finished 0 t ∧ t.mem = t2.mem)) ∧
    (f 0 8 = 3 → s.tgtOf r.ctx (f 128 57) = some 0 → ∀ x t1 t2, s.span r.ctx (f 128 57) 8 .write = .ok x t1 → x.tgt = 0 →
      tagDenied (t1.reqTag (some r.ctx)) (t1.lineTag (x.addr / 128)) = false → t2.cmd r = some c →
      (f 192 1 = 0 → t1.signal (.cmd r) r.ctx (f 128 57) (.set (f 256 63)) = .ok () t2 →
        Runs (.evtSignalSet r) s fun t => finished 0 t ∧ t.mem = t2.mem) ∧
      (f 192 1 = 1 → t1.signal (.cmd r) r.ctx (f 128 57) (.inc (f 256 63)) = .ok () t2 →
        Runs (.evtSignalInc r) s fun t => finished 0 t ∧ t.mem = t2.mem)) ∧
    (f 0 8 = 8 →
      (f 256 24 = 0 → Runs (.objRepair r) s fun t => finished 9 t ∧ t.mem = s.mem) ∧
      (∀ t1, 0 < f 256 24 → State.repairLines (f 256 24) s r.ctx (f 128 57) = .ok none t1 → t1.cmd r = some c →
        Runs (.objRepair r) s fun t => finished 9 t ∧ t.mem = t1.mem) ∧
      (∀ lines t1, 0 < f 256 24 → State.repairLines (f 256 24) s r.ctx (f 128 57) = .ok (some lines) t1 → t1.cmd r = some c →
        (¬(∃ o ∈ t1.hif.objs, o.2.creator = r.ctx ∧ ∀ l ∈ lines, o.2.hasLine l = true) →
          Runs (.objRepair r) s fun t => finished 9 t ∧ t.mem = t1.mem) ∧
        (∀ t2, (∃ o ∈ t1.hif.objs, o.2.creator = r.ctx ∧ ∀ l ∈ lines, o.2.hasLine l = true) →
          State.repairFrom (lines.drop c.progress) t1 r (f 192 57) c.progress = .ok () t2 → t2.cmd r = some c →
          Runs (.objRepair r) s fun t => finished 0 t ∧ t.mem = t2.mem)))

/-- R319: a 4-byte write to an aligned doorbell of a queue of a resident or waiting context takes effect exactly when it lies ahead of
TAIL by no more than the ring holds ahead of DONE; then TAIL takes it, and a write of TAIL itself changes nothing. Every other write to BAR2, of
another size or offset, or where the page has no context or the context no such queue, is dropped and counted in DET_DOORBELL_INVALID. Before a
load a write is dropped and counted in IDENT_PRELOAD_DROP (R300), and one that does not reach the module rings nothing.

R320, R321, R324, R332: the fetch of a command that names no sync block submits it with the next sequence number where R321 lets it
through and its feature is accepted; else it is not executed and its record is to say DESCRIPTOR_INVALID, counted in
DET_CMD_INVALID, or FEATURE_ABSENT; a command of a lost context is to be answered CONTEXT_LOST. A queue that is off, empty, full or
closing fetches nothing, nor one of a context that is destroyed or whose loss is being settled.

The order of the checks is the reading of log 41. -/
def Obligations.DoorbellsAndFetches : Prop :=
  ((∀ (s : State) (ctx queue : Nat) (run : CtxRun) (q : Queue) (v : BitVec 32), s.armed = [] → s.hostUp = true → s.loaded = true → ctx < 4096 →
    queue < 16 → s.ctx ctx = some run → Tbl.find run.queues queue = some q →
    let off := 4096 * ctx + 8 * queue
    let k := (v - q.tail).toNat
    (k ≤ 2 ^ q.log2n - (q.tail - q.done).toNat → Runs (.doorbell off 4 v) s fun t =>
      (∃ q', t.queue ctx queue = some q' ∧ q' = { q with tail := v }) ∧ t.regs = s.regs ∧ t.mem = s.mem ∧ t.tiles = s.tiles) ∧
    (2 ^ q.log2n - (q.tail - q.done).toNat < k → Runs (.doorbell off 4 v) s fun t => t.hif = s.hif ∧ t.regs = (s.det detDoorbellInvalid).regs ∧
      t.mem = s.mem)) ∧
  (∀ (s : State) (off size : Nat) (v : BitVec 32), s.armed = [] → s.hostUp = true →
    (s.loaded = true → (size ≠ 4 ∨ off % 8 ≠ 0 ∨ 128 ≤ off % 4096 ∨ s.ctx (off / 4096) = none ∨
        ∃ run, s.ctx (off / 4096) = some run ∧ Tbl.find run.queues (off % 4096 / 8) = none) →
      Runs (.doorbell off size v) s fun t => t.hif = s.hif ∧ t.regs = (s.det detDoorbellInvalid).regs ∧ t.mem = s.mem ∧ t.tiles = s.tiles) ∧
    (s.loaded = false → exec (.doorbell off size v) s = .next s.preloadDrop)) ∧
  (∀ (s : State) (off size : Nat) (v : BitVec 32), s.hostUp = false →
    Runs (.doorbell off size v) s fun t => t.hif = s.hif ∧ t.mem = s.mem ∧ t.tiles = s.tiles)) ∧
  (∀ (s : State) (ctx queue : Nat) (run : CtxRun) (q : Queue), s.armed = [] → s.ctx ctx = some run → Tbl.find run.queues queue = some q →
    (s.fld regHifCtrl 0 1 ≠ 1 ∨ q.fetched = q.tail ∨ q.closing = true ∨ run.destroying = true ∨ run.ending.isSome ∨ 64 ≤ (q.cmds.filter fun k => k.2.seq.isSome).length →
      exec (.commandFetch ctx queue) s = .next s) ∧
    (s.mayFetch run q = true → ∀ bs t1, bs.length = 64 →
      s.vKeep (.cmd ⟨ctx, queue, q.next⟩) ctx (plainReq (some ctx)) (q.ring.toNat + 64 * (q.fetched.toNat % 2 ^ q.log2n)) 64 = .ok bs t1 →
      t1.ctx ctx = some run → t1.armed = [] →
      let raw := leVal bs
      let entered := fun (p : Phase) (t : State) => ∃ q', t.queue ctx queue = some q' ∧ q'.fetched = q.fetched + 1 ∧ q'.done = q.done ∧
        q'.tail = q.tail ∧ Tbl.find q'.cmds q.next = some ⟨some q.fetched, BitVec.ofNat 512 raw, none, none, [], p, [], 0⟩ ∧
        (∀ k, k ≠ q.next → Tbl.find q'.cmds k = Tbl.find q.cmds k) ∧ t.mem = t1.mem
      bitsOf raw 10 2 = 0 → bitsOf raw 16 11 = 0 →
      (run.lost = true → Runs (.commandFetch ctx queue) s (entered (.finished 1))) ∧
      (run.lost = false → commandOk raw none = false → Runs (.commandFetch ctx queue) s fun t =>
        entered (.finished 9) t ∧ t.regs = (t1.det detCmdInvalid).regs) ∧
      (run.lost = false → commandOk raw none = true → (bitsOf raw 0 8 = 1 → launchOk raw = true) →
        (∀ f, featureOf (bitsOf raw 0 8) = some f → t1.accepted f = true) →
        Runs (.commandFetch ctx queue) s fun t => entered .submitted t ∧ t.regs = t1.regs) ∧
      (run.lost = false → commandOk raw none = true → (bitsOf raw 0 8 = 1 → launchOk raw = true) →
        (∃ f, featureOf (bitsOf raw 0 8) = some f ∧ t1.accepted f = false) →
        Runs (.commandFetch ctx queue) s fun t => entered (.finished 5) t ∧ t.regs = (t1.det detFeatureAbsent).regs)))

/-! ## Contexts and objects as the host manages them -/

/-- R310, R311, R318, R334, Tables 11.8 and 11.9: the admin commands on contexts and queues, where the host reaches its registers, with an image loaded and none running: CTX_CREATE
that passes makes the lowest free context with its words and answers its id, and refuses where a check of its first step fails; QUEUE_CREATE
makes an empty queue; QUEUE_DESTROY removes a queue that has no fetched command, and else keeps BUSY and closes it; CTX_DESTROY
loses the context and removes it once every unit has stopped and every record is written, at once where nothing is left of it, and waits while
a domain is in an entry. A command with a reserved bit set is refused with DESCRIPTOR_INVALID, and one while BUSY is dropped.

R314, R327, R328: the admin commands on objects: OBJ_CREATE of a usable extent list makes an object and gives its creator a handle in the
lowest free entry; OBJ_FREE of a valid handle makes it invalid and raises its generation; OBJ_EXPORT of one answers a key that names the
object; OBJ_IMPORT of the key of a valid export gives a handle to the same object; and CTX_QUERY answers a context's state.

The order of checks and codes the rules leave open are the readings of log 23; the tables are typed, not bytes (log 16). -/
def Obligations.AdminCommands : Prop :=
  (∀ s : State, s.armed = [] → s.load.img.isSome → s.hostUp = true → Tbl.rising s.hif.ctxs = true →
    let w := fun i => (s.reg (0x10100 + 8 * i)).toNat
    let answers := fun (status : Nat) (result : Nat) (t : State) => t.reg 0x10148 = BitVec.ofNat 64 (256 * status) ∧
      t.reg 0x10150 = BitVec.ofNat 64 result
    let c := bitsOf (w 0) 0 12
    (s.entering = true → exec .ctxDestroy s = .next s) ∧
    (s.fld 0x10148 0 1 = 1 → ∀ cmd ∈ [Instr.ctxCreate, .ctxDestroy, .queueCreate, .queueDestroy, .objCreate, .objFree, .objExport, .objImport,
      .ctxQuery], Runs cmd s fun t => t.hif = s.hif ∧ t.mem = s.mem ∧ t.tiles = s.tiles) ∧
    (s.fld 0x10148 0 1 = 0 →
      (s.admReserved ctxMasks = false →
        (s.ctxWordsOk s.ctxWords = true → s.ctxWords.conf = false → s.slotsFull s.ctxWords = false → ∀ id, freeKey s.hif.ctxs 0 4096 = some id →
          Runs .ctxCreate s fun t => answers 0 id t ∧ (∃ r, t.ctx id = some r ∧ r.words = s.ctxWords ∧ r.lost = false ∧ r.handles = [] ∧
            r.queues = [] ∧ r.keySlot = none) ∧ (∀ k, k ≠ id → t.ctx k = s.ctx k) ∧ t.hif.objs = s.hif.objs) ∧
        (s.ctxWordsOk s.ctxWords = false → Runs .ctxCreate s fun t => answers 9 0 t ∧ t.hif.ctxs = s.hif.ctxs) ∧
        (s.ctxWordsOk s.ctxWords = true → s.ctxWords.conf = false → s.slotsFull s.ctxWords = true →
          Runs .ctxCreate s fun t => answers 11 0 t ∧ t.hif.ctxs = s.hif.ctxs)) ∧
      (s.admReserved ctxMasks = true → Runs .ctxCreate s fun t => answers 9 0 t ∧ t.hif.ctxs = s.hif.ctxs) ∧
      (2 ^ 12 ≤ w 0 → s.entering = false → Runs .ctxDestroy s fun t => answers 9 0 t ∧ t.hif.ctxs = s.hif.ctxs ∧ t.hif.objs = s.hif.objs) ∧
      (∀ r, s.entering = false → w 0 < 2 ^ 12 → (∀ i, 1 ≤ i → i < 8 → w i = 0) → s.ctx (w 0) = some r →
        Runs .ctxDestroy s (fun t => (answers 0 0 t ∧ t.ctx (w 0) = none) ∨
          (t.fld 0x10148 0 1 = 1 ∧ ∃ r', t.ctx (w 0) = some r' ∧ r'.destroying = true ∧ r'.lost = true)) ∧
        (r.lost = true → r.ending = none → (∀ q ∈ r.queues, q.2.cmds = []) → (∀ q ∈ s.ridge.reqs, q.ctx ≠ w 0) →
          (∀ k, s.eng.ckpt = some k → k.ctx ≠ w 0) → Runs .ctxDestroy s fun t => answers 0 0 t ∧ t.ctx (w 0) = none)) ∧
      (∀ r, s.ctx c = some r → s.admReserved [ones 0 12 ||| ones 16 4 ||| ones 24 5 ||| ones 32 12, ones 0 57, ones 0 57] = false →
        let q := bitsOf (w 0) 16 4
        let n := bitsOf (w 0) 24 5
        (r.lost = false → Tbl.find r.queues q = none → 4 ≤ n → n ≤ 16 → w 1 % 4096 = 0 → w 2 % 4096 = 0 →
          Runs .queueCreate s fun t => answers 0 0 t ∧ t.queue c q = some ⟨n, bitsOf (w 0) 32 11, (w 0).testBit 43, BitVec.ofNat 64 (w 1),
            BitVec.ofNat 64 (w 2), 0, 0, 0, [], 0, false⟩ ∧ (∀ k, k ≠ c → t.ctx k = s.ctx k) ∧ t.mem = s.mem) ∧
        (r.lost = true ∨ (Tbl.find r.queues q).isSome ∨ n < 4 ∨ 16 < n ∨ w 1 % 4096 ≠ 0 ∨ w 2 % 4096 ≠ 0 →
          Runs .queueCreate s fun t => answers 9 0 t ∧ t.hif.ctxs = s.hif.ctxs)) ∧
      (∀ q, s.admReserved [ones 0 12 ||| ones 16 4] = false → s.queue c (bitsOf (w 0) 16 4) = some q →
        (q.cmds = [] → Runs .queueDestroy s fun t => answers 0 0 t ∧ t.queue c (bitsOf (w 0) 16 4) = none) ∧
        (q.cmds ≠ [] → Runs .queueDestroy s fun t => t.fld 0x10148 0 1 = 1 ∧
          t.queue c (bitsOf (w 0) 16 4) = some { q with closing := true })))) ∧
  (∀ (s : State) (r : CtxRun), s.armed = [] → s.load.img.isSome → s.hostUp = true → s.fld 0x10148 0 1 = 0 →
    let w := fun i => (s.reg (0x10100 + 8 * i)).toNat
    let answers := fun (status : Nat) (result : Nat) (t : State) => t.reg 0x10148 = BitVec.ofNat 64 (256 * status) ∧
      t.reg 0x10150 = BitVec.ofNat 64 result
    let c := bitsOf (w 0) 0 12
    let gen := fun i => (if (r.entry i).gen = 0 then 1 else (r.entry i).gen)
    let holds := fun (t : State) (i obj : Nat) => ∃ r', t.ctx c = some r' ∧ r'.entry i = ⟨gen i, some obj, none⟩ ∧
      (∀ j, j ≠ i → r'.entry j = r.entry j) ∧ r'.queues = r.queues ∧ r'.lost = r.lost
    s.ctx c = some r →
    (s.admReserved [ones 0 12, ones 0 40, ones 0 32] = false → w 1 % 8 = 0 → 0 < w 2 → w 2 ≤ 65536 → (s.region (w 1)).isSome →
      (s.region (w 1 + 8 * w 2 - 1)).isSome → s.listReach (w 1) (8 * w 2) = .ok → r.keySlot = none →
      let es := u64s (w 2) (s.devBytes (w 1) (8 * w 2))
      let rd := s.devRead (plainReq none) (w 1) (8 * w 2)
      rd.poison = false → rd.st.hif = s.hif → rd.st.extentsOk r.words.part es = true → ∀ i o, r.freeHandle = some i →
      freeKey s.hif.objs 0 (min 0x100000 (s.hif.objs.length + 1)) = some o →
      Runs .objCreate s fun t => answers 0 (i + gen i * 65536) t ∧ holds t i o ∧ ∃ v, Tbl.find t.hif.objs o = some v ∧ v.creator = c ∧ v.refs = 1 ∧
        v.tag = 0 ∧ v.extents = es.map (fun x => (bitsOf x 16 24, bitsOf x 40 24 + 1)) ∧ ∀ j, j ≠ o → Tbl.find t.hif.objs j = Tbl.find s.hif.objs j) ∧
    (s.admReserved [ones 0 12 ||| ones 32 32] = false →
      let i := bitsOf (w 0) 32 16
      let e := r.entry i
      (∀ o, i < 2 ^ r.words.htLog2 → e.gen = bitsOf (w 0) 48 16 → e.obj = some o →
        (Runs .objFree s fun t => answers 0 0 t ∧ ∃ r', t.ctx c = some r' ∧ (r'.entry i).obj = none ∧ (r'.entry i).gen ≠ e.gen ∧
          ∀ j, j ≠ i → r'.entry j = r.entry j) ∧
        (∀ v, Tbl.find s.hif.objs o = some v → v.tag = 0 → o < 2 ^ 20 → v.gen < 2 ^ 12 → Runs .objExport s fun t =>
          ∃ nonce : BitVec 32, answers 0 (o + v.gen * 2 ^ 20 + nonce.toNat * 2 ^ 32) t ∧ t.hif.objs = s.hif.objs ∧
          t.keyValid (o + v.gen * 2 ^ 20 + nonce.toNat * 2 ^ 32) = true)) ∧
      (e.obj = none → Runs .objFree s fun t => answers 9 0 t ∧ t.hif.ctxs = s.hif.ctxs ∧ t.hif.objs = s.hif.objs)) ∧
    (s.admReserved [ones 0 12, ones 0 64] = false → s.keyValid (w 1) = true → ∀ i, r.freeHandle = some i →
      Runs .objImport s fun t => answers 0 (i + gen i * 65536) t ∧ holds t i (w 1 % 2 ^ 20)) ∧
    (s.admReserved [ones 0 12] = false → Runs .ctxQuery s fun t => answers 0 0 t ∧
      t.reg 0x10100 = BitVec.ofNat 64 ((if r.shownLost then 2 + r.code * 256 else 0) + (if r.slot.isSome then 2 ^ 63 else 0)) ∧
      t.reg 0x10138 = r.faultVa ∧ t.hif.objs = s.hif.objs ∧ t.mem = s.mem))

/-! ## The host interface -/

/-- R305, R308, R309, R317: an invalidation removes the translations of its address space that meet its range, or all of them, and no other, and
ends once no access of the space is under way; an accepted feature set is taken only inside the offer and before the lock, and the lock
sets LOCKED; the table area moves only while no context or object exists; and an event ring that owes an interrupt signals its
vector once. A write that does not reach the module, or meets an Insecure stream or I/O die 0 not at RUN, changes none of this.

R10 to R15, R17, R300: writes and reads of registers without a rule of their own, bit by bit as the register map gives its fields. A whole write
that sets no reserved bit gives each RW bit its value, and each RWL bit until the image's lock; clears each W1C bit where it is 1; and leaves
each RO and WO bit as it was. A reserved bit, an RWL register after the lock, an unassigned offset or a write that is not aligned drops the write, counts
it in DET_REG_VIOLATION and names it in DET_REG_LAST. A write of a low half alone is held until the high half is written, which then writes both; and a high half alone
is written with the low half as it stands. A read of a low half keeps the high half, and the next read of the high half answers
what was kept, whatever happened meanwhile; an 8-byte read answers both at once; a 1-byte read answers the byte it names, with the effect of a full
read; WO bits read as 0; and a read of a doorbell its queue's TAIL, or 0 where there is none. Outside the identity and status page nothing is written before a
load, which IDENT_PRELOAD_DROP counts, and reads are all ones.

How halves are combined is the reading of log 39; a low half held over an 8-byte write, and an 8-byte write over two 32-bit registers, are
choices of log 43; the end of an invalidation is log 13. -/
def Obligations.RegisterAccess : Prop :=
  ((∀ (s : State) (v : BitVec 64) (high : Bool), s.hostUp = false → exec (.featAcceptWrite high v) s = .next (s.hostRefused false) ∧
    exec .featLock s = .next (s.hostRefused false) ∧ exec (.hifTblBaseWrite v) s = .next (s.hostRefused false) ∧
    (v.getLsbD 24 = false → exec (.xltInvRange v) s = .next (s.hostRefused false)) ∧
    (v.getLsbD 24 = true → exec (.xltInvAll v) s = .next (s.hostRefused false))) ∧
  (∀ (s : State) (v : BitVec 64), s.armed = [] → s.load.img.isSome → s.hostUp = true → field v 25 38 = 0 → field v 22 2 = 0 →
    v.getLsbD 63 = true → s.fld 0x200010 0 1 = 0 →
    let asid : BitVec 16 := v.setWidth 16
    let k := field v 16 6
    let va := (s.reg 0x200000).toNat
    (v.getLsbD 24 = false → 12 ≤ k → k ≤ 57 → Runs (.xltInvRange v) s fun t => t.fld 0x200010 0 1 = 1 ∧
      t.mem.xlat = s.mem.xlat.filter (fun e => !(decide (e.asid = asid) &&
        decide (e.page * 2 ^ e.log2 / 2 ^ (max k e.log2) = va / 2 ^ (max k e.log2)))) ∧ t.mem.hbm = s.mem.hbm ∧ t.hif = s.hif) ∧
    (v.getLsbD 24 = true → Runs (.xltInvAll v) s fun t => t.fld 0x200010 0 1 = 1 ∧
      t.mem.xlat = s.mem.xlat.filter (fun e => decide (e.asid ≠ asid)) ∧ t.mem.hbm = s.mem.hbm ∧ t.hif = s.hif)) ∧
  (∀ s : State, s.fld 0x200010 0 1 = 1 → s.xltBusy (BitVec.ofNat 16 (s.reg 0x200008).toNat) = true → exec .xltInvDone s = .next s) ∧
  (∀ s : State, s.fld 0x200010 0 1 = 1 → s.xltBusy (BitVec.ofNat 16 (s.reg 0x200008).toNat) = false → Runs .xltInvDone s fun t =>
    t.fld 0x200010 0 1 = 0 ∧ t.fld 0x200010 32 32 = min (s.fld 0x200010 32 32 + 1) (2 ^ 32 - 1) ∧ t.mem = s.mem ∧ t.hif = s.hif) ∧
  (∀ (s : State) (high : Bool) (v : BitVec 64), s.armed = [] → s.load.img.isSome → s.hostUp = true →
    let off := if high then 0x1018 else 0x1010
    let offer := s.reg (if high then 0x1008 else 0x1000)
    (v &&& ~~~offer = 0 → s.fld 0x1028 0 1 = 0 → exec (.featAcceptWrite high v) s = .next (s.setReg off v)) ∧
    (v &&& ~~~offer ≠ 0 ∨ s.fld 0x1028 0 1 = 1 → exec (.featAcceptWrite high v) s = .next (s.det detFeatReject))) ∧
  (∀ s : State, s.armed = [] → s.load.img.isSome → s.hostUp = true → Runs .featLock s fun t => t.fld 0x1028 0 1 = 1 ∧ t.mem = s.mem ∧ t.hif = s.hif ∧
    t.load.locked = (s.load.locked || s.load.img.any fun i => i.lock)) ∧
  (∀ (s : State) (v : BitVec 64), s.armed = [] → s.load.img.isSome → s.hostUp = true → field v 0 16 = 0 → field v 40 24 = 0 →
    (s.hif.ctxs = [] → s.hif.objs = [] → Runs (.hifTblBaseWrite v) s fun t => t.fld regHifTblBase 16 24 = field v 16 24 ∧ t.mem = s.mem ∧ t.hif = s.hif) ∧
    (s.hif.ctxs ≠ [] ∨ s.hif.objs ≠ [] → exec (.hifTblBaseWrite v) s = .next (s.violation regHifTblBase 0 false))) ∧
  (∀ s : State, (s.hif.evrDue = true → Runs .evrInterrupt s fun t => t.out = .msix (s.fld regHifEvrCfg 16 11) :: s.out ∧ t.hif.evrDue = false ∧
    t.regs = s.regs ∧ t.mem = s.mem) ∧ (s.hif.evrDue = false → exec .evrInterrupt s = .next s))) ∧
  (let own := fun (off : Nat) => off ∈ [regIdentLoadCmd, regFeatAcceptLo, regFeatAcceptHi, regFeatCmd, regMbxCmd, regHifTblBase, regHifAdmCmd,
      regXltInvCtrl, regPwrLimit, regPwrPartReset, regDetCtrl, regDetLogSel, regRdgCfg] ∨
    (regIdentLoadData 0 ≤ off ∧ off < 0x1000) ∨ (0x401000 ≤ off ∧ off < 0x401800 ∧ off % 0x20 < 0x18) ∨
    (0x800080 ≤ off ∧ off < 0x8000A8) ∨ (0x801000 ≤ off ∧ off < 0x8018D0) ∨ (0xe00000 ≤ off ∧ off < 0xe00400 ∧ off % 0x40 < 0x18) ∨
    (0x1001000 ≤ off ∧ off < 0x1001400 ∧ off % 0x20 = 0) ∨ (0x1400000 ≤ off ∧ off < 0x1404000 ∧ off % 0x1000 ∈ [0, 0x28, 0x30, 0x58]) ∨
    (0x1801000 ≤ off ∧ off < 0x1801400)
  (∀ (s : State) (off : Nat) (d : RegDesc) (v : BitVec 64), s.armed = [] → s.hostUp = true → (s.load.img.isSome ∨ off < 0x1000) →
    off < 0x2000000 → regAt off = some d → off % 8 = 0 → ¬ own off →
    let reserved := (∃ i < 64, v.getLsbD i = true ∧ d.known.testBit i = false) ∨ (s.load.locked = true ∧ d.rwl ≠ 0)
    (¬ reserved → ∃ x, exec (.registerWrite off 8 v) s = .next (s.setReg off x) ∧ ∀ i < 64, x.getLsbD i =
      ((if d.rw.testBit i ∨ d.rwl.testBit i then v.getLsbD i else (s.reg off).getLsbD i) && !(v.getLsbD i && d.w1c.testBit i))) ∧
    (reserved → exec (.registerWrite off 8 v) s = .next (s.violation off 0 false))) ∧
  (∀ (s : State) (off : Nat) (d : RegDesc) (lo hi : BitVec 32), s.hostUp = true → (s.load.img.isSome ∨ off < 0x1000) → off < 0x2000000 →
    regAt off = some d → off % 8 = 0 → d.width = 64 → regAt (off + 4) = none →
    let free := { s with regs := { s.regs with held := Tbl.del s.regs.held off } }
    (∃ u, exec (.registerWrite off 4 (lo.setWidth 64)) s = .next u ∧ (∀ o, u.reg o = s.reg o) ∧ u.mem = s.mem ∧ u.hif = s.hif ∧
      exec (.registerWrite (off + 4) 4 (hi.setWidth 64)) u = exec (.registerWrite off 8 (hi ++ lo)) free) ∧
    (Tbl.find s.regs.held off = none → ¬ (regIdentLoadData 0 ≤ off ∧ off < 0x1000) → exec (.registerWrite (off + 4) 4 (hi.setWidth 64)) s =
      exec (.registerWrite off 8 (hi ++ (s.reg off &&& ~~~(BitVec.ofNat 64 d.wo)).setWidth 32)) free) ∧
    (¬ (0x100000 ≤ off ∧ off < 0x200000) →
      let view := s.regView off
      (¬ (0x401000 ≤ off ∧ off < 0x401800) → ¬ (0x402000 ≤ off ∧ off < 0x403000) → ¬ (0x801000 ≤ off ∧ off < 0x8018D0) →
        view = s.reg off &&& ~~~(BitVec.ofNat 64 d.wo)) ∧
      (Runs (.shadowRead ⟨0, off, 4⟩) s fun t => t.out = .regRead ((view.setWidth 32).setWidth 64) :: s.out ∧ (∀ o, t.reg o = s.reg o) ∧
        ∀ w : State, w.regs.shadow = t.regs.shadow → w.hostUp = true → (w.load.img.isSome ∨ off < 0x1000) →
          Runs (.shadowRead ⟨0, off + 4, 4⟩) w fun t2 => t2.out = .regRead (view >>> 32) :: w.out) ∧
      (Runs (.shadowRead ⟨0, off, 8⟩) s fun t => t.out = .regRead view :: s.out ∧ (∀ o, t.reg o = s.reg o)) ∧
      (∀ k < 8, Runs (.shadowRead ⟨0, off + k, 1⟩) s fun t => t.out = .regRead ((view >>> (8 * k)) &&& 0xFF) :: s.out ∧
        Tbl.find t.regs.shadow off = none ∧ ∀ o, t.reg o = s.reg o))) ∧
  (∀ (s : State) (ctx queue : Nat), s.hostUp = true → s.load.img.isSome → queue < 16 → Runs (.shadowRead ⟨2, 4096 * ctx + 8 * queue, 4⟩) s fun t =>
    t.out = .regRead (((s.queue ctx queue).map fun q => q.tail.setWidth 64).getD 0) :: s.out ∧ t.regs = s.regs ∧ t.hif = s.hif) ∧
  (∀ (s : State) (off : Nat) (v : BitVec 64), s.armed = [] → s.hostUp = true → s.load.img.isSome → off % 8 = 0 → off < 0x2000000 → regAt off = none →
    exec (.registerWrite off 8 v) s = .next (s.violation off 0 false)) ∧
  (∀ (s : State) (off size : Nat) (v : BitVec 64), s.hostUp = true → s.load.img = none → 0x1000 ≤ off →
    exec (.registerWrite off size v) s = .next (s.bumpFld regIdentPreloadDrop 0 64 1)) ∧
  (∀ (s : State) (bar off : Nat), s.hostUp = true → s.load.img = none → (bar ≠ 0 ∨ 0x1000 ≤ off) →
    exec (.preloadWriteDrop bar off) s = .next (s.bumpFld regIdentPreloadDrop 0 64 1)) ∧
  (∀ (s : State) (off : Nat), s.hostUp = true → s.load.img = none → 0x1000 ≤ off → off % 4 = 0 →
    Runs (.shadowRead ⟨0, off, 4⟩) s fun t => t.out = .regRead 0xFFFFFFFF :: s.out ∧ t.regs = s.regs) ∧
  (∀ (s : State) (off size : Nat) (v : BitVec 64), s.armed = [] → s.hostUp = true → s.load.img.isSome → (size = 4 ∨ size = 8) → off % size ≠ 0 →
    exec (.registerWrite off size v) s = .next (s.violation off 0 false)) ∧
  (∀ (s : State) (off size bar : Nat) (v : BitVec 64) (a : BarRead), s.hostUp = false →
    exec (.registerWrite off size v) s = .next (s.hostRefused false) ∧ exec (.preloadWriteDrop bar off) s = .next (s.hostRefused false) ∧
    exec (.shadowRead a) s = .next (s.hostRefused true)) ∧
  (∀ (s : State) (off lo n k : Nat), lo + n ≤ 64 → (s.bumpFld off lo n k).fld off lo n = min (s.fld off lo n + k) (2 ^ n - 1) ∧
    ∀ off', off' ≠ off → (s.bumpFld off lo n k).reg off' = s.reg off'))

/-- R303, R272, R300, R308: with an image loaded a BAR4 read of bytes a cistern holds, all inside one line, answers them, but for bytes of the
device's own, which are undefined to software; a write leaves its bytes there and no other device byte changed; an atomic answers the old value and
leaves the new one, and one not aligned to its size is a malformed TLP; where there is no memory an atomic answers 0; before a load a read or an
atomic answers all ones and a write is dropped and counted; and none acts where the host does not reach the module.

A read and a write act in one step (log 11); the device's own bytes read as free values (log 16). -/
def Obligations.HostMemoryAccess : Prop :=
  (∀ (s : State) (off n ch set pg : Nat) (l : CLine), Calm s → s.hostUp = true → s.load.img.isSome → 0 < n →
    let a := s.fld regHifBar4Base 28 12 * 2 ^ 28 + off
    a % 128 + n ≤ 128 → s.lineHome (a / 128) = some (ch, set, pg) → (∀ i < n, (s.region (a + i)).isSome) → (s.cistern ch).lineOf (a / 128) = some l →
    (∀ k < n, (Tbl.find l.bytes (a % 128 + k)).isSome) → l.poison = false → l.tag = 0 → s.reachDoms (wayTo (.host true) (ch / 64)) = .ok →
    s.heldBefore (.host false) none (a / 128) = false → s.heldBefore (.host true) none (a / 128) = false →
    s.writeWaits (a / 128) = false →
    let held := fun k => (Tbl.find l.bytes (a % 128 + k)).getD 0
    (Runs (.bar4Read off n) s fun t => (∃ data : List (BitVec 8), t.out = .hostRead data false :: s.out ∧ data.length = n ∧
        ∀ k < n, s.deviceOwn (a + k) = false → data.getD k 0 = held k) ∧
      (∀ x, t.devByte x = s.devByte x) ∧ t.regs = s.regs ∧ t.mem.hbm = s.mem.hbm) ∧
    (∀ data : List (BitVec 8), data.length = n → Runs (.bar4Write off data) s fun t =>
      (∀ x, t.devByte x = if a ≤ x ∧ x < a + n then data.getD (x - a) 0 else s.devByte x) ∧ t.regs = s.regs ∧ t.out = s.out) ∧
    (∀ (op : Nat) (b c : BitVec 64), n = 4 ∨ n = 8 → off % n = 0 → op < 3 → (∀ k < n, s.deviceOwn (a + k) = false) →
      let old := leVal ((List.range n).map held)
      let new := if op = 0 then old + b.toNat else if op = 1 then b.toNat else if old = b.toNat % 2 ^ (8 * n) then c.toNat else old
      Runs (.bar4Atomic off op n b c) s fun t => t.out = .hostRead (leBytes n old) false :: s.out ∧
        ∀ x, t.devByte x = if a ≤ x ∧ x < a + n then BitVec.ofNat 8 (new >>> (8 * (x - a))) else s.devByte x)) ∧
  (∀ (s : State) (off op n : Nat) (b c : BitVec 64), s.armed = [] → s.hostUp = true → s.load.img.isSome → n = 4 ∨ n = 8 →
    (off % n ≠ 0 → exec (.bar4Atomic off op n b c) s = .next (s.tlpRefused true true)) ∧
    (off % n = 0 → s.region (s.fld regHifBar4Base 28 12 * 2 ^ 28 + off) = none → Runs (.bar4Atomic off op n b c) s fun t =>
      t.out = .hostRead (leBytes n 0) false :: s.out ∧ t.mem = s.mem)) ∧
  (∀ (s : State) (off n : Nat), s.hostUp = true → s.load.img = none →
    exec (.bar4Read off n) s = .next { s with out := .hostRead (List.replicate n 0xFF) false :: s.out } ∧
    (∀ data, exec (.bar4Write off data) s = .next (s.bumpFld regIdentPreloadDrop 0 64 1)) ∧
    (∀ op b c, Runs (.bar4Atomic off op n b c) s fun t => t.out = .hostRead (List.replicate n 0xFF) false :: s.out ∧ t.mem = s.mem)) ∧
  (∀ (s : State) (off op n : Nat) (data : List (BitVec 8)) (b c : BitVec 64), s.hostUp = false →
    exec (.bar4Read off n) s = .next (s.hostRefused true) ∧ exec (.bar4Write off data) s = .next (s.hostRefused false) ∧
    exec (.bar4Atomic off op n b c) s = .next (s.hostRefused true) ∧ (s.hostRefused true).mem.hbm = s.mem.hbm ∧
    (s.pwr.linkUp = false → s.hostRefused true = s))

/-! ## The cisterns as memory -/

/-- R248, R253 to R258: from every calm state in which each cistern holds only its own lines, each once, a clean line's bytes are those of HBM, and a
line with a tag in HBM has it in its cistern, a
read at a cistern changes no byte of device memory, whatever it fetches, evicts or pins, and a write changes exactly the bytes it
names; and the state stays such a state. Reads and writes with the hint that gives lines up (R257) are not meant here. -/
def Obligations.CisternsHoldMemory : Prop :=
  ∀ (s : State) (q : MemReq) (line : Nat), Calm s → CisternsOk s → q.hint < 3 →
    (∀ offs : List Nat, (∀ o ∈ offs, o < 128) → CisternsOk (s.cisRead q line offs).st ∧ ∀ a, (s.cisRead q line offs).st.devByte a = s.devByte a) ∧
    (∀ bytes : Tbl (BitVec 8), Tbl.rising bytes = true → (∀ e ∈ bytes, e.1 < 128) → (s.lineHome line).isSome →
      tagDenied (s.reqTag q.ctx) (s.lineTag line) = false →
      (s.cisWrite q line bytes).poison = false ∧ CisternsOk (s.cisWrite q line bytes).st ∧ ∀ a, (s.cisWrite q line bytes).st.devByte a =
        if a / 128 = line then (Tbl.find bytes (a % 128)).getD (s.devByte a) else s.devByte a)

/-- R263: a window is enabled exactly when its range is not empty, its quota lies between 1 and the pin ceiling, and it meets no enabled window, and
while enabled it changes in nothing but EN; a write that breaks this is dropped and counted in DET_CIS_CFG_REJECT; disabling a window
makes its lines normal where they stand; and its range changes only while it is disabled. -/
def Obligations.PersistenceWindows : Prop :=
  ∀ (s : State) (w : Nat) (v : BitVec 64), s.armed = [] → s.hostUp = true → s.load.img.isSome → w < 64 →
    let ctrl := s.reg (regCisWinCtrl w)
    let base := fun x => s.fld (regCisWinBase x) 16 24
    let limit := fun x => s.fld (regCisWinLimit x) 16 24
    let may := base w < limit w ∧ 1 ≤ field v 3 4 ∧ field v 3 4 ≤ s.fld regCisCfg 25 4 ∧
      ∀ x < 64, x ≠ w → s.fld (regCisWinCtrl x) 0 1 = 1 → limit w ≤ base x ∨ limit x ≤ base w
    ((regAt (regCisWinCtrl w)).any (fun d => d.accepts v s.load.locked) = true → field v 0 1 = 1 →
      ((field ctrl 0 1 = 0 ∨ v >>> 1 = ctrl >>> 1) → may → exec (.cisWinCtrlWrite w v) s = .next (s.setReg (regCisWinCtrl w) v)) ∧
      (¬((field ctrl 0 1 = 0 ∨ v >>> 1 = ctrl >>> 1) ∧ may) → exec (.cisWinCtrlWrite w v) s = .next (s.det detCisCfgReject))) ∧
    ((regAt (regCisWinCtrl w)).any (fun d => d.accepts v s.load.locked) = true → field v 0 1 = 0 → field ctrl 0 1 = 1 → v >>> 1 = ctrl >>> 1 →
      Runs (.cisWinCtrlWrite w v) s fun t => t.fld (regCisWinCtrl w) 0 1 = 0 ∧ t.mem.hbm = s.mem.hbm ∧ t.tiles = s.tiles ∧
        ∀ ch, ∀ l ∈ (t.cistern ch).lines, ¬(l.persist = true ∧ l.win = w) ∧ ∃ l0 ∈ (s.cistern ch).lines, l.line = l0.line ∧ l.bytes = l0.bytes ∧
          l.dirty = l0.dirty ∧ l.poison = l0.poison) ∧
    (∀ lim : Bool, let off := if lim then regCisWinLimit w else regCisWinBase w
      (regAt off).any (fun d => d.accepts v s.load.locked) = true →
      exec (.cisWinRangeWrite w lim v) s = .next (if field ctrl 0 1 = 1 then s.det detCisCfgReject else s.setReg off v))

/-! ## Checkpoints -/

/-- R363, R376: a valid CKP_BEGIN that finds no checkpoint running and no engine inside a layer takes the instant: the checkpoint of its set
runs, every channel page that holds a line of the set is PROTECTED, CKP_STATUS and CKP_SEQ show it, and the command finishes with OK; one that is
not valid finishes with DESCRIPTOR_INVALID; and while a checkpoint runs it waits.

R364 to R366, Table 13.3: with a staging slot free a protected page becomes STAGED in it, the slot holding its lines as they stood; with none
free, and pairs able to send, it becomes COPIED, unless the checkpoint fails for its poison list or a pair in error. A page that is not protected
stays as it is.

Which pages a staging command names, and that the copy goes to HBM directly, are choices of the model (log 26). -/
def Obligations.CheckpointsBeginAndSavePages : Prop :=
  (∀ (s : State) (r : CmdRef) (run : CtxRun) (c : Cmd), s.cmd r = some c → s.ctx r.ctx = some run → c.phase = .started → run.words.conf = false →
    let f := fun lo n => bitsOf c.raw.toNat lo n
    let finished := fun (st : Nat) (t : State) => ∃ c', t.cmd r = some c' ∧ c' = { c with phase := .finished st, progress := 0 }
    let fine := f 128 57 % 16 = 0 ∧ f 448 64 % 65536 = 0 ∧ f 384 57 % 8 = 0 ∧ s.enabledQps ≠ []
    f 0 8 = 0x30 →
    (¬fine → Runs (.ckpBegin r) s fun t => finished 9 t ∧ t.eng = s.eng ∧ t.mem = s.mem) ∧
    (fine → s.eng.ckpt.isSome → exec (.ckpBegin r) s = .next s) ∧
    (∀ bs t1, fine → s.eng.ckpt = none → s.vKeep (.cmd r) r.ctx (plainReq (some r.ctx)) (f 128 57) (16 * (f 192 12 + 1)) = .ok bs t1 →
      t1.cmd r = some c →
      (t1.setOf run (f 192 12 + 1) bs = none → Runs (.ckpBegin r) s fun t => finished 9 t ∧ t.eng = t1.eng ∧ t.mem = t1.mem) ∧
      (∀ set, t1.setOf run (f 192 12 + 1) bs = some set → t1.instantOk run.words.part = true → Runs (.ckpBegin r) s fun t => finished 0 t ∧
        (∃ k, t.eng.ckpt = some k ∧ k.ctx = r.ctx ∧ k.part = run.words.part ∧ k.set = set ∧ k.seq.toNat = f 256 64 ∧ k.step.toNat = f 320 32 ∧
          k.cevt.toNat = f 384 57 ∧ k.img.toNat = f 448 64 ∧ k.walk = 0 ∧ k.sent = false ∧ k.poison = []) ∧
        (∀ p ∈ t1.markedPages set, (t.pageAt p.1 p.2).state = 1) ∧ t.fld regCkpStatus 0 3 = 2 ∧ (t.reg regCkpSeq).toNat = f 256 64 ∧
        t.mem.hbm = t1.mem.hbm))) ∧
  (∀ (s : State) (k : Ckpt) (chan page : Nat), s.eng.ckpt = some k → Calm s →
    (∀ slot, (s.pageAt chan page).state = 1 → s.freeStage k.part = some slot → s.domState (domOfChan chan) = 0 →
      s.domState (domOfStack chan) = 0 → s.wipesDue = [] →
      let base := s.stageDpa k.part slot / 128
      (∀ i l j, (i, l) ∈ s.pageLines chan page → j < 512 → l ≠ base + j) →
      Runs (.ckpPageStageDone chan page) s fun t => t.pageAt chan page = ⟨2, slot⟩ ∧ t.eng.ckpt = some k ∧
        ∀ i l, (i, l) ∈ s.pageLines chan page → ∀ j < 128, t.hbmByte (128 * (base + i) + j) = s.devByte (128 * l + j)) ∧
    ((s.pageAt chan page).state = 1 → s.freeStage k.part = none → s.enabledQps ≠ [] → s.enabledQps.any s.pairPaused = false →
      Runs (.ckpDirectSaveDone chan page) s fun t => ((t.pageAt chan page).state = 3 ∧ t.eng.ckpt.isSome) ∨ t.eng.ckpt = none) ∧
    ((s.pageAt chan page).state = 1 → s.enabledQps.any s.pairPaused = true →
      Runs (.ckpDirectSaveDone chan page) s fun t => t.mem = s.mem ∧ t.eng = s.eng ∧ t.out = s.out) ∧
    ((s.pageAt chan page).state ≠ 1 → exec (.ckpPageStageDone chan page) s = .next s ∧ exec (.ckpDirectSaveDone chan page) s = .next s))

/-- R368 to R371: the stream goes on a page of the image at a time and then, once every data write is acknowledged, sends the manifest;
acknowledgements take the oldest open writes off their pair, as many as they cover, and CKP_PROGRESS counts their data bytes; the commit of a
checkpoint leaves its sequence number and step in CKP_LAST_COMMIT and every page in NONE.

R370, R372, R376: a checkpoint that fails (its CKP_ABORT, a pair or a page-state entry) is gone, every page is in NONE, and CKP_STATUS
shows no checkpoint and the cause; CKP_ABORT then finishes with OK. A pair whose timeout expires sends every open write again, and after
seven retries, or where its I/O die has FAILED (R416), enters the error state and fails the checkpoint.

The parts of CKP_LAST_TIME and the causes of the row CKP_FAIL are choices of the model (log 26). -/
def Obligations.CheckpointsStreamCommitAndFail : Prop :=
  (∀ (s : State) (k : Ckpt), s.eng.ckpt = some k → Calm s →
    (∀ e j dpa, s.enabledQps ≠ [] → (setPages k.set)[k.walk / 512]? = some (e, j, dpa) →
      s.chunkReach ((List.range 512).map fun i => s.readPlace k.part (dpa / 128 + i)) = none → s.pairPaused (s.pairFor (65536 * (k.walk / 512))) = false →
      Runs .ckpStreamWrite s fun t => t.eng.ckpt = none ∨ ∃ k', t.eng.ckpt = some k' ∧ k'.walk = k.walk + 512 ∧ k'.set = k.set ∧ k'.seq = k.seq ∧
        k'.sent = k.sent ∧ k.poison <+: k'.poison) ∧
    (s.enabledQps ≠ [] → (setPages k.set)[k.walk / 512]? = none → k.sent = false → s.allAcked = true → s.pairFailed = false → s.pairPaused (s.enabledQps.headD 0) = false →
      Runs .ckpStreamWrite s fun t => (∃ k', t.eng.ckpt = some k' ∧ k' = { k with sent := true, manifest := s.manifestOf k }) ∧
        t.fld regCkpStatus 0 3 = 3 ∧ t.mem = s.mem) ∧
    (∀ q bytes, s.enabledQps = [q] → k.sent = false → Runs (.ckpStoreAck bytes) s fun t => ∃ n,
      (t.qp q).unacked = (s.qp q).unacked.drop n ∧ (((s.qp q).unacked.take n).map (·.2.2)).sum ≤ bytes ∧
      (n < (s.qp q).unacked.length → bytes < (((s.qp q).unacked.take (n + 1)).map (·.2.2)).sum) ∧ t.eng.ckpt = some k ∧
      t.fld regCkpProgress 0 40 = min (s.fld regCkpProgress 0 40 + dataBytes k ((s.qp q).unacked.take n)) (2 ^ 40 - 1)) ∧
    (k.sent = true → Runs .ckpCommit s fun t => t.eng.ckpt = none ∧ t.reg regCkpLastCommitSeq = k.seq ∧
      t.reg regCkpLastCommitStep = k.step.setWidth 64 ∧ t.fld regCkpStatus 0 3 = 0 ∧ ∀ ch p, (t.pageAt ch p).state = 0) ∧
    (k.sent = false → s.eng.evDue = [] → exec .ckpCommit s = .next s)) ∧
  (∀ (s : State) (k : Ckpt), s.eng.ckpt = some k → s.armed = [] →
    let gone := fun (cause : Nat) (t : State) => t.eng.ckpt = none ∧ t.fld regCkpStatus 0 3 = 0 ∧ t.fld regCkpStatus 20 3 = cause ∧
      ∀ ch p, (t.pageAt ch p).state = 0
    (∀ r c, s.cmd r = some c → c.phase = .started → bitsOf c.raw.toNat 0 8 = 0x31 → k.ctx = r.ctx → Runs (.ckpAbort r) s fun t => gone 1 t ∧
      ∃ c', t.cmd r = some c' ∧ c' = { c with phase := .finished 0, progress := 0 }) ∧
    (∀ r c, s.cmd r = some c → c.phase = .started → bitsOf c.raw.toNat 0 8 = 0x31 → k.ctx ≠ r.ctx → Runs (.ckpAbort r) s fun t =>
      t.eng.ckpt = some k ∧ ∃ c', t.cmd r = some c' ∧ c' = { c with phase := .finished 0, progress := 0 }) ∧
    (s.enabledQps ≠ [] → Runs (.ckpFail 2) s fun t => gone 2 t ∧ ∃ q ∈ s.enabledQps, t.fld (regCkpQpCtrl q) 5 2 = 2) ∧
    (s.enabledQps = [] → exec (.ckpFail 2) s = .next s) ∧ Runs (.ckpFail 3) s (gone 3) ∧
    (∀ q, q < 16 → (s.qp q).unacked ≠ [] → s.fld (regCkpQpCtrl q) 5 2 = 1 → s.pairPaused q = false →
      ((s.qp q).retries < 7 → s.domState (s.pairDie q) ≠ 6 → Runs (.roceRetryTimeout q) s fun t => t.eng.ckpt = some k ∧ t.qp q = { s.qp q with retries := (s.qp q).retries + 1 } ∧
        t.out.length = s.out.length + (s.qp q).unacked.length ∧ t.mem = s.mem ∧ t.regs = s.regs) ∧
      (7 ≤ (s.qp q).retries ∨ s.domState (s.pairDie q) = 6 → Runs (.roceRetryTimeout q) s fun t => gone 2 t ∧ t.fld (regCkpQpCtrl q) 5 2 = 2)))

/-- R375, R376, R377: once every enabled pair can send, CKP_RESTORE reads the set and the manifest, and where a check of either fails it finishes
with DESCRIPTOR_INVALID and writes nothing; else it writes MANBUF and restores the ranges, the poison list and the collectives' steps. A pair is enabled with its
PSNs, and keeps the writes that are not acknowledged while it is disabled, and its port and MTU change only while it is disabled.

That a restore waits for every enabled pair, and that a pair keeps its open writes over EN = 0, are choices of the model (log 26). -/
def Obligations.RestoresAndQueuePairs : Prop :=
  (∀ (s : State) (r : CmdRef) (run : CtxRun) (c : Cmd) (manifest data bs : List (BitVec 8)) (t1 : State), s.cmd r = some c →
    s.ctx r.ctx = some run → c.phase = .started → bitsOf c.raw.toNat 0 8 = 0x32 →
    let n := bitsOf c.raw.toNat 192 12 + 1
    let ready := s.enabledQps ≠ [] ∧ ∀ q ∈ s.enabledQps, s.fld (regCkpQpCtrl q) 5 2 = 1 ∧ s.pairPaused q = false ∧ s.domState (s.pairDie q) = 0
    (¬ ready → Runs (.ckpRestore r manifest data) s fun t => t.cmd r = some c ∧ t.mem = s.mem ∧ t.eng = s.eng ∧ t.out = s.out) ∧
    (ready → s.vKeep (.cmd r) r.ctx (plainReq (some r.ctx)) (bitsOf c.raw.toNat 128 57) (16 * n) = .ok bs t1 → t1.cmd r = some c →
      let refused := Runs (.ckpRestore r manifest data) s fun t =>
        (∃ c', t.cmd r = some c' ∧ c' = { c with phase := .finished 9, progress := 0 }) ∧ t.mem = t1.mem
      (t1.setOf run n bs = none → refused) ∧
      (∀ set, t1.setOf run n bs = some set → (manifestOk manifest set = false → refused) ∧
        (∀ u, manifestOk manifest set = true →
          t1.vWrite (.cmd r) r.ctx (plainReq (some r.ctx)) (bitsOf c.raw.toNat 320 57) manifest = .ok () u →
          exec (.ckpRestore r manifest data) s =
            .next ((u.boardDone (.cmd r)).restoreAll r (bitsOf c.raw.toNat 256 64) manifest data set))))) ∧
  (∀ (s : State) (q : Nat) (v : BitVec 64), s.armed = [] → s.hostUp = true → s.load.img.isSome → q < 16 → field v 7 1 = 0 → field v 32 32 = 0 →
    let on := s.fld (regCkpQpCtrl q) 0 1 = 1
    let same := field v 1 4 = s.fld (regCkpQpCtrl q) 1 4
    (¬on → field v 0 1 = 1 → Runs (.ckpQpCtrlWrite q v) s fun t => t.fld (regCkpQpCtrl q) 0 1 = 1 ∧ t.fld (regCkpQpCtrl q) 5 2 = 1 ∧
      t.fld (regCkpQpCtrl q) 1 4 = field v 1 4 ∧ (t.qp q).unacked.map Prod.snd = (s.qp q).unacked.map Prod.snd ∧
      (∀ w, (t.qp q).unacked.head? = some w → w.1.toNat = s.fld (regCkpQpDest q) 24 24) ∧
      ((s.qp q).unacked = [] → (t.qp q).psn.toNat = s.fld (regCkpQpDest q) 24 24)) ∧
    (¬on → field v 0 1 = 0 → Runs (.ckpQpCtrlWrite q v) s fun t => t.fld (regCkpQpCtrl q) 0 1 = 0 ∧
      t.fld (regCkpQpCtrl q) 1 4 = field v 1 4 ∧ t.eng = s.eng) ∧
    (on → same → field v 0 1 = 0 → Runs (.ckpQpCtrlWrite q v) s fun t => t.fld (regCkpQpCtrl q) 0 1 = 0 ∧
      t.fld (regCkpQpCtrl q) 5 2 = 0 ∧ (t.qp q).unacked = (s.qp q).unacked) ∧
    (on → ¬same → field v 0 1 = 1 → exec (.ckpQpCtrlWrite q v) s = .next (s.det detCkpCfgReject)))

/-! ## Update engines (07) -/

/-- R207, R208, R209: an update command whose payload and table header pass the checks starts: UPD_RUN enters its engines' list with no layer taken, in update
mode with a step other than 0 and in refresh mode with step 0; UPD_SET_STEP writes each source word with its step to the step entries, in order,
and finishes with OK. One that fails a check finishes with DESCRIPTOR_INVALID and writes nothing.

R204, R206, R209, R212, R220, R210: the free engine of lowest index that has a layer to run takes it, and holds it where its reads must wait; another waits. An invalid record, or a step size that is not one, gives STATUS 4, a
step not above LASTSTEP STATUS 2, and neither changes memory; a gradient that is not finite under NFSKIP gives STATUS 3; else the passes write exactly the new
masters, moments and statistics of the rule, P2, and both narrow orders, and a refresh the narrow orders alone. Once its writes
are performed the engine writes LASTSTEP and STATUS, and is idle.

The order of an engine's checks is the reading of log 24; that an invalid record comes before a stale step is a choice of log 48; a layer is
one step (log 11). -/
def Obligations.UpdatesStartAndRun : Prop :=
  (∀ (s : State) (r : CmdRef) (c : Cmd), s.cmd r = some c → c.phase = .started → (∀ u ∈ s.eng.upds, u.r ≠ r) →
    let f := fun lo n => bitsOf c.raw.toNat lo n
    let finished := fun (st : Nat) (t : State) => ∃ c', t.cmd r = some c' ∧ c' = { c with phase := .finished st, progress := 0 }
    f 128 57 % 64 = 0 → ∀ h t1, s.updHeader r (.cmd r) c = .ok h t1 → t1.cmd r = some c →
      let enters := fun (t : State) => t.eng.upds = t1.eng.upds ++ [⟨r, 0, 0, false, []⟩] ∧ t.mem = t1.mem ∧ t.eng.spurs = t1.eng.spurs
      let refused := fun (t : State) => finished 9 t ∧ t.mem = t1.mem ∧ t.eng = t1.eng
      let ok := updOk c.raw.toNat h (ones 128 57 ||| ones 192 97) = true
      (f 0 8 = 0x10 → f 288 1 = 0 → (ok ∧ f 256 32 ≠ 0 → Runs (.updRun r) s enters) ∧ (¬(ok ∧ f 256 32 ≠ 0) → Runs (.updRun r) s refused)) ∧
      (f 0 8 = 0x10 → f 288 1 = 1 → (ok ∧ f 256 32 = 0 → Runs (.updRunRefresh r) s enters) ∧
        (¬(ok ∧ f 256 32 = 0) → Runs (.updRunRefresh r) s refused)) ∧
      (f 0 8 = 0x11 →
        let good := updOk c.raw.toNat h (ones 128 57 ||| ones 192 96 ||| ones 320 57) = true ∧ f 256 32 ≠ 0 ∧ f 320 57 % 4 = 0
        (good → ∀ bs t2 t3, t1.vKeep (.cmd r) r.ctx (engReq r.ctx) (f 320 57) (4 * f 224 32) = .ok bs t2 →
          t2.vWrite (.cmd r) r.ctx (engReq r.ctx) (bitsOf h 128 57 + 8 * f 192 32)
            ((u32s (f 224 32) bs).flatMap fun e => leBytes 8 (e + f 256 32 * 2 ^ 32)) = .ok () t3 → t3.cmd r = some c →
          Runs (.updSetStep r) s fun t => finished 0 t ∧ t.mem = t3.mem ∧ t.eng = t3.eng) ∧
        (¬good → Runs (.updSetStep r) s refused))) ∧
  ((∀ (s : State) (spur : Nat) (u : UpdRun) (c : Cmd) (i : Nat), s.armed = [] → Tbl.find s.eng.spurs spur = none →
    (s.engineTurn spur = false → exec (.updLayer spur) s = .next s) ∧
    (s.engineTurn spur = true → s.nextLayer spur = some (u, c, i) → ∀ hdr s1 lr s2 ent s3,
    let va := s.layerVa u.r i
    let o := Owner.spur spur
    (∀ t, s.updHeader u.r o c = .stall t → exec (.updLayer spur) s = .next (t.holdLayer spur u i)) ∧ (
    s.updHeader u.r o c = .ok hdr s1 → s1.vNums o u.r.ctx 0 va 1 128 = .ok [lr] s2 →
    (if cmdFld c 288 1 = 1 then Go.ok [0] s2 else s2.vNums o u.r.ctx 0 (bitsOf hdr 128 57 + 8 * i) 1 8) = .ok [ent] s3 → s3.armed = [] →
    let l : LRec := BitVec.ofNat 1024 lr
    let eta := ent % 2 ^ 32
    let step := cmdFld c 256 32
    let key : BitVec 64 := BitVec.ofNat 64 hdr
    let takes := fun (st : Nat) (w : State) (t : State) => t.mem = w.mem ∧
      ∃ e, Tbl.find t.eng.spurs spur = some e ∧ e.r = u.r ∧ e.layer = i ∧ e.va = va ∧ e.status = st
    (layerOk l = false ∨ (cmdFld c 288 1 = 0 ∧ f32NonNeg eta = false) → Runs (.updLayer spur) s (takes 4 s3)) ∧
    (layerOk l = true → cmdFld c 288 1 = 1 → ∀ w t1 t2, s3.vNums o u.r.ctx 0 (lWbase l) (lElems l) 4 = .ok w t1 →
      t1.vWrites o u.r.ctx (orderWrites l (narrowOrders l key (lLast l) w)) = .ok () t2 → Runs (.updLayer spur) s (takes 5 t2)) ∧
    (layerOk l = true → cmdFld c 288 1 = 0 → f32NonNeg eta = true →
      (step ≤ lLast l → Runs (.updLayer spur) s (takes 2 s3)) ∧
      (lLast l < step → ∀ u0 g1 t0, (if ent / 2 ^ 32 ≠ step then s3.det detUpdStaleStep else s3) = u0 →
        u0.scanPass o u.r.ctx l = .ok g1 t0 → t0.armed = [] →
        (lNfskip l = true → g1.any f32NonFinite = true → Runs (.updLayer spur) s (takes 3 t0)) ∧
        (∀ b t1 t2, lNfskip l = false ∨ g1.any f32NonFinite = false → t0.layerBufs o u.r.ctx l g1 = .ok b t1 →
          let n := layerStep l eta b
          t1.vWrites o u.r.ctx ([(lWbase l, 0, numBytes 4 n.1.w), (lMbase l, 0, if lMoment l then numBytes 4 n.1.m else []),
            (lRbase l, 0, if lFactored l then numBytes 4 n.1.r else []), (lCbase l, 0, if lFactored l then numBytes 4 n.1.c else []),
            (va + 116, 0, if lFactored l then leBytes 4 n.2 else [])] ++ orderWrites l (narrowOrders l key step n.1.w)) = .ok () t2 →
          Runs (.updLayer spur) s (takes 1 t2))))))) ∧
  (∀ (s : State) (spur : Nat) (e : UpdEng) (u : UpdRun) (c : Cmd), Tbl.find s.eng.spurs spur = some e → e.adds = [] → s.boardBusy (.spur spur) = false →
    s.cmd e.r = some c → s.eng.upds = [u] → u.r = e.r → ∀ s0 t1, s0 = { s with eng := { s.eng with spurs := Tbl.put s.eng.spurs spur e } } →
    s0.vWrite (.cmd e.r) e.r.ctx (engReq e.r.ctx) (if e.status = 1 ∨ e.status = 3 then e.va + 120 else e.va + 124)
      (if e.status = 1 ∨ e.status = 3 then leBytes 8 (cmdFld c 256 32 + e.status * 2 ^ 32) else leBytes 1 e.status) = .ok () t1 →
    t1.eng = s0.eng → t1.cmd e.r = some c → Runs (.updLayerDone spur) s fun t => t.mem = t1.mem ∧ Tbl.find t.eng.spurs spur = none ∧
      (if cmdFld c 224 32 ≤ u.done + 1 then t.eng.upds = [] ∧ ∃ c', t.cmd e.r = some c' ∧ c'.phase = .finished (if u.bad then 9 else 0)
       else t.eng.upds = [{ u with done := u.done + 1 }] ∧ t.cmd e.r = some c)))

/-- R210: the rules U-SGDM and U-SIGN, element by element, in F32 with one rounding for each operation: momentum, look-ahead, decay and the
step; and what the operations are: the product, and the fused product and sum, of two codes' exact values, rounded once. -/
def Obligations.UpdateRules : Prop :=
  (∀ (l : LRec) (eta : Nat) (b : LBufs) (k w : Nat), b.w[k]? = some w →
    let g := b.g.getD k 0
    let m := b.m.getD k 0
    let decayed := f32Mul (f32Fma (f32Neg eta) (lLam l) 0x3F800000) w
    let n := (layerStep l eta b).1
    (lRule l = 0 → n.m[k]? = some (f32Fma (lB1 l) m g) ∧
      n.w[k]? = some (f32Fma (f32Neg eta) (if lLook l then f32Fma (lB1 l) (f32Fma (lB1 l) m g) g else f32Fma (lB1 l) m g) decayed)) ∧
    (lRule l = 3 → n.m[k]? = some (f32Fma (lB2 l) m (f32Mul (f32Sub 0x3F800000 (lB2 l)) g)) ∧
      n.w[k]? = some (f32Fma (f32Neg eta) (f32Sgn (f32Fma (lB1 l) m (f32Mul (f32Sub 0x3F800000 (lB1 l)) g))) decayed))) ∧
  (∀ a b c : Nat, f32Mul a b = fF32.encode 0 false (fMul (fF32.decode a) (fF32.decode b)) ∧
    f32Fma a b c = fF32.encode 0 false (fAdd 0 (fMul (fF32.decode a) (fF32.decode b)) (fF32.decode c)))

/-! ## Schedules and REMOTE_SIGNAL (08, 12) -/

/-- R228: the order of a schedule's releases: the warm-up of min(P - 1 - S, B) forwards, then one forward and one backward in turn, then the
remaining backwards. Every micro-batch is released once forward and once backward, forward first, and both kinds come in rising order. -/
def Obligations.ScheduleOrder : Prop :=
  ∀ x : SchedRun, sS x.desc < sP x.desc →
    let b := sB x.desc
    let w := min (sP x.desc - 1 - sS x.desc) b
    (∀ k < w, x.at k = (true, k)) ∧
    (∀ j < b - w, x.at (w + 2 * j) = (true, w + j) ∧ x.at (w + 2 * j + 1) = (false, j)) ∧
    (∀ i, b - w ≤ i → i < b → x.at (b + i) = (false, i)) ∧
    (∀ i < b, ∀ fwd, ∃ k, (k < 2 * b ∧ x.at k = (fwd, i)) ∧ ∀ k', k' < 2 * b → x.at k' = (fwd, i) → k' = k) ∧
    (∀ k k' i, k < 2 * b → k' < 2 * b → x.at k = (true, i) → x.at k' = (false, i) → k < k') ∧
    (∀ k k' i i' fwd, k < k' → k' < 2 * b → x.at k = (fwd, i) → x.at k' = (fwd, i') → i < i')

/-- R226 to R231: a SCHED_RUN with a good payload, descriptor and record, of a step above LASTSTEP that has not run, runs from nothing released, or from
what its record says has completed; a step that has run finishes at once with OK, and a bad one, or one whose queue is destroyed, with
DESCRIPTOR_INVALID. A release whose event has reached its count joins the queue with the
template's bits, its micro-batch and its step; one below its count waits; a poisoned event ends the step with FENCE_POISONED. Completed releases
count in their order, and the last one ends the command with OK.

The identity of a state record and when it is written are readings of log 24. -/
def Obligations.SchedulesRun : Prop :=
  ∀ (s : State) (r : CmdRef) (c : Cmd) (run : CtxRun), s.cmd r = some c → s.ctx r.ctx = some run →
    let f := fun lo n => bitsOf c.raw.toNat lo n
    let ends := fun (st : Nat) (w : State) (t : State) => (∃ c', t.cmd r = some c' ∧ c'.phase = .finished st) ∧ t.mem = w.mem ∧ ∀ x ∈ t.eng.scheds, x.r ≠ r
    (c.phase = .started → f 0 8 = 0x18 → s.armed = [] → s.sched r = none → s.schedsIn run.words.part < 16 →
      (f 128 57 % 64 ≠ 0 ∨ f 192 32 = 0 ∨ c.raw.toNat >>> 224 ≠ 0 → Runs (.schedRun r) s (ends 9 s)) ∧
      (f 128 57 % 64 = 0 → f 192 32 ≠ 0 → f 185 7 = 0 → c.raw.toNat >>> 224 = 0 → ∀ ds s1,
        s.vKeep (.cmd r) r.ctx (plainReq (some r.ctx)) (f 128 57) 64 = .ok ds s1 → s1.cmd r = some c → s1.eng = s.eng →
        let d : BitVec 512 := BitVec.ofNat 512 (leVal ds)
        (schedOk (leVal ds) = false ∨ s1.schedAllowed r d = false → Runs (.schedRun r) s (ends 9 s1)) ∧
        (schedOk (leVal ds) = true → s1.schedAllowed r d = true → ∀ rs s2, s1.vKeep (.cmd r) r.ctx (engReq r.ctx) (sState d) 64 = .ok rs s2 →
          s2.armed = [] → s2.cmd r = some c → s2.eng = s.eng →
          let old := leVal rs
          let step := f 192 32
          let ran := step ≤ bitsOf old 96 32 ∨ (bitsOf old 0 32 = step ∧ bitsOf old 80 3 = 4)
          let goesOn := bitsOf old 0 32 = step ∧ (bitsOf old 80 3 = 1 ∨ bitsOf old 80 3 = 2 ∨ bitsOf old 80 3 = 3 ∨ bitsOf old 80 3 = 5)
          (schedRecOk old = false → Runs (.schedRun r) s (ends 9 s2)) ∧
          (schedRecOk old = true → ran → Runs (.schedRun r) s (ends 0 s2)) ∧
          (schedRecOk old = true → ¬ran →
            (∀ t1, ¬goesOn →
              let x : SchedRun := ⟨r, d, step, bitsOf old 96 32, 0, 0, 0, 0, [], !sSbarEn d, false⟩
              s2.schedWrite x x.phase x.last = .ok () t1 → t1.eng = s.eng →
              Runs (.schedRun r) s fun t => t.sched r = some x ∧ t.mem = t1.mem) ∧
            (∀ t1, goesOn →
              let f := bitsOf old 56 12
              let b := bitsOf old 68 12
              let x : SchedRun := ⟨r, d, step, bitsOf old 96 32, f, b, f, b, [], !sSbarEn d || decide (0 < f + b), false⟩
              s2.schedWrite x x.phase x.last = .ok () t1 → t1.eng = s.eng →
              Runs (.schedRun r) s fun t => t.sched r = some x ∧ t.mem = t1.mem))))) ∧
    (∀ (x : SchedRun) (i : Nat) t1, s.sched r = some x → x.r = r →
      (x.closed = true ∨ Tbl.find run.queues (sQueue x.desc) = none ∨ (∃ q, Tbl.find run.queues (sQueue x.desc) = some q ∧ q.closing = true)) →
      s.schedWrite x 5 x.last = .ok () t1 → t1.cmd r = some c →
      Runs (.schedRelease r) s (ends 9 t1) ∧ (x.closed = true → Runs (.schedCompletionCount r i) s (ends 9 t1))) ∧
    (∀ (x : SchedRun) (q : Queue), s.sched r = some x → Tbl.find run.queues (sQueue x.desc) = some q → q.closing = false → x.closed = false → x.barred = true → x.r = r →
      run.lost = false → x.nf + x.nb < 2 * sB x.desc → q.cmds.length < 64 →
      let next := x.at (x.nf + x.nb)
      let ev := if next.1 then sFin x.desc else sBin x.desc
      let need := (x.step - 1) * sB x.desc + next.2 + 1
      (next.1 = false → x.fwdDone next.2 = false → exec (.schedRelease r) s = .next s) ∧
      (next.1 = true ∨ x.fwdDone next.2 = true → ∀ v t1, (ev = 0 ∧ t1 = s) ∨ (ev ≠ 0 ∧ s.evRead (.cmd r) r.ctx ev = .ok v t1) →
        (ev ≠ 0 → v.getLsbD 63 = false → v.toNat < need → exec (.schedRelease r) s = .next t1) ∧
        (ev ≠ 0 → v.getLsbD 63 = true → ∀ t2, t1.schedWrite x 5 x.last = .ok () t2 → t2.cmd r = some c →
          Runs (.schedRelease r) s (ends 2 t2)) ∧
        (ev = 0 ∨ (v.getLsbD 63 = false ∧ need ≤ v.toNat) → ∀ bs s1 s2 s3 t2,
          let r' : CmdRef := ⟨r.ctx, sQueue x.desc, q.next⟩
          let raw : BitVec 512 := BitVec.ofNat 512 (setBits (setBits (leVal bs) 448 32 next.2) 480 32 x.step)
          let y : SchedRun := { x with nf := if next.1 then x.nf + 1 else x.nf, nb := if next.1 then x.nb else x.nb + 1,
                                       rel := x.rel ++ [Released.mk r' next.1 next.2 false] }
          t1.vKeep (.cmd r) r.ctx (engReq r.ctx) (if next.1 then sFcmd x.desc else sBcmd x.desc) 64 = .ok bs s1 →
          s1.releaseTo r' run raw = .ok s2 s3 → s2.schedWrite y y.phase y.last = .ok () t2 → t2.eng.scheds = s.eng.scheds →
          Runs (.schedRelease r) s fun t => t.sched r = some y ∧ t.mem = t2.mem ∧ t.hif = t2.hif))) ∧
    (∀ (x : SchedRun) (i : Nat), s.sched r = some x → x.r = r → x.closed = false →
      (x.rel.length ≤ i ∨ (∃ k ∈ x.rel.take (i + 1), k.done = false) → exec (.schedCompletionCount r i) s = .next s) ∧
      (i < x.rel.length → (∀ k ∈ x.rel.take (i + 1), k.done = true) →
        let n := fun b => ((x.rel.take (i + 1)).filter fun k => k.fwd == b).length
        let y : SchedRun := { x with nfc := x.nfc + n true, nbc := x.nbc + n false, rel := x.rel.drop (i + 1) }
        (y.nfc = sB x.desc → y.nbc = sB x.desc → ∀ t1, s.schedWrite y 4 x.step = .ok () t1 → t1.cmd r = some c →
          Runs (.schedCompletionCount r i) s (ends 0 t1)) ∧
        (y.nfc ≠ sB x.desc ∨ y.nbc ≠ sB x.desc → ∀ t1, s.schedWrite y y.phase y.last = .ok () t1 → t1.eng.scheds = s.eng.scheds →
          Runs (.schedCompletionCount r i) s fun t => t.sched r = some y ∧ t.mem = t1.mem)))

/-- R345, R352: a started REMOTE_SIGNAL sends a SIGNAL frame with its target and value under a fresh tag and waits for the answer; where the frame finds no
route, or goes to a slot of this module that refuses it, the command finishes with DESCRIPTOR_INVALID. A resend sends the same frame with the same tag; once RSP_TIMEOUT has passed the command
finishes with DESCRIPTOR_INVALID, counted in DET_RDG_TIMEOUT.

R351, R352, R241, R242, R353: a SIGNAL that its slot accepts is performed on the slot's event and answered, one that the slot refuses is refused with NAK code 7; the
answer to a REMOTE_SIGNAL finishes its command with OK. A BARRIER frame records the step its sender has reached, and a frame of a
collective that is not open is refused with NOT_OPEN; a contribution of a member is added at its holder, and a result's parts enter DST where the COLL_RUN of
their step runs; one of no member does nothing, and one whose payload holds no whole parts is malformed.

Times are told by the heartbeat (log 17) and corners of frames are readings of log 28. -/
def Obligations.SignalsBetweenModules : Prop :=
  (∀ (s : State) (r : CmdRef) (c : Cmd), s.cmd r = some c → c.phase = .started → cmdFld c 0 8 = 0x28 → s.armed = [] →
    let finished := fun (t : State) => ∃ c', t.cmd r = some c' ∧ c'.phase = .finished 9
    ((∀ q ∈ s.ridge.sigs, q.r ≠ r) → ∀ tag s1 s2, s.newTag = (tag, s1) →
      let fr := s1.signalOf c tag
      fr.typ = 5 ∧ fr.tag = tag ∧ fr.dst = BitVec.ofNat 20 (cmdFld c 128 20) ∧ bitsOf fr.args.toNat 0 12 = cmdFld c 148 12 ∧ bitsOf fr.args.toNat 64 63 = cmdFld c 192 63 ∧
      (cmdFld c 128 20 ≠ s.node → s1.send true fr = (none, s2) → Runs (.remoteSignal r) s fun t => t.ridge.sigs = s2.ridge.sigs ++ [⟨r, tag, fr, s.ms, false⟩] ∧ t.mem = s2.mem ∧ t.hif = s2.hif) ∧
      (∀ n, cmdFld c 128 20 ≠ s.node → s1.send true fr = (some n, s2) → s2.hif = s.hif →
        Runs (.remoteSignal r) s fun t => finished t ∧ t.mem = s2.mem) ∧
      (cmdFld c 128 20 = s.node → s.slotRefuses (cmdFld c 148 12) s.node = true →
        Runs (.remoteSignal r) s fun t => finished t ∧ t.mem = s.mem ∧ t.ridge.sigs = s.ridge.sigs)) ∧
    (∀ q, s.ridge.sigs = [q] → q.r = r → q.poison = false →
      (s.fld regRdgCfg 0 16 < s.ms + 1 - q.since → Runs (.remoteSignalResend r) s fun t => finished t ∧ t.ridge.sigs = [] ∧ t.mem = s.mem ∧
        t.reg (regDetCounter detRdgTimeout) = (s.det detRdgTimeout).reg (regDetCounter detRdgTimeout)) ∧
      (s.ms + 1 - q.since ≤ s.fld regRdgCfg 0 16 → ∀ s1, s.send true q.f = (none, s1) → exec (.remoteSignalResend r) s = .next s1))) ∧
  (∀ (s : State) (p : Nat) (f : Frame), Arrives s p f →
    let t0 := s.takeIn p f
    let done := fun (u : State) => u.freeIn (some p) f
    (f.typ = 5 →
      let i := frameArg f 0 12
      let open_ := s.fld (regRdgRslotCtrl i) 0 1 = 1 ∧ s.fld (regRdgRslotCtrl i) 12 20 ≤ f.src.toNat ∧ f.src.toNat ≤ s.fld (regRdgRslotCtrl i) 32 20 ∧
        (s.region (s.fld (regRdgRslotEvt i) 3 37 * 8)).isSome
      (¬open_ → exec (.signalFrame p f) s = .next (done (t0.refuseFrame f 7))) ∧
      (open_ → ∀ v u, t0.evDev (.far f.src.toNat f.tag.toNat) (plainReq none) (s.fld (regRdgRslotEvt i) 3 37 * 8)
          (if frameArg f 12 1 = 1 then EvOp.poison else EvOp.set (frameArg f 64 63)) = .done v u →
        Runs (.signalFrame p f) s fun t => ∃ w, Answers u f 6 0 [] State.takeSigRsp w ∧ t = done w)) ∧
    (f.typ = 6 →
      ((∀ q ∈ s.ridge.sigs, q.tag ≠ f.tag) → exec (.sigRsp p f) s = .next (done (t0.det detRdgLate))) ∧
      (∀ q c, s.ridge.sigs = [q] → q.tag = f.tag → q.poison = false → s.cmd q.r = some c → Runs (.sigRsp p f) s fun t => t.ridge.sigs = [] ∧
        ∃ c', t.cmd q.r = some c' ∧ c'.phase = .finished 0)) ∧
    (∀ c ∈ [(7, Instr.barrierFrame p f), (8, Instr.contribFrame p f), (9, Instr.resultFrame p f)], f.typ.toNat = c.1 →
      s.coll (frameArg f 8 6) = none → exec c.2 s = .next (done (t0.refuseFrame f 8))) ∧
    (f.typ = 7 → ∀ k g, s.coll (frameArg f 8 6) = some k → cGroup k.desc = frameArg f 0 8 → (s.ctx k.ctx).any (fun x => x.lost) = false →
      s.geo k.desc = some g → cKind k.desc = 3 → g.e.tree = false → f.src.toNat ∈ g.others →
      Runs (.barrierFrame p f) s fun t => t.coll (frameArg f 8 6) = some (if Tbl.getD k.barrier f.src.toNat 0 < frameStep f
        then { k with barrier := Tbl.put k.barrier f.src.toNat (frameStep f) } else k) ∧ t.mem = s.mem) ∧
    (∀ k g, s.coll (frameArg f 8 6) = some k → cGroup k.desc = frameArg f 0 8 → (s.ctx k.ctx).any (fun x => x.lost) = false →
      s.geo k.desc = some g → cKind k.desc < 2 → g.e.tree = false →
      (f.typ = 8 → (g.wireParts f).isSome → f.src.toNat ∉ g.members → exec (.contribFrame p f) s = .next (done t0)) ∧
      (f.typ = 8 → g.wireParts f = none → exec (.contribFrame p f) s = .next (done ((t0.det detRdgMalformed).refuseFrame f 1))) ∧
      (f.typ = 9 → f.src.toNat ∉ g.others → (g.resultParts f (cCount g.d)).isSome → exec (.resultFrame p f) s = .next (done t0)) ∧
      (f.typ = 9 → f.src.toNat ∉ g.others → g.resultParts f (cCount g.d) = none →
        exec (.resultFrame p f) s = .next (done ((t0.det detRdgMalformed).refuseFrame f 1))) ∧
      (f.typ = 9 → ∀ x ps s2, f.src.toNat ∈ g.others → g.resultParts f (g.shard (g.rankOf f.src.toNat)) = some ps → k.run = some x → x.step = frameStep f →
        (∀ y, s.collIn f ≠ .stall y) → t0.resultWrite (frameArg f 8 6) g k x f ps = .ok () s2 → exec (.resultFrame p f) s = .next (done s2))) ∧
    (f.typ = 8 → ∀ k g xs h s1 s2, s.coll (frameArg f 8 6) = some k → cGroup k.desc = frameArg f 0 8 →
      (s.ctx k.ctx).any (fun x => x.lost) = false → s.geo k.desc = some g → cKind k.desc < 2 → f.src.toNat ∈ g.members → g.wireParts f = some xs →
      let o := if t0.fld (regRdgLdgStep (frameArg f 8 6)) 0 32 = 0 then frameStep f else t0.fld (regRdgLdgStep (frameArg f 8 6)) 0 32
      (o + 2 ≤ frameStep f → exec (.contribFrame p f) s = .next (done (t0.refuseFrame f 8))) ∧
      (frameStep f < o + 2 → (∀ y, s.collIn f ≠ .stall y) → t0.holdLoad (frameArg f 8 6) g k = .ok h s1 →
        s1.holdStore (frameArg f 8 6) g (Hold.parts s1 g f.src.toNat (frameStep f) f.poisoned xs (frameArg f 96 32) { h with op := o }) = .ok () s2 →
        exec (.contribFrame p f) s = .next (done s2))))

/-! ## Collectives (08) -/

/-- R236, R238: the wire integer of a finite element is its value in the wire's units cut toward zero and held inside the range, with the bound and the cut
reported; NaN and infinity are MARK. Sums of elements that stay within their bounds are exact, whatever the order of arrival, for every
number of members and a step carried in; and a sum that meets MARK is MARK. -/
def Obligations.CollectiveSums : Prop :=
  (∀ (d : BitVec 512) (code : Nat) (f : Fmt), cIfmt d ≠ 15 → memFmt (cIfmt d) = some f →
    (∀ n m e, f.decode code = .fin n m e →
      let k := e + (cWw d : Int) - 32 - cBeta d
      let q : Nat := if 0 ≤ k then m * 2 ^ k.toNat else m / 2 ^ (-k).toNat
      let cut : Nat := if 0 ≤ k then 0 else m % 2 ^ (-k).toNat
      let lim : Nat := 2 ^ (cWw d - 1) - 1
      let t : Int := if n then -((min q lim : Nat) : Int) else ((min q lim : Nat) : Int)
      toWire d code = (t, breaks (cBeta d) (.fin n m e), decide (cut ≠ 0) || decide (lim < q))) ∧
    ((∀ n m e, f.decode code ≠ .fin n m e) → toWire d code = (-((2 ^ (cWw d - 1) : Nat) : Int), false, false))) ∧
  (∀ (ww : Nat) (ts us : List Int), (ww = 64 ∨ ww = 128 ∨ ww = 192) → ts.length ≤ 2 ^ 21 → (∀ t ∈ ts, t.natAbs ≤ 2 ^ (ww - 32)) → us.Perm ts →
    us.foldl (fun a t => (satAdd ww a t).1) 0 = ts.sum ∧ ∀ k, (satAdd ww (us.take k).sum (us.getD k 0)).2 = false) ∧
  (∀ (ww : Nat) (ts : List Int) (a : Int), wireMark ww ∈ ts → ts.foldl (fun a t => (satAdd ww a t).1) a = wireMark ww)

/-- R233, R241, Table 8.4: shards cover the elements once and in order. A whole new part for the open step or the next one is added into
the slot of its step; one already there, or dealt with before, changes nothing; one for the step before is added into the open slot and counted as carried under
CARRY, and under DROP, or from further back, it is discarded and counted.

What counts as accepted, and how many members a child stands for, are choices of the model (log 25). -/
def Obligations.Contributions : Prop :=
  (∀ g : Geo, 0 < g.e.n → g.start 0 = 0 ∧ g.start g.e.n = cCount g.d ∧ (∀ r, g.start r + g.shard r = g.start (r + 1)) ∧
    ∀ x < cCount g.d, ∃ r < g.e.n, g.start r ≤ x ∧ x < g.start r + g.shard r) ∧
  (∀ (s : State) (g : Geo) (h : Hold) (m u part : Nat) (xs : List Int), g.held = 256 → part = 0 → xs.length = 256 → h.led.length = 6 → h.sums0.length = 256 →
    h.sums1.length = 256 → h.c.since.isSome → (u, m, 0) ∉ h.c.dealt →
    let o := h.op
    let t := Hold.part s g h m u part xs
    let added := fun (j : Nat) (base : List Int) => t.sums j = (base.zip xs).map fun p => (satAdd (cWw g.d) p.1 p.2).1
    let base := if (h.slot (u % 2)).step = u ∧ (h.slot (u % 2)).state = 1 then h.sums (u % 2) else List.replicate 256 0
    let got := if (h.slot (u % 2)).step = u ∧ (h.slot (u % 2)).state = 1 then Tbl.getD (h.slot (u % 2)).got 0 [] else []
    (u = o + 1 → m ∉ got → added (u % 2) base ∧ t.op = o ∧ (t.slot (u % 2)).step = u ∧ (t.slot (u % 2)).state = 1 ∧
      Tbl.getD (t.slot (u % 2)).got 0 [] = m :: got ∧ t.sums (o % 2) = h.sums (o % 2) ∧
      ((u, m) ∉ h.c.late → t.led = h.led.set 5 (h.led.getD 5 0 + 1))) ∧
    ((u = o ∨ u = o + 1) → m ∈ got → t = h) ∧ (∀ h', (u, m, 0) ∈ h'.c.dealt → Hold.part s g h' m u part xs = h') ∧
    (u = o → m ∉ got → (∃ k ∈ g.members, k ≠ m ∧ k ∉ got) → added (o % 2) base ∧ t.op = o ∧ t.led = h.led ∧
      t.sums ((o + 1) % 2) = h.sums ((o + 1) % 2)) ∧
    (u + 1 = o → cCarry g.d = true → (u, m) ∉ h.c.late → (h.slot (o % 2)).step = o → (h.slot (o % 2)).state = 1 →
      (h.slot (u % 2)).step ≠ u → added (o % 2) (h.sums (o % 2)) ∧ t.led = h.led.set 2 (h.led.getD 2 0 + 1) ∧ m ∈ (t.slot (o % 2)).carried ∧
      (t.slot (o % 2)).got = (h.slot (o % 2)).got) ∧
    (u < o → (u + 1 = o → cCarry g.d = false) → (u, m) ∉ h.c.late → (h.slot (u % 2)).step ≠ u →
      t.sums0 = h.sums0 ∧ t.sums1 = h.sums1 ∧ t.op = o ∧
      t.led = (if u + 1 = o then h.led.set 3 (h.led.getD 3 0 + 1) else (h.led.set 3 (h.led.getD 3 0 + 1)).set 4 (h.led.getD 4 0 + 1))))

/-- R235, R236, R240, R241, R244, R353: COLL_OPEN of a good descriptor opens its collective with a clear ledger, of a bad one finishes with DESCRIPTOR_INVALID;
COLL_CLOSE closes one that has no COLL_RUN running; a COLL_RUN of a step not above the last is refused; one of a BARRIER sends its messages, which
a resend repeats, and completes once every other member has reported, and not before; one of an ALL_GATHER writes its own shard; one that moves data completes
once its messages are accepted and its parts settled, with its census word; a deadline not reached
changes nothing, and one passed closes the open step, short where a member is missing.

Acceptance, remote counts and a second COLL_RUN are choices of the model (log 25). -/
def Obligations.CollectivesRun : Prop :=
  ∀ (s : State) (r : CmdRef) (c : Cmd), s.cmd r = some c → c.phase = .started → c.objs = [] →
    let f := fun lo n => bitsOf c.raw.toNat lo n
    let finished := fun (st : Nat) (t : State) => ∃ c', t.cmd r = some c' ∧ c' = { c with phase := .finished st, progress := 0 }
    let num := f 128 6
    (f 0 8 = 0x20 → ∀ bs s1, s.vKeep (.cmd r) r.ctx (plainReq (some r.ctx)) (f 128 57) 64 = .ok bs s1 → s1.cmd r = some c →
      let d : BitVec 512 := BitVec.ofNat 512 (leVal bs)
      (s1.openOk d = false → Runs (.collOpen r) s fun t => finished 9 t ∧ t.mem = s1.mem ∧ t.eng = s1.eng) ∧
      let opened := fun (w : State) (t : State) => finished 0 t ∧ t.mem = w.mem ∧
        t.coll (cNum d) = some ⟨d, r.ctx, [], 0, none, CollSlot.empty, CollSlot.empty, none, [], [], [], [], [], [], []⟩ ∧
        t.reg (regRdgLdgStep (cNum d)) = 0 ∧ ∀ i < 7, t.reg (regRdgLdgCount (cNum d) i) = 0
      (s1.openOk d = true → cKind d = 2 ∨ cKind d = 3 → Runs (.collOpen r) s (opened s1)) ∧
      (s1.openOk d = true → cKind d < 2 → ∀ g s2, s1.geo d = some g →
        s1.vWrites (.cmd r) r.ctx [(g.slotVa 0, 0, leBytes 64 0), (g.slotVa 1, 0, leBytes 64 0)] = .ok () s2 → s2.cmd r = some c →
        Runs (.collOpen r) s (opened s2))) ∧
    (f 0 8 = 0x22 →
      (s.coll num = none ∨ (∃ k, s.coll num = some k ∧ k.ctx ≠ r.ctx) → Runs (.collClose r) s fun t => finished 9 t ∧ t.eng = s.eng) ∧
      (∀ k, s.coll num = some k → k.ctx = r.ctx →
        (k.run.isSome → exec (.collClose r) s = .next s) ∧
        (k.run = none → k.objs = [] → Runs (.collClose r) s fun t => finished 0 t ∧ t.coll num = none ∧ t.mem = s.mem))) ∧
    (f 0 8 = 0x21 → ∀ k g, s.coll num = some k → s.geo k.desc = some g → k.ctx = r.ctx →
      let step := f 192 32
      (k.run = none → step = 0 ∨ step ≤ k.last → Runs (.collRun r) s fun t => finished 9 t ∧ t.eng = s.eng ∧ t.mem = s.mem) ∧
      (∀ run, k.run = some run → run.r ≠ r → k.last < step → exec (.collRun r) s = .next s) ∧
      (k.run = none → k.last < step →
        let begun := fun (t : State) => ∃ k' run, t.coll num = some k' ∧ k'.run = some run ∧ run.r = r ∧ run.step = step ∧ k'.last = step ∧
          k'.slot0 = k.slot0 ∧ k'.slot1 = k.slot1
        (cKind k.desc = 3 → Runs (.collRun r) s fun t => begun t ∧ t.mem = s.mem ∧ t.hif = s.hif) ∧
        (cKind k.desc = 2 → ∀ bs s1 s2, s.vKeep (.coll num) r.ctx (engReq r.ctx) (cSrc g.d) (g.shard g.e.rank * memBits (cIfmt g.d) / 8) = .ok bs s1 →
          s1.vWrites (.coll num) r.ctx [(g.dstAt g.node, 0, bs)] = .ok () s2 → Runs (.collRun r) s fun t => begun t ∧ t.mem = s2.mem) ∧
        (cKind k.desc < 2 → ∀ s1, s.reduceStart num g k r step = .ok () s1 → Runs (.collRun r) s fun t => t = s1 ∧
          ∃ k' run, t.coll num = some k' ∧ k'.run = some run ∧ run.r = r ∧ run.step = step ∧ k'.last = step)) ∧
      (∀ run, k.run = some run → run.r = r → cKind k.desc = 3 → cKind g.d = 3 → s.boardBusy (.coll num) = false →
        (g.e.tree = false → (∃ m ∈ g.others, Tbl.getD k.barrier m 0 < run.step) → exec (.collRunComplete r) s = .next s) ∧
        (g.e.tree = false → (∀ m ∈ g.others, run.step ≤ Tbl.getD k.barrier m 0) →
          Runs (.collRunComplete r) s fun t => finished 0 t ∧ t.coll num = some { k with run := none } ∧ t.mem = s.mem)) ∧
      (∀ run, k.run = some run → run.r = r → cKind g.d < 3 → s.boardBusy (.coll num) = false →
        (s.sentAll k run.step = false ∨ g.settled k run (s.fld (regRdgLdgStep num) 0 32) = false → exec (.collRunComplete r) s = .next s) ∧
        (s.sentAll k run.step = true → g.settled k run (s.fld (regRdgLdgStep num) 0 32) = true → run.counts = [0, 0, 0, 0, 0] → run.maxexp = none →
          let incl := if g.missing run then 2 ^ 32 - 1 else if cKind g.d = 2 then g.e.n else run.incl
          ∀ t1, (s.putColl num k).vWrite (.cmd r) r.ctx (engReq r.ctx) (cCensus g.d) (leBytes 8 (incl + run.carried * 2 ^ 32)) = .ok () t1 →
          t1.cmd r = some c → Runs (.collRunComplete r) s fun t => finished 0 t ∧ t.coll num = some { k with run := none } ∧ t.mem = t1.mem ∧
            t.fld (regRdgLdgCount num 6) 0 64 = min (t1.fld (regRdgLdgCount num 6) 0 64 + if g.missing run then 1 else 0) (2 ^ 64 - 1)))) ∧
    (∀ num k g, s.coll num = some k → s.geo k.desc = some g →
      (k.run = none → exec (.barrierResend num) s = .next s) ∧
      (∀ run, k.run = some run → cKind g.d = 3 → g.e.tree = false →
        exec (.barrierResend num) s = .next (s.collSendAll num (g.others.map fun m => s.collFrame g 7 m run.step 0 []))) ∧
      ((∀ x ∈ k.resend, x.dst.toNat ≠ s.node) → exec (.contribResend num) s =
        .next ((s.putColl num { k with resend := [] }).collSendAll num k.resend)) ∧
      (k.since = none → exec (.collDeadline num g.e.rank) s = .next s) ∧
      (∀ t0, k.since = some t0 → (s.ctx k.ctx).any (fun x => x.lost) = false → g.e.tree = false →
        ((s.ms + 1 - t0) * 1000 ≤ (if cDeadline g.d = 0 then 5000 else cDeadline g.d) → exec (.collDeadline num g.e.rank) s = .next s) ∧
        ((if cDeadline g.d = 0 then 5000 else cDeadline g.d) < (s.ms + 1 - t0) * 1000 → cDeadline g.d ≠ 2 ^ 32 - 1 → ∀ h s1 s2,
          s.holdLoad num g k = .ok h s1 → s1.holdStore num g (Hold.close s1 g 2 h) = .ok () s2 → exec (.collDeadline num g.e.rank) s = .next s2)))

/-! ## Loading an image (10) -/

/-- R294 to R299: a load command that the host writes while the module is up and one still runs is refused with CMDRES 1. Otherwise CLEAR, LOAD and RELOAD begin, APPEND
of a good length begins and a bad one reports INVALID or OVERFLOW, LOAD and COMMIT with nothing staged are refused, and COMMIT and LOAD_COMMIT refuse
an image that a check fails or whose SEQ is not above a valid slot's, and else begin to write the inactive slot, which is empty meanwhile; BUSY reads 1 while a
command runs and STATE reads LOADING while a load does, and what is in effect is left alone. A host write that does not reach the module begins nothing.

R294 to R297, R299: in the ms that ends a running load command, CLEAR empties the staging area and APPEND adds the data window's bytes; a LOAD whose
image fails a check leaves what is in effect, with CODE, and another comes to its apply point, after which no context, block or image stands and BUSY and LOADING
still read; a RELOAD with neither slot valid fails with slot B's code. The hardware stage ends with the image in effect, or with MEMORY and none, or goes on to the next
source. A COMMIT ends with the image in its slot, or the slot stays empty and CODE reads FLASH. Which ms ends a command is open.

CMDRES and CODE with an empty or bad staging area, and what a load keeps, are readings of log 27; when a load command or its stage ends is
open (log 11); digests and signatures are open functions (log 14). -/
def Obligations.ImagesLoad : Prop :=
  (∀ s : State, s.armed = [] → s.pwr.phase = .up →
    let res := fun (n : Nat) (t : State) => t.fld regIdentLoadStatus 20 4 = n ∧ t.fld regIdentLoadStatus 2 1 = 0 ∧ t.load = s.load ∧ t.mem = s.mem ∧ t.tiles = s.tiles ∧ t.hif = s.hif
    let runs := fun (loading : Bool) (r : LoadRun) (t : State) => t.fld regIdentLoadStatus 2 1 = 1 ∧ t.load = { s.load with running := some r } ∧ t.mem = s.mem ∧
      t.tiles = s.tiles ∧ t.hif = s.hif ∧ t.fld regIdentLoadStatus 0 2 = if loading then 1 else s.fld regIdentLoadStatus 0 2
    (s.hostUp = false → ∀ cmd ∈ [Instr.loadClear, .loadAppend 8, .loadStaged, .loadCommitSlot, .loadCommitLoad, .loadReload],
      Runs cmd s fun t => t = s.hostRefused false) ∧
    (s.hostUp = true → s.fld regIdentLoadStatus 2 1 = 1 →
      ∀ cmd ∈ [Instr.loadClear, .loadAppend 8, .loadStaged, .loadCommitSlot, .loadCommitLoad, .loadReload],
        Runs cmd s fun t => t = s.setFld regIdentLoadStatus 20 4 1) ∧
    (s.hostUp = true → s.fld regIdentLoadStatus 2 1 = 0 →
      Runs .loadClear s (runs false .clear) ∧ Runs .loadReload s (runs true .reload) ∧
      (∀ n, 8 ≤ n → n ≤ 2048 → n % 8 = 0 → s.load.staged.length + n ≤ 0x200000 → Runs (.loadAppend n) s (runs false (.append n))) ∧
      (∀ n, n < 4096 → (n < 8 ∨ 2048 < n ∨ n % 8 ≠ 0) → Runs (.loadAppend n) s (res 5)) ∧
      (∀ n, 8 ≤ n → n ≤ 2048 → n % 8 = 0 → 0x200000 < s.load.staged.length + n → Runs (.loadAppend n) s (res 2)) ∧
      (s.load.staged = [] → ∀ cmd ∈ [Instr.loadStaged, .loadCommitSlot, .loadCommitLoad], Runs cmd s (res 3)) ∧
      (s.load.staged ≠ [] → Runs .loadStaged s (runs true .load) ∧ ∀ cmd ∈ [(Instr.loadCommitSlot, false), (.loadCommitLoad, true)],
        match s.checkCount s.load.staged with
        | (.bad _, _) => Runs cmd.1 s (res 4)
        | (.ok i, u) =>
          let a := (u.checkImage u.ownerRequired s.load.slotA).seq
          let b := (u.checkImage u.ownerRequired s.load.slotB).seq
          if a.any (fun x => decide (i.seq ≤ x)) || b.any (fun x => decide (i.seq ≤ x)) then Runs cmd.1 s (res 4)
          else Runs cmd.1 s fun t => t.fld regIdentLoadStatus 2 1 = 1 ∧ t.mem = s.mem ∧ t.hif = s.hif ∧ t.tiles = s.tiles ∧ t.load = { s.load with
            slotA := if inactiveB a b then s.load.slotA else [], slotB := if inactiveB a b then [] else s.load.slotB,
            running := some (.commit (inactiveB a b) cmd.2) }))) ∧
  (∀ s : State, s.armed = [] → s.pwr.phase = .up →
    (∀ tj, Runs (.identHeartbeat tj) s fun t => ∃ w : State, w.load = s.load ∧ w.mem = s.mem ∧ w.fld regIdentHeartbeat 0 64 = min (s.fld regIdentHeartbeat 0 64 + 1) (2 ^ 64 - 1) ∧
      w.fld regIdentStatus 3 8 = min tj 255 ∧
      match s.load.running with
      | none => t = w
      | some r => t = w ∨ t = w.loadEnd r) ∧
    ∀ r, s.load.running = some r →
      let u := { s with load := { s.load with running := none } }
      let t := s.loadEnd r
      let ended := t.fld regIdentLoadStatus 2 1 = 0 ∧ t.fld regIdentLoadStatus 20 4 = 0 ∧ t.load.running = none
      let failed := fun (v : State) (code src : Nat) => t.load = u.load ∧ t.mem = v.mem ∧ t.tiles = v.tiles ∧ t.fld regIdentLoadStatus 8 4 = code % 16 ∧
        t.fld regIdentLoadStatus 18 2 = src ∧ t.fld regIdentLoadStatus 0 2 = if s.loaded then 2 else 3
      let applied := fun (req : Bool) (srcs : List Nat) => t.load.running = some (.hardware req srcs) ∧ t.fld regIdentLoadStatus 2 1 = 1 ∧
        t.fld regIdentLoadStatus 0 2 = 1 ∧ t.hif.ctxs = [] ∧ t.tiles = [] ∧ t.mem.cis = [] ∧ t.load.img = none ∧ t.load.staged = s.load.staged ∧
        t.load.slotA = s.load.slotA ∧ t.load.slotB = s.load.slotB
      match r with
      | .clear => ended ∧ t.load = { u.load with staged := [] } ∧ t.fld regIdentLoadStaged 0 32 = 0 ∧ t.mem = s.mem
      | .append n => ended ∧ t.mem = s.mem ∧
          t.load = { u.load with staged := s.load.staged ++ (List.range (n / 8)).flatMap fun i => leBytes 8 (s.reg (regIdentLoadData i)).toNat } ∧
          t.fld regIdentLoadStaged 0 32 = (s.load.staged.length + n / 8 * 8) % 2 ^ 32
      | .load =>
        (match u.checkCount s.load.staged with
        | (.bad code, v) => ended ∧ failed v code 3
        | (.ok _, _) => applied s.ownerRequired [3])
      | .reload =>
        (match u.checkImage u.ownerRequired s.load.slotA, u.checkImage u.ownerRequired s.load.slotB with
        | .bad _, .bad code => ended ∧ failed u code 2
        | a, b => applied s.ownerRequired ((slotOrder a b).map (·.2)))
      | .commit inB thenLoad => t.mem = s.mem ∧ t.hif = s.hif ∧
          ((ended ∧ t.load = u.load ∧ t.fld regIdentLoadStatus 8 4 = 15 ∧ t.fld regIdentLoadStatus 18 2 = if inB then 2 else 1) ∨
           ((thenLoad = false → ended) ∧ (thenLoad = true → t.fld regIdentLoadStatus 2 1 = 1 ∧ t.fld regIdentLoadStatus 0 2 = 1) ∧
            let next := if thenLoad then some LoadRun.reload else none
            t.load = if inB then { u.load with slotB := s.load.staged, running := next } else { u.load with slotA := s.load.staged, running := next }))
      | .hardware _ [] => ended ∧ t.mem = s.mem
      | .hardware req (src :: rest) =>
        (match u.checkImage req (if src = 1 then s.load.slotA else if src = 2 then s.load.slotB else s.load.staged) with
        | .bad code => ended ∧ failed u code (src % 4)
        | .ok i =>
          (ended ∧ t.load.img = some (imgOf i) ∧ t.fld regIdentLoadStatus 0 2 = 2 ∧ t.fld regIdentLoadStatus 8 4 = 0 ∧ t.load.locked = !i.lock) ∨
          (t.load.img = s.load.img ∧ t.fld regIdentLoadStatus 8 4 = 13 ∧ (rest = [] → ended) ∧
            (rest ≠ [] → t.load.running = some (.hardware req rest) ∧ t.fld regIdentLoadStatus 2 1 = 1 ∧ t.fld regIdentLoadStatus 0 2 = 1))))

/-! ## Ridge (12) -/

/-- R339, R346, R347, R396: a port of a die at RUN whose eight lanes have locked enters HELLO and sends its record, its certificate chain and a signed public
key, and one that times out trains again; a partner's record of
matching role, another NODE and a proof that holds brings the port UP with the partner named, link keys agreed and its receive space advertised, and else the port shows
ROLE_MISMATCH, DUP_NODE or KEY_FAIL. A retrain, whatever its cause, sends the port back with its replay buffer kept, its keys and lanes gone, and counted; a disabled port is
DISABLED, and trains again, or has no role, when enabled.

R341, R342, R346: on an UP port an acknowledgement takes out of the replay buffer every frame up to its sequence and no other; a link NAK does the same for the
frames before its sequence and sends the rest again, in order, after a credit overrun only as far as the credits given reach; and credits add to
those held, and let frames of a replay go. Each counts as a control unit received under the link's keys; at a die that is not at RUN it only wakes it.

Sequences after a retrain, and when credits return, are readings of log 28; keys are open functions of what the HELLOs carry (log 14). -/
def Obligations.RidgePorts : Prop :=
  (∀ (s : State) (p : Nat), p < 32 → s.armed = [] → s.ridge.held = [] →
    let st := fun (t : State) => t.portState p
    let others := fun (t : State) => ∀ k < 32, k ≠ p → t.portState k = s.portState k ∧ t.port k = s.port k
    (s.portState p = 1 ∨ s.portState p = 4 →
      (s.portAwake p = true →
        (Runs (.portTrainingDone p 0xFF) s fun t => st t = 2 ∧ t.fld (regRdgPortStatus p) 8 8 = 0xFF ∧ t.fld regClkRef (1 + p / 16) 1 = 1 ∧ others t ∧
          let pub := Config.p384Pub (t.port p).eph
          t.out = .hello p ⟨BitVec.ofNat 20 (s.fld regRdgNode 0 20), BitVec.ofNat 32 (s.fld regRdgBoard 0 32), BitVec.ofNat 3 (s.fld regRdgBoard 32 3),
            s.reg regIdentSerial, BitVec.ofNat 5 p, BitVec.ofNat 4 (s.portRole p)⟩ s.certChain pub (Config.ecdsaSign s.trust.ak (Config.sha384 pub)) :: s.out) ∧
        (∀ lanes : BitVec 8, lanes ≠ 0xFF → Runs (.portTrainingDone p lanes) s fun t => st t = s.portState p ∧
          t.fld (regRdgPortStatus p) 8 8 = lanes.toNat ∧ t.out = s.out)) ∧
      (s.portAwake p = false → ∀ lanes, exec (.portTrainingDone p lanes) s = .next s) ∧
      (Runs (.portTrainingTimeout p) s fun t => st t = 1 ∧ t.fld (regRdgPortStatus p) 8 8 = 0 ∧ others t)) ∧
    (s.portState p = 2 → s.portAwake p = false → ∀ h k, exec (.linkHello p h k) s = .next s) ∧
    (s.portState p = 2 → s.portAwake p = true → ∀ (h : HelloRec) (k : PeerKey),
      let match_ := (s.portRole p, h.role.toNat) ∈ [(1, 1), (2, 3), (3, 2), (4, 4)]
      let proven := k.ok = true ∧ (∃ i < 4, s.fjLive i = true ∧ s.hash48 (regSecFjHash i) = k.root) ∧
        (s.fld regSecCfg 1 1 = 0 ∨ ∃ i < 4, s.fld regSecStatus i 1 = 1 ∧ s.hash48 (regSecOwnerHash i) ∈ k.owners)
      let secret := Config.ecdh (s.port p).eph k.pub
      let keys := some (LinkKeys.mk (Config.linkKey secret (s.reg regIdentSerial) (BitVec.ofNat 5 p)) (Config.linkKey secret h.serial h.port))
      (match_ → h.node.toNat ≠ s.node → proven → Runs (.linkHello p h k) s fun t => st t = 3 ∧
        t.fld (regRdgPortPeer p) 0 20 = h.node.toNat ∧ t.fld (regRdgPortPeer p) 32 32 = h.boardId.toNat ∧ (t.port p).peer = some (h.serial, h.port) ∧
        (t.port p).keys = keys ∧ t.out = .link p 3 0 [512, 512, 1024, 16] :: s.out ∧
        ((s.port p).peer = some (h.serial, h.port) → (t.port p).tx = (s.port p).tx ∧ (t.port p).rx = (s.port p).rx ∧
          (t.port p).replay = (s.port p).replay ∧ (t.port p).resend = (s.port p).replay ∧ (t.port p).credits = [0, 0, 0, 0]) ∧
        ((s.port p).peer ≠ some (h.serial, h.port) → (s.port p).replay = [] →
          t.port p = { Port.empty with peer := some (h.serial, h.port), keys := keys, txUnits := 1 })) ∧
      (¬match_ → Runs (.linkHello p h k) s fun t => st t = 5) ∧
      (match_ → h.node.toNat = s.node → Runs (.linkHello p h k) s fun t => st t = 6) ∧
      (match_ → h.node.toNat ≠ s.node → ¬proven → Runs (.linkHello p h k) s fun t => st t = 7)) ∧
    (s.portRole p ≠ 0 →
      let back := fun (v : Nat) (t : State) => st t = v ∧ t.fld (regRdgPortStatus p) 8 8 = 0 ∧ (t.port p).replay = (s.port p).replay ∧
        (t.port p).keys = none ∧ t.fld (regRdgPortErr p) 48 16 = min (s.fld (regRdgPortErr p) 48 16 + 1) (2 ^ 16 - 1) ∧ t.mem = s.mem
      (1 ≤ s.portState p → s.portState p ≤ 7 → Runs (.signalLoss p) s (back 4)) ∧
      (s.portState p = 3 → 2 ^ 47 ≤ (s.port p).txUnits ∨ 2 ^ 47 ≤ (s.port p).rxUnits → Runs (.linkRekey p) s (back 1)) ∧
      ((s.port p).txUnits < 2 ^ 47 → (s.port p).rxUnits < 2 ^ 47 → exec (.linkRekey p) s = .next s) ∧
      (s.portState p = 2 ∨ s.portState p = 3 → Runs (.fecLockLost p) s (back 1)) ∧
      (s.hostUp = true → s.load.img.isSome → s.reg (regRdgPortCtrl p) = 0 → s.portState p ≠ 8 → Runs (.portRetrain p) s (back 1))) ∧
    (s.hostUp = true → s.load.img.isSome →
      (Runs (.portDisable p true) s fun t => st t = 8 ∧ others t ∧ t.mem = s.mem) ∧
      (s.portState p = 8 → Runs (.portDisable p false) s fun t => st t = (if s.portRole p = 0 then 0 else 1) ∧ others t)) ∧
    (s.hostUp = false → ∀ cmd ∈ [Instr.portRetrain p, .portDisable p true, .portDisable p false], exec cmd s = .next (s.hostRefused false))) ∧
  (∀ (s : State) (p : Nat) (b : BitVec 16) (k : Nat), s.armed = [] → s.ridge.held = [] → s.portState p = 3 →
    let q := s.port p
    (s.portAwake p = false → ∀ (seq : BitVec 16) (c : BitVec 96) (v : Bool), ∀ cmd ∈ [Instr.linkAck p seq, .linkNak p seq c v, .linkCredit p c],
      exec cmd s = .next (s.stir .noone (s.reachDoms [domOfPort p]))) ∧
    (s.portAwake p = true →
    q.replay.length < 2 ^ 15 → (∀ i e, q.replay[i]? = some e → e.1 = b + BitVec.ofNat 16 i) → k ≤ q.replay.length →
    let rest := q.replay.drop k
    let seq := b + BitVec.ofNat 16 k
    let errs := min (s.fld (regRdgPortErr p) 16 16 + 1) (2 ^ 16 - 1)
    (Runs (.linkAck p (seq - 1)) s fun t => t.out = s.out ∧ t.mem = s.mem ∧
      t.port p = { q with replay := rest, resend := rest.drop (rest.length - min rest.length q.resend.length), rxUnits := q.rxUnits + 1 }) ∧
    (q.replays = [] → q.resend = [] → Runs (.linkNak p seq 0 false) s fun t => (t.port p).replay = rest ∧ (t.port p).credits = q.credits ∧
      t.out = (rest.map fun e => Output.frame p e.1 e.2).reverse ++ s.out ∧ t.fld (regRdgPortErr p) 16 16 = errs ∧ t.portState p = 3) ∧
    (q.replays = [] → Runs (.linkNak p seq 0 true) s fun t => (t.port p).replay = rest ∧ (t.port p).resend = rest ∧
      (t.port p).credits = [0, 0, 0, 0] ∧ t.out = s.out ∧ t.fld (regRdgPortErr p) 16 16 = errs ∧ t.portState p = 3) ∧
    (∀ c : BitVec 96, q.credits.length = 4 →
      (q.resend = [] → Runs (.linkCredit p c) s fun t => (∀ v < 4, (t.port p).credits.getD v 0 = q.credits.getD v 0 + bitsOf c.toNat (24 * v) 24) ∧
        (t.port p).replay = q.replay ∧ (t.port p).rxUnits = q.rxUnits + 1 ∧ t.out = s.out) ∧
      (∀ e es, q.resend = e :: es → frameUnits e.2 ≤ q.credits.getD e.2.vc.toNat 0 + bitsOf c.toNat (24 * e.2.vc.toNat) 24 →
        Runs (.linkCredit p c) s fun t => Output.frame p e.1 e.2 ∈ t.out ∧ (t.port p).replay = q.replay))))

/-- R340, R341, R343, R345, R346: a frame refused is counted, and answered with a NAK that carries its tag, the code and its type, except a NAK and a frame whose
source cannot be read; of a frame that names this module as its source the module acts itself. A malformed frame on an UP port is counted and refused with code
1; a frame that fails its CRC or its sequence, or for which its receive buffer has no room, is dropped, counted, and asked for again; a frame for another module leaves with one hop less, or waits in
its receive buffer, and without a route, or without hops left, it is refused with NO_ROUTE or HOP_LIMIT; one held longer than LINK_HOLD is dropped
and refused with LINK_DOWN, of which its source hears, or which this module acts on itself where the frame is its own. A NAK ends the REMOTE_SIGNAL it answers with
DESCRIPTOR_INVALID, and one that answers nothing is only counted. A frame that is done with gives its units of the receive buffer back.

What makes a frame malformed beyond R340, and how the module acts on a refusal of its own frame, are readings of log 28. -/
def Obligations.FramesAreRoutedOrRefused : Prop :=
  (∀ (s : State) (f : Frame) (c : Nat), c < 16 →
    (f.typ = 10 ∨ f.wire = .noSrc → s.refuseFrame f c = s.det detRdgNakSent) ∧
    (f.typ ≠ 10 → f.wire ≠ .noSrc →
      (f.src.toNat = s.node → s.refuseFrame f c = ((s.det detRdgNakSent).det detRdgNakRecv).nakAct f.tag f.typ.toNat c) ∧
      Answers (s.det detRdgNakSent) f 10 (c + f.typ.toNat * 256) [] State.takeNak (s.refuseFrame f c))) ∧
  (∀ (s : State) (p : Nat) (f : Frame), s.armed = [] → s.portState p = 3 → s.portAwake p = false → f.dst.toNat ≠ s.node →
    exec (.frameForward p f) s = .next (s.stir (.far f.src.toNat f.tag.toNat) (s.reachDoms [domOfPort p]))) ∧
  (∀ (s : State) (p : Nat) (f : Frame), s.armed = [] → s.portState p = 3 → s.portAwake p = true →
    (f.dst.toNat ≠ s.node →
      (f.wire = .crc → exec (.frameForward p f) s = .next (((s.det detRdgCrc).bumpFld (regRdgPortErr p) 0 16 1).linkOut p 2 (s.port p).rx [])) ∧
      (∀ n, f.wire = .seq n → n ≠ (s.port p).rx → exec (.frameForward p f) s = .next
        (if 2 ^ 15 ≤ (n - (s.port p).rx).toNat then (s.det detRdgSeq).linkOut p 1 ((s.port p).rx - 1) [] else (s.det detRdgSeq).linkOut p 2 (s.port p).rx [])) ∧
      (f.wire = .good → (s.vcFree p).getD f.vc.toNat 0 < frameUnits f → (s.port p).overruns = [] → exec (.frameForward p f) s = .next
        ((((s.det detRdgCredit).setPort p { s.port p with overruns := [s.ms] }).bumpFld (regRdgPortErr p) 32 16 1).linkOut p 2 (s.port p).rx (s.vcFree p)))) ∧
    (frameBad f = false → exec (.malformedFrame p f) s = .next s)) ∧
  (∀ (s : State) (p : Nat) (f : Frame), s.armed = [] → Takes s p f →
    (frameBad f = true → f.wire = .good ∨ f.wire = .noSrc →
      exec (.malformedFrame p f) s = .next ((((s.det detRdgMalformed).takeIn p f).refuseFrame f 1).freeIn (some p) f)) ∧
    (f.wire = .good → frameBad f = false → f.dst.toNat ≠ s.node → (boardMem f.typ = true → s.portRole p = 1) →
      let t0 := s.takeIn p f
      let g : Frame := { f with hops := f.hops - 1 }
      (s.route f.dst.toNat = none → exec (.frameForward p f) s = .next ((t0.refuseFrame f 2).freeIn (some p) f)) ∧
      ((s.route f.dst.toNat).isSome → f.hops = 0 → exec (.frameForward p f) s = .next ((t0.refuseFrame f 3).freeIn (some p) f)) ∧
      ((s.route f.dst.toNat).isSome → f.hops ≠ 0 → Runs (.frameForward p f) s fun t =>
        (∃ port, t = (t0.xmit port g).freeIn (some p) g) ∨ t.ridge.held = s.ridge.held ++ [⟨g, false, some p⟩])) ∧
    (f.wire = .good → frameBad f = false → f.dst.toNat ≠ s.node → boardMem f.typ = true → s.portRole p ≠ 1 →
      exec (.frameForward p f) s = .next (((s.takeIn p f).refuseFrame f 5).freeIn (some p) f))) ∧
  (∀ (s : State) (h : HeldFrame), s.ridge.held = [h] →
    let u : State := { s with ridge := { s.ridge with held := [] } }
    let gone := fun (t : State) => (t.freeIn h.port h.f).drainHeld
    (h.own = true → exec (.linkHoldExpiry 0) s = .next (gone ((u.det detRdgNakSent).nakAct h.f.tag h.f.typ.toNat 9))) ∧
    (h.own = false → h.f.typ = 10 ∨ h.f.wire = .noSrc → Runs (.linkHoldExpiry 0) s fun t => t.ridge.held = [] ∧ t.regs = (s.det detRdgNakSent).regs ∧ t.mem = s.mem) ∧
    (h.own = false → h.f.typ ≠ 10 → h.f.wire ≠ .noSrc → Runs (.linkHoldExpiry 0) s fun t => ∃ w,
      Answers (u.det detRdgNakSent) h.f 10 (9 + h.f.typ.toNat * 256) [] State.takeNak w ∧ t = gone w) ∧
    ∀ k, exec (.linkHoldExpiry (k + 1)) s = .next s) ∧
  (∀ (s : State) (p : Nat) (f : Frame), Arrives s p f → f.typ = 10 →
    let t0 := (s.takeIn p f).det detRdgNakRecv
    ((∀ r ∈ s.ridge.reqs, r.tag ≠ f.tag) → (∀ q ∈ s.ridge.sigs, q.tag ≠ f.tag) → s.eng.colls = [] → exec (.nakFrame p f) s = .next (t0.freeIn (some p) f)) ∧
    (∀ q c, (∀ r ∈ s.ridge.reqs, r.tag ≠ f.tag) → s.ridge.sigs = [q] → q.tag = f.tag → q.poison = false → frameArg f 8 4 = 5 →
      frameArg f 0 8 ∈ [1, 2, 3, 7] → s.cmd q.r = some c →
      Runs (.nakFrame p f) s fun t => t.ridge.sigs = [] ∧ ∃ c', t.cmd q.r = some c' ∧ c'.phase = .finished 9))

/-- R349, R350, R345, R271, R272: a board memory request for this module's board, window and memory, from a mesh neighbour, reads, writes or updates the memory it names as an access
of the memory's own module does, and the answer goes to the requester with the request's tag; one whose payload comes poisoned poisons its line; else the owner refuses
it with BOARD or NO_MEMORY. An answer ends the request of its tag and reaches its owner, whatever it is, whose timer restarts where it is a group; a poisoned one to a write loses
the request's context; one to no request is counted as late. A request that RSP_TIMEOUT ends is counted
and ends, and loses its context with POISON_CONSUMED at the address it asked for, or, where the context was being lost, that goes on without the data.

How requests and answers are matched is the reading of log 41. -/
def Obligations.BoardMemory : Prop :=
  let settled := fun (s : State) => s.hif.admin = .none ∧ ∀ e ∈ s.hif.ctxs, e.2.destroying = false
  (∀ (s : State) (p : Nat) (f : Frame), Arrives s p f → s.portRole p = 1 →
    let t0 := s.takeIn p f
    let a := frameArg f 0 40
    let o := Owner.far f.src.toNat f.tag.toNat
    let own := s.fld regRdgBoard 32 3
    let mine := s.fld regRdgBoard (56 + own) 1 ≠ 1 ∧ f.board.toNat = s.fld regRdgBoard 0 32 ∧ frameArg f 40 3 = own
    let rsp := fun (u : State) (poison : Bool) (data : List (BitVec 8)) (t : State) => ∃ w,
      Answers u f 4 (if poison then 1 else 0) (if poison then [] else data) State.ownRsp w ∧ t = (if poison then w.tagSettle else w).freeIn (some p) f
    (¬mine → ∀ c ∈ [(1, Instr.memRd p f), (2, Instr.memWr p f), (3, Instr.memAtom p f)], f.typ.toNat = c.1 →
      exec c.2 s = .next ((t0.refuseFrame f 4).freeIn (some p) f)) ∧
    (mine → s.region a = none → ∀ c ∈ [(1, Instr.memRd p f), (2, Instr.memWr p f), (3, Instr.memAtom p f)], f.typ.toNat = c.1 →
      exec c.2 s = .next ((t0.refuseFrame f 6).freeIn (some p) f)) ∧
    (mine → (s.region a).isSome → t0.reachDoms (t0.wayIn p a) = .ok →
      (f.typ = 1 → t0.devReach o none a (frameArg f 43 7 + 1) true false = .ok →
        let d := t0.shown a (frameArg f 43 7 + 1)
        let r := d.2.devRead (plainReq none) a (frameArg f 43 7 + 1)
        ((∀ k < frameArg f 43 7 + 1, t0.deviceOwn (a + k) = false) → d = (t0.devBytes a (frameArg f 43 7 + 1), t0)) ∧
        Runs (.memRd p f) s (rsp (r.st.leaveTurn o none [a / 128]) r.poison d.1)) ∧
      (f.typ = 2 →
        (maskedBytes f = [] → Runs (.memWr p f) s (rsp t0 false [])) ∧
        (maskedBytes f ≠ [] → t0.devReach o none a 128 false true = .ok →
          let t1 := t0.leaveTurn o none [a / 128]
          (f.poisoned = false →
            let r := t1.cisWrite (plainReq none) (a / 128) (maskedBytes f)
            Runs (.memWr p f) s (rsp r.st r.poison [])) ∧
          (f.poisoned = true → Runs (.memWr p f) s (rsp (t1.poisonFlit (a / 128) 3 detParity false) true []))) ∧
        (∀ o, Tbl.find (maskedBytes f) o = if o < 128 ∧ bitOf (leVal (f.payload.take 16)) o = true then some (f.payload.getD (16 + o) 0) else none)) ∧
      (f.typ = 3 →
        let fmt := frameArg f 46 4
        let w := bitsOfFmt fmt
        (f.poisoned = true → t0.devReach o none a (w / 8) false true = .ok →
          Runs (.memAtom p f) s (rsp ((t0.leaveTurn o none [a / 128]).poisonFlit (a / 128) 3 detParity false) true [])) ∧
        (f.poisoned = false → t0.devReach o none a (w / 8) true false = .ok →
          let r := t0.devAtomic o (plainReq none) a (w / 8) fun x => atomNew (frameArg f 43 3) fmt x (leVal (f.payload.take 8) % 2 ^ w)
            (leVal (f.payload.drop 8) % 2 ^ w)
          (∀ old u, r = .done old u → Runs (.memAtom p f) s (rsp u false (leBytes (w / 8) old))) ∧
          (∀ c u, r = .poison c u → Runs (.memAtom p f) s (rsp u true [])))))) ∧
  (∀ (s : State) (p : Nat) (f : Frame), Arrives s p f → s.portRole p = 1 → f.typ = 4 → s.ridge.held = [] →
    let done := fun (u t : State) => t = u.freeIn (some p) f
    (s.ownConflict = true → Runs (.memRsp p f) s (done ((s.takeIn p f).refuseFrame f 4))) ∧
    (s.ownConflict = false → (∀ r ∈ s.ridge.reqs, r.tag ≠ f.tag) → Runs (.memRsp p f) s (done ((s.takeIn p f).det detRdgLate))) ∧
    (∀ r, s.ownConflict = false → s.ridge.reqs = [r] → r.tag = f.tag → f.payload.length = rspBytes r.frame ∨ frameArg f 0 1 = 1 →
      let poison := decide (frameArg f 0 1 = 1)
      let after := fun (as : List BoardAns) (t : State) => t.ridge.reqs = [] ∧ t.mem = s.mem ∧ t.hif = s.hif ∧ t.ridge.answers = s.ridge.answers ++ as
      let restarts := fun (t : State) => ∀ tl k x, r.owner = .group tl k ∨ r.owner = .store tl k → r.gid = some x → s.isGroup ⟨tl, k⟩ x = true →
        (r.owner = .group tl k → ∀ gr, s.group ⟨tl, k⟩ = some gr → ∀ w, gr.wait ≠ .watch w) → Tbl.getD (t.tile tl).timers k 0 = 0
      (r.frame.typ = 2 ∨ r.owner = .noone → settled s → poison = false → Runs (.memRsp p f) s fun t => after [] t ∧ restarts t) ∧
      (r.frame.typ = 2 ∨ r.owner = .noone → poison = true →
        Runs (.memRsp p f) s (done (((s.takeIn p f).failReq r stPoisonConsumed).memDone r))) ∧
      (r.frame.typ ≠ 2 → r.owner ≠ .noone → (∀ c, r.owner ≠ .ending c) →
        Runs (.memRsp p f) s fun t => after [⟨r.owner, r.ctx, r.key, f.payload, poison⟩] t ∧ restarts t) ∧
      (∀ c, r.frame.typ ≠ 2 → r.owner = .ending c →
        Runs (.memRsp p f) s (done ((((s.takeIn p f).dropReq f.tag).giveAnswer r f.payload poison).settleCtx c))))) ∧
  (∀ (s : State) (r : BoardReq), s.armed = [] → s.ridge.reqs = [r] →
    let counted := fun (t : State) => t.fld (regDetCounter detRdgTimeout) 0 64 = min (s.fld (regDetCounter detRdgTimeout) 0 64 + 1) (2 ^ 64 - 1)
    (∀ c, r.owner = .ending c →
      Runs (.rspTimeoutExpiry r.tag) s fun t => t = (((s.det detRdgTimeout).dropReq r.tag).giveAnswer r [] true).settleCtx c) ∧
    ((∀ c, r.owner ≠ .ending c) →
      (s.ctx r.ctx = none → s.ridge.held = [] → settled s → s.tagLoss = [] → Runs (.rspTimeoutExpiry r.tag) s fun t =>
        t.ridge.reqs = [] ∧ t.regs = (s.det detRdgTimeout).regs ∧ t.mem = s.mem ∧ t.hif = s.hif) ∧
      (∀ x, s.ctx r.ctx = some x → x.lost = false → x.destroying = false → Runs (.rspTimeoutExpiry r.tag) s fun t => counted t ∧
        (∃ x', t.ctx r.ctx = some x' ∧ x'.lost = true ∧ x'.code = stPoisonConsumed ∧
          x'.faultVa = if x.words.conf then 0 else BitVec.ofNat 64 (frameArg r.frame 0 43)) ∧
        ∀ n, ∀ b ∈ (t.tile n).blocks, b.2.cmd.ctx ≠ r.ctx)) ∧
    ∀ tag, tag ≠ r.tag → (∀ q ∈ s.ridge.sigs, q.tag ≠ tag) → exec (.rspTimeoutExpiry tag) s = .next s)

/-! ## Ethernet, RoCEv2 and the host link (12) -/

/-- R346, R356, R358: a received frame without an error and with a buffer leaves its bytes in the buffer, its length and DONE in the descriptor, and moves TAIL; one with
an FCS error or a bad length is dropped and counted, and so is one without a buffer that holds it. A transmit tail that offers one frame sends its
bytes, sets DONE and moves HEAD, and one beyond the ring is dropped and counted. A ring that owes an interrupt signals its vector once. A link
comes up only on an enabled port; pause is obeyed only under PFC, and ignored from the watchdog until it ceases. Where the port's I/O die is not at RUN the frame or the link waits, and the die
is woken; a host write that does not reach the module changes no ring.

Rings and pause in the corners are readings of log 29. -/
def Obligations.EthernetPorts : Prop :=
  ∀ (s : State) (p : Nat), p < 4 → s.armed = [] → s.load.img.isSome →
    let awake := s.domState (280 + p / 2) = 0
    (s.ethUp p = true → ¬awake → ∀ data bad, exec (.ethRxFrame p data bad) s = .next (s.stir .noone (s.reachDoms [280 + p / 2]))) ∧
    (s.ethUp p = true → awake → s.trust.ide ≠ .insecure → ∀ (data : List (BitVec 8)),
      (∀ bad, bad = true ∨ data.length < 60 ∨ 9212 < data.length → exec (.ethRxFrame p data bad) s = .next (s.det detEthRxErr)) ∧
      (60 ≤ data.length → data.length ≤ 9212 → (data.drop 12).take 2 ≠ [0x81, 0x00] →
        let tail := s.fld (regEthRxrTail p) 0 32
        let d := s.ringDesc p 1 tail
        let room := s.ringSize p 1 ≠ 0 ∧ tail ≠ s.fld (regEthRxrHead p) 0 32 ∧ data.length ≤ bitsOf d 64 14
        (¬room → exec (.ethRxFrame p data false) s = .next (s.det detEthRxDrop)) ∧
        (room → Runs (.ethRxFrame p data false) s fun t => t.fld (regEthRxrTail p) 0 32 = (tail + 1) % 2 ^ 32 ∧ (t.ethPort p).rxDue = true ∧
          t.mem.host = Memory.writes (Memory.writes s.mem.host (bitsOf d 0 64) data) (s.ringAddr p 1 tail)
            (leBytes 16 (setBits (setBits d 64 14 data.length) 78 1 1)) ∧ t.mem.cis = s.mem.cis ∧ t.hif = s.hif))) ∧
    (s.hostUp = false → ∀ v : BitVec 32, ∀ cmd ∈ [Instr.ethTxrTailWrite p v, .ethRxrHeadWrite p v], exec cmd s = .next (s.hostRefused false)) ∧
    (s.hostUp = true → ∀ v : BitVec 32,
      let head := s.fld (regEthTxrHead p) 0 32
      (s.ringSize p 0 < (v.toNat + 2 ^ 32 - head) % 2 ^ 32 → exec (.ethTxrTailWrite p v) s = .next (s.det detDoorbellInvalid)) ∧
      (v.toNat = head → Runs (.ethTxrTailWrite p v) s fun t => t.fld (regEthTxrTail p) 0 32 = head ∧ t.out = s.out ∧ t.mem = s.mem) ∧
      (s.ethUp p = true → awake → s.fld (regEthCtrl p) 5 1 = 0 → s.ringSize p 0 ≠ 0 → v.toNat = head + 1 →
        let d := s.ringDesc p 0 head
        60 ≤ bitsOf d 64 14 → bitsOf d 64 14 ≤ 9212 → Runs (.ethTxrTailWrite p v) s fun t =>
          t.out = .ethFrame p (Memory.reads s.mem.host (bitsOf d 0 64) (bitsOf d 64 14)) :: s.out ∧ t.fld (regEthTxrHead p) 0 32 = head + 1 ∧
          (t.ethPort p).txDue = true ∧ t.mem.host = Memory.writes s.mem.host (s.ringAddr p 0 head) (leBytes 16 (setBits d 78 1 1)))) ∧
    (s.hostUp = true → ∀ v : BitVec 32, Runs (.ethRxrHeadWrite p v) s fun t => t.fld (regEthRxrHead p) 0 32 = v.toNat ∧ t.mem = s.mem ∧ t.eth = s.eth) ∧
    ((s.ethPort p).rxDue = true → Runs (.ethRingInterrupt p false) s fun t => t.out = .msix (s.fld (regEthRingCfg p 1) 16 11) :: s.out ∧
      (t.ethPort p).rxDue = false ∧ exec (.ethRingInterrupt p false) t = .next t) ∧
    ((s.ethPort p).txDue = true → Runs (.ethRingInterrupt p true) s fun t => t.out = .msix (s.fld (regEthRingCfg p 0) 16 11) :: s.out ∧
      (t.ethPort p).txDue = false ∧ exec (.ethRingInterrupt p true) t = .next t) ∧
    (s.fld (regEthCtrl p) 0 1 = 0 ∨ ¬awake → exec (.ethLink p true) s = .next s) ∧
    (s.fld (regEthCtrl p) 0 1 = 1 → awake → s.ringSize p 0 = 0 → Runs (.ethLink p true) s fun t => t.ethUp p = true ∧ t.fld regClkRef (3 + p / 2) 1 = 1 ∧ t.mem = s.mem) ∧
    (Runs (.ethLink p false) s fun t => t.fld (regEthStatus p) 0 1 = 0 ∧ t.mem = s.mem) ∧
    (∀ data bad, s.ethUp p = false → exec (.ethRxFrame p data bad) s = .next s) ∧
    (s.ethUp p = true → s.fld (regEthCtrl p) 1 1 = 1 → (s.ethPort p).ignoring = false → ∀ on, Runs (.pfcPauseFrame p on) s fun t =>
      (t.ethPort p).paused = on ∧ t.regs = s.regs ∧ t.mem = s.mem) ∧
    (s.ethUp p = false ∨ s.fld (regEthCtrl p) 1 1 = 0 ∨ (s.ethPort p).ignoring = true → ∀ on, exec (.pfcPauseFrame p on) s = .next s) ∧
    ((s.ethPort p).paused = true → Runs (.pfcWatchdog p) s fun t => (t.ethPort p).paused = false ∧ (t.ethPort p).ignoring = true ∧
      t.fld (regEthStatus p) 1 1 = 1) ∧
    (Runs (.pfcPauseCeased p) s fun t => t.ethPort p = { s.ethPort p with ignoring := false } ∧ t.regs = s.regs ∧ t.mem = s.mem)

/-- R302, R346, R395, R451, R272: a TLP that a rule refuses is counted, and answered with Unsupported Request where it asks for an answer; with a secure stream a TLP
outside it is refused, and one whose integrity fails makes the stream insecure, after which a good TLP is refused too. A configuration request is to be
tried again until CAIRN_UP reads 1, and then register 0 answers vendor 0x2C7B and device 0x4096, register 8 class 0x12, and a base address register what the host
wrote to it above BAR0's size, with its kind. At an I/O die 0 that is not at RUN a TLP waits, and the die is woken. A device read of host
memory that times out loses its context. Without a link nothing arrives.

R346, R357, R370, R377: on an enabled pair, an acknowledgement takes the writes it covers off the open ones; a sequence NAK takes those before it off and sends the rest again; a NAK of another kind, and a packet that asks for
what the pair does not serve, put the pair in error and fail the checkpoint; an answer in its sequence moves the expected sequence on, and one out of it is
counted and answered; a packet whose ICRC fails is dropped and counted. A pair that is not enabled drops everything, and a packet at an I/O die that is not at RUN wakes it.

Places in configuration space are presumed, and what Table 11.1 does not fix is open (log 44); the headers of RoCEv2 are left out (log 49). -/
def Obligations.HostAndPairPackets : Prop :=
  ((∀ (s : State) (t : Tlp), s.pwr.linkUp = false → exec (.pcieTlp t) s = .next s) ∧
  (∀ (s : State) (t : Tlp), s.pwr.linkUp = true → s.domState 280 ≠ 0 → exec (.pcieTlp t) s = .next (s.stir (.host false) (s.reachDoms [280]))) ∧
  (∀ s : State, s.pwr.linkUp = true → s.armed = [] → s.domState 280 = 0 →
    let refused := fun (ur aer : Bool) => { s.det detPcieErr with out := .pcie ur aer :: s.out }
    exec (.pcieTlp .malformed) s = .next (refused false true) ∧ exec (.pcieTlp .linkError) s = .next (s.det detPcieErr) ∧
    (∀ rd, exec (.pcieTlp (.outsideBars rd)) s = .next (refused rd true)) ∧ (∀ bar off, exec (.pcieTlp (.poisonedWrite bar off)) s = .next (refused false true)) ∧
    exec (.pcieTlp .atomicUnsupported) s = .next (refused true true) ∧
    (s.trust.ide = .secure ∨ s.trust.ide = .insecure → exec (.pcieTlp .notInStream) s = .next (refused true false)) ∧
    (s.trust.ide = .noKeys ∨ s.trust.ide = .keyed → exec (.pcieTlp .notInStream) s = .next s) ∧
    (s.trust.ide = .secure → Runs (.pcieTlp .integrityFailure) s fun t => t.trust = { s.trust with ide := .insecure } ∧ t.fld regSecStatus 14 1 = 0 ∧
      t.mem = s.mem ∧ exec (.pcieTlp .wellFormed) t = .next { t.det detPcieErr with out := .pcie true false :: t.out }) ∧
    (s.trust.ide ≠ .insecure → exec (.pcieTlp .wellFormed) s = .next s) ∧
    (∀ reg, (s.trust.ide = .insecure → exec (.pcieTlp (.cfgRead reg)) s = .next (refused true false)) ∧
      (s.trust.ide ≠ .insecure → s.fld regIdentStatus 0 1 = 0 → exec (.pcieTlp (.cfgRead reg)) s = .next (s.emit .cfgRetry)) ∧
      (s.trust.ide ≠ .insecure → s.fld regIdentStatus 0 1 = 1 → Runs (.pcieTlp (.cfgRead reg)) s fun t => t.regs = s.regs ∧ t.mem = s.mem ∧ t.hif = s.hif ∧
        ∃ bs, bs.length = 4 ∧ t.out = .hostRead bs false :: s.out ∧ (reg = 0 → bs = [0x7B, 0x2C, 0x96, 0x40]) ∧ (reg = 8 → bs.getD 3 0 = 0x12) ∧
          (reg = 16 → leVal bs = (Tbl.getD s.pwr.cfg 16 0).toNat / 2 ^ 26 * 2 ^ 26 + 4)) ∧
      (∀ v, (s.trust.ide = .insecure → exec (.pcieTlp (.cfgWrite reg v)) s = .next (refused true false)) ∧
        (s.trust.ide ≠ .insecure → s.fld regIdentStatus 0 1 = 0 → exec (.pcieTlp (.cfgWrite reg v)) s = .next (s.emit .cfgRetry)) ∧
        (s.trust.ide ≠ .insecure → s.fld regIdentStatus 0 1 = 1 → Runs (.pcieTlp (.cfgWrite reg v)) s fun t => Tbl.getD t.pwr.cfg reg 0 = v ∧
          (∀ k, k ≠ reg → Tbl.getD t.pwr.cfg k 0 = Tbl.getD s.pwr.cfg k 0) ∧ t.regs = s.regs ∧ t.mem = s.mem ∧ t.hif = s.hif ∧ t.out = s.out)))) ∧
  (∀ (s : State) (c : Nat) (r : CtxRun), s.armed = [] → s.ctx c = some r → r.lost = false → r.destroying = false →
    Runs (.pcieCompletionTimeout c) s fun t =>
    ∃ r', t.ctx c = some r' ∧ r'.lost = true ∧ r'.code = 7)) ∧
  (∀ (s : State) (q : Nat), q < 16 → s.armed = [] →
    (s.fld (regCkpQpCtrl q) 5 2 ≠ 1 → ∀ k, exec (.rocePacket q k) s = .next s) ∧
    (s.fld (regCkpQpCtrl q) 5 2 = 1 → s.domState (s.pairDie q) ≠ 0 → ∀ k, exec (.rocePacket q k) s = .next (s.stirPair q)) ∧
    (s.fld (regCkpQpCtrl q) 5 2 = 1 → s.domState (s.pairDie q) = 0 →
      exec (.rocePacket q .icrcBad) s = .next (s.det detEthRoce) ∧
      (∀ psn w rest k, s.eng.ckpt = some k → k.sent = false → (s.qp q).unacked = w :: rest → rest ≠ [] →
        psn = (rest.headD w).1 - 1 → (∀ x, rest.tail.head? = some x → (psn - (x.1 - 1)).toNat ≥ 2 ^ 23) →
        (rest.tail = [] → (psn - ((s.qp q).psn - 1)).toNat ≥ 2 ^ 23) →
        Runs (.rocePacket q (.ack psn)) s fun t => (t.qp q).unacked = rest ∧ t.eng.ckpt = some k ∧ t.mem = s.mem) ∧
      (∀ psn, s.eng.ckpt = none → exec (.rocePacket q (.ack psn)) s = .next s ∧ exec (.rocePacket q (.nakSequence psn)) s = .next s) ∧
      (∀ psn k, s.eng.ckpt = some k → Runs (.rocePacket q (.nakRemote psn)) s fun t => t.fld (regCkpQpCtrl q) 5 2 = 2 ∧ t.eng.ckpt = none ∧
        t.fld regCkpStatus 20 3 = 2) ∧
      (∀ data, Runs (.rocePacket q (.readResponse (s.qp q).epsn data)) s fun t => t.qp q = { s.qp q with epsn := (s.qp q).epsn + 1 } ∧
        t.regs = s.regs ∧ t.out = s.out) ∧
      (∀ psn data, psn ≠ (s.qp q).epsn → Runs (.rocePacket q (.readResponse psn data)) s fun t => t.regs = (s.det detEthRoce).regs ∧ t.eng = s.eng ∧
        t.out = (if ((s.qp q).epsn - psn).toNat < 2 ^ 23 then .roce q 0 psn else .roce q 1 (s.qp q).epsn) :: s.out) ∧
      (Runs (.rocePacket q .other) s fun t => t.fld (regCkpQpCtrl q) 5 2 = 2 ∧ t.eng.ckpt = none ∧
        Output.roce q 2 (s.qp q).epsn ∈ t.out)))

/-! ## Trust (14) -/

/-- R382, R390, R391, R397: a mailbox command with a reserved argument bit set is refused with reason 7 and one while BUSY is dropped; a refused command changes nothing but
its answer and a counter. OWNER_ENROLL into an empty module shows the key's hash and the slot in use; into a slot in use it is refused with 5; OWNER_REVOKE of the
last live slot is refused with 6. The commands on a confidential context are refused with 1 where there is none and with 3 once it is
sealed; SEAL seals it and extends its measurement; and a measured range extends it with the range's hash. PT_WRITE over a valid entry waits until the accesses that
were translated are performed. A host write that does not reach the module starts no command.

The order of checks and the messages that are signed are readings of log 30. -/
def Obligations.MailboxCommands : Prop :=
  ∀ s : State, s.armed = [] → s.load.img.isSome →
    (s.hostUp = false → ∀ c ∈ [Instr.ownerEnroll, .ownerRevoke, .ptInstall, .ptWrite, .ptRelease, .measureRange, .sealCtx],
      exec c s = .next (s.hostRefused false)) ∧ (s.hostUp = true →
    let w := fun i => (s.reg (regMbxArg i)).toNat
    let answers := fun (u : State) (reason : Nat) (t : State) => t = (u.det detSecMbxRefused).setReg regMbxStatus (BitVec.ofNat 64 (256 + reason * 65536))
    let good := fun (t : State) => t.reg regMbxStatus = 0
    let cmds := [Instr.ownerEnroll, .ownerRevoke, .ptInstall, .ptWrite, .ptRelease, .measureRange, .sealCtx]
    (s.fld regMbxStatus 0 1 = 1 → ∀ c ∈ cmds, exec c s = .next (s.violation regMbxCmd 0 false)) ∧
    (s.fld regMbxStatus 0 1 = 0 →
      (2 ^ 16 ≤ w 0 → ∀ c ∈ cmds, Runs c s (answers s 7)) ∧
      (w 0 < 4 → w 1 < 4 →
        (s.fld regSecStatus 0 4 = 0 → Runs .ownerEnroll s fun t => good t ∧ t.fld regSecStatus (w 0) 1 = 1 ∧ t.hash48 (regSecOwnerHash (w 0)) = shaBytes (s.mbxData 0 97) ∧
          Tbl.find t.trust.ownerKeys (w 0) = some (s.mbxData 0 97) ∧ t.mem = s.mem ∧ t.hif = s.hif) ∧
        (s.fld regSecStatus (w 0) 1 = 1 → Runs .ownerEnroll s (answers s 5)) ∧
        (s.ownerLive (w 0) = false → Runs .ownerRevoke s (answers s 5)) ∧
        (s.ownerLive (w 0) = true → (∀ i < 4, i ≠ w 0 → s.ownerLive i = false) → Runs .ownerRevoke s (answers s 6)) ∧
        (s.ownerLive (w 0) = true → (∃ i < 4, i ≠ w 0 ∧ s.ownerLive i = true) →
          Runs .ownerRevoke s fun t => (good t ∧ t.fld regSecStatus (4 + w 0) 1 = 1 ∧ t.mem = s.mem) ∨ answers s 4 t)) ∧
      (w 0 < 2 ^ 12 →
        (s.mbxCtx = none → ∀ c ∈ [Instr.ptInstall, .ptWrite, .ptRelease, .measureRange, .sealCtx], Runs c s (answers s 1)) ∧
        (∀ c r k v, s.mbxCtx = some (c, r, k) → 0 < k → k < 193 → Tbl.find s.trust.slots k = some v →
          (s.sealed k = true → ∀ i ∈ [Instr.ptRelease, .measureRange, .sealCtx], Runs i s (answers s 3)) ∧
          (s.sealed k = false →
            (Runs .sealCtx s fun t => good t ∧ t.sealed k = true ∧
              Tbl.find t.trust.slots k = some { v with m := Config.sha384 (measBytes v.m ++ [0x14]) } ∧ t.trust.pages = s.trust.pages ∧ t.mem = s.mem) ∧
            (∀ bs s1, w 1 % 4096 = 0 → w 2 % 4096 = 0 → w 2 ≤ 2 ^ 32 → s.vRead (.access (w 1) (w 2)) c (plainReq (some c)) (w 1) (w 2) = .ok bs s1 →
              Tbl.find s1.trust.slots k = some v → Runs .measureRange s fun t => good t ∧ t.mem = s1.mem ∧
              Tbl.find t.trust.slots k = some { v with m := Config.sha384 (measBytes v.m ++ (0x13 :: leBytes 8 (w 1) ++ leBytes 8 (w 2) ++ shaBytes bs)) }) ∧
            (w 1 % 4096 = 0 → s.ptNamed k (w 1 / 4096) = false →
              (s.trust.pages.any (fun x => decide (x.page = w 1 / 4096) && decide (x.slot = k)) = true → s.pageReach (w 1 / 4096) true = .ok →
                Runs .ptRelease s fun t => good t ∧ t.trust.pages = s.trust.pages.filter (fun x => x.page ≠ w 1 / 4096) ∧ t.trust.slots = s.trust.slots) ∧
              (s.trust.pages.any (fun x => decide (x.page = w 1 / 4096) && decide (x.slot = k)) = false → Runs .ptRelease s (answers s 2)))) ∧
          (w 1 % 4096 = 0 → s.pageFree r k (w 1 / 4096) = true → s.pageReach (w 1 / 4096) true = .ok → (s.sealed k = true → s.ptNamed k (w 1 / 4096) = false) →
            ((s.pageEntries (w 1 / 4096)).all (fun e => s.entryOk r k 4 false e) = true → Runs .ptInstall (s.setReg (regMbxArg 0) (BitVec.ofNat 64 (c + 4 * 2 ^ 12))) fun t =>
              good t ∧ ⟨w 1 / 4096, k, 4, false⟩ ∈ t.trust.pages ∧ t.trust.slots = s.trust.slots)) ∧
          (∀ p, s.trust.pages.find? (fun x => decide (x.page = w 1 / 4096 ∧ x.slot = k)) = some p → w 1 % 8 = 0 → s.pageReach p.page true = .ok →
            let old := BitVec.ofNat 64 (s.devVal (w 1) 8)
            let e := BitVec.ofNat 64 (w 2)
            (s.sealed k = true → field old 0 1 = 1 → Runs .ptWrite s (answers s 3)) ∧
            ((s.sealed k = true → field old 0 1 = 0) → s.entryOk r k p.level p.g64 e = false → Runs .ptWrite s (answers s 2)) ∧
            ((s.sealed k = true → field old 0 1 = 0) → s.entryOk r k p.level p.g64 e = true →
              (field old 0 1 = 1 → s.xltBusy r.words.asid = true → Runs .ptWrite s fun t => t.trust = s.trust ∧ t.mem = s.mem ∧ t.out = s.out ∧
                t.reg regMbxStatus = s.reg regMbxStatus) ∧
              ((field old 0 1 = 1 → s.xltBusy r.words.asid = false) → Runs .ptWrite s fun t =>
                good t ∧ t.trust = s.trust ∧ (field old 0 1 = 1 → ∀ x ∈ t.mem.xlat, x.asid ≠ r.words.asid))))))))

/-- R384, R385, R392, R395: an SPDM request out of its place, in a session that is not open, for another certificate slot, or without the module's algorithms, is answered with an error and
changes nothing; else each request has its answer: the connection moves on, with its capabilities, algorithms, chain and chain digest; AK signs, over all that was said, the answers to a challenge,
a key exchange and a measurement that asks for it, each with fresh bytes; a session opens, ends or goes on, a measurement block is given, a sealed context of the measurement
named takes its secret, and the IDE stream takes its keys, starts and stops. Without the Cairn nothing answers.

The places of requests in a connection and the bits of their fields are presumed from the cited standard (log 34); signatures and
certificates are open functions (log 14). -/
def Obligations.Attestation : Prop :=
  (∀ (s : State) (sess : Nat) (req : List (BitVec 8)), s.pwr.phase ≠ .up → ∀ i ∈ [Instr.getVersion sess req, .getCapabilities sess req,
      .negotiateAlgorithms sess req, .getDigests sess req, .getCertificate sess req, .spdmChallenge sess req, .keyExchange sess req, .spdmFinish sess req,
      .endSession sess req, .spdmHeartbeat sess req, .keyUpdate sess req, .kSetGo sess, .kSetStop sess], exec i s = .next s) ∧
  ∀ (s : State) (sess : Nat) (req : List (BitVec 8)), s.pwr.phase = .up →
    let err := State.emit s (.spdm sess "ERROR" [])
    let ans := fun (u : State) (n : Nat) (name : String) (data : List Nat) => State.emit u (.spdm n name data)
    let said := fun (v : Trust) (q : List (BitVec 8)) (data : List Nat) => { v with talk := v.talk ++ nums q ++ data }
    let say := fun (v : Trust) (name : String) (data : List Nat) => ans { s with trust := said v req data } sess name data
    let signed := fun (u : State) (n : Nat) (q : List (BitVec 8)) (name : String) (data : List Nat) =>
      let v := said u.trust q data
      ans { u with trust := v } n name (data ++ nums (Config.ecdsaSign v.ak (Config.sha384 (v.talk.flatMap (leBytes 8)))))
    let fresh := fun (n : Nat) => { s with fresh := s.fresh + n }
    let setT := fun (v : Trust) => { s with trust := v }
    let open_ := ∃ x, Tbl.find s.trust.sessions sess = some x ∧ x.done = true
    let attests := s.trust.spdm = .negotiated ∧ (sess = 0 ∨ open_)
    let zero := fun i => (req.getD i 0).toNat % 16 = 0
    let rule := fun (i : Instr) (ok : Prop) (then_ : State) => (ok → exec i s = .next then_) ∧ (¬ok → exec i s = .next err)
    let some_ := fun (i : Instr) (ok : Prop) (then_ : List Nat → State) => (ok → Runs i s fun t => ∃ n, n.length = 32 ∧ t = then_ n) ∧ (¬ok → exec i s = .next err)
    rule (.getVersion sess req) (sess = 0) (say { s.trust with spdm := .version, sessions := [], talk := [] } "VERSION" [0x12]) ∧
    rule (.getCapabilities sess req) (sess = 0 ∧ s.trust.spdm = .version) (say { s.trust with spdm := .capabilities } "CAPABILITIES" [spdmFlags]) ∧
    rule (.negotiateAlgorithms sess req) (sess = 0 ∧ s.trust.spdm = .capabilities ∧ bitOf (leAt req 8 4) 7 = true ∧ bitOf (leAt req 12 4) 1 = true ∧
        bitOf (algTable req 2) 4 = true ∧ bitOf (algTable req 3) 1 = true)
      (say { s.trust with spdm := .negotiated } "ALGORITHMS" [2 ^ 7, 2 ^ 1, 2 ^ 4, 2 ^ 1]) ∧
    rule (.getDigests sess req) attests (say s.trust "DIGESTS" (1 :: nums (shaBytes s.certChain))) ∧
    (let part := (s.certChain.drop (leAt req 4 2)).take (leAt req 6 2);
      rule (.getCertificate sess req) (attests ∧ zero 2)
        (say s.trust "CERTIFICATE" (part.length :: (s.certChain.length - leAt req 4 2 - part.length) :: nums part))) ∧
    some_ (.spdmChallenge sess req) (sess = 0 ∧ attests ∧ zero 2)
      (fun n => signed (fresh 4) sess req "CHALLENGE_AUTH" (nums (shaBytes s.certChain) ++ n)) ∧
    (∀ m : MeasReq,
      let q := leBytes 1 m.index ++ leBytes 1 (b2n m.sign) ++ leBytes 32 m.nonce.toNat
      let data := if m.index = 0 then [s.measBlocks.length] else if m.index = 0xFF then s.measBlocks.flatten else m.index :: (s.measBlock m.index).getD []
      (m.sign = false → rule (.getMeasurements sess m) attests (ans (setT (said s.trust q data)) sess "MEASUREMENTS" data)) ∧
      (m.sign = true → some_ (.getMeasurements sess m) attests (fun n => signed (fresh 4) sess q "MEASUREMENTS" (data ++ n)))) ∧
    (∀ n, n < 5 → 0 < n → Tbl.find s.trust.sessions n = none → (∀ j, 0 < j → j < n → (Tbl.find s.trust.sessions j).isSome) →
      (sess = 0 ∧ attests ∧ zero 3 → Runs (.keyExchange sess req) s fun t => ∃ eph, t =
        signed { fresh 6 with trust := { s.trust with sessions := Tbl.put s.trust.sessions n ⟨false, 0, 0⟩ } } n req "KEY_EXCHANGE_RSP" (nums (Config.p384Pub eph))) ∧
      (¬(sess = 0 ∧ attests ∧ zero 3) → exec (.keyExchange sess req) s = .next err)) ∧
    ((∀ j, 0 < j → j < 5 → (Tbl.find s.trust.sessions j).isSome) → exec (.keyExchange sess req) s = .next err) ∧
    rule (.spdmFinish sess req) (∃ x, Tbl.find s.trust.sessions sess = some x ∧ x.done = false)
      (ans (setT { s.trust with sessions := Tbl.put s.trust.sessions sess ⟨true, 0, 0⟩ }) sess "FINISH_RSP" []) ∧
    rule (.endSession sess req) open_ (ans (setT { s.trust with sessions := Tbl.del s.trust.sessions sess }) sess "END_SESSION_ACK" []) ∧
    rule (.spdmHeartbeat sess req) open_ (ans s sess "HEARTBEAT_ACK" []) ∧
    (let op := (req.getD 2 0).toNat;
      rule (.keyUpdate sess req) (open_ ∧ 1 ≤ op ∧ op ≤ 3) (ans (setT { s.trust with sessions := Tbl.modify s.trust.sessions sess fun x =>
        ⟨x.done, x.req + (if op = 3 then 0 else 1), x.rsp + (if op = 2 then 1 else 0)⟩ }) sess "KEY_UPDATE_ACK" [op])) ∧
    (∀ (ctx : Nat) (m : BitVec 384) (key : BitVec 512) (va : BitVec 64) (data : List (BitVec 8)),
      (¬open_ ∨ s.secretSlot ctx m = none → exec (.setSecret sess ctx m key va data) s = .next err) ∧
      (∀ k v u, open_ → s.secretSlot ctx m = some k → data.length ≤ 1024 → 0 < k → Tbl.find s.trust.slots k = some v →
        s.vWrite (.access va.toNat data.length) ctx (plainReq (some ctx)) va.toNat data = .ok () u → u.trust = s.trust →
        Runs (.setSecret sess ctx m key va data) s fun t => t.mem = u.mem ∧ t.fld (regSecKeyslot (k - 1)) 2 1 = 1 ∧
          Tbl.find t.trust.slots k = some { v with migration := some key } ∧ t.out = .spdm sess "VENDOR_DEFINED_RESPONSE" [] :: u.out)) ∧
    (let ide := fun (v : Ide) (keys : Tbl (BitVec 256)) (name : String) (t : State) => t.trust = { s.trust with ide := v, ideKeys := keys } ∧
        t.fld regSecStatus 14 1 = (if v = Ide.secure then 1 else 0) ∧ t.out = .spdm sess name [] :: s.out ∧ t.mem = s.mem;
      (∀ num key, open_ → s.trust.ide ≠ Ide.secure → Runs (.keyProg ⟨sess, num, key⟩) s (ide .keyed (Tbl.put s.trust.ideKeys num key) "KP_ACK")) ∧
      (∀ num key, open_ → s.trust.ide = Ide.secure → exec (.keyProg ⟨sess, num, key⟩) s =
        .next (ans (setT { s.trust with ideKeys := Tbl.put s.trust.ideKeys num key }) sess "KP_ACK" [])) ∧
      (open_ → s.trust.ide = Ide.keyed ∨ s.trust.ide = Ide.secure → Runs (.kSetGo sess) s (ide .secure s.trust.ideKeys "K_GOSTOP_ACK")) ∧
      (open_ → s.trust.ide = Ide.noKeys ∨ s.trust.ide = Ide.insecure → exec (.kSetGo sess) s = .next err) ∧
      (open_ → Runs (.kSetStop sess) s (ide .noKeys [] "K_GOSTOP_ACK")) ∧
      (¬open_ → ∀ i ∈ [Instr.keyProg ⟨sess, 0, 0⟩, .kSetGo sess, .kSetStop sess], exec i s = .next err))

/-! ## Power (15) -/

/-- R402 to R406: a running controller steps one allowed point down for power or temperature, at once, and one up after 10 ms with power and temperature low, at the step's
end; the fast path goes to OP3 at once; and a lost reference is shown, counted and steps down, which its return shows and 100 ms of it end; a loss while it is lost already is none. A power
limit out of range is dropped.

When OP and PWR_STEPS change, that power evaluation steps at most one point, and the free figures of the meter, are readings of log 35. -/
def Obligations.OperatingPoints : Prop :=
  ∀ s : State, s.armed = [] →
    let div := fun (i : Nat) => match i with | 0 => 8 | 1 => 10 | 2 => 12 | _ => 16
    let runs := fun (i : Nat) (t : State) => t.op = i ∧ t.fld regClkStatus 8 8 = div i
    let down := fun (i : Nat) (t : State) => t.pwr.step = some ⟨false, i⟩ ∧ t.fld regPwrStatus 2 2 = i ∧ t.fld regPwrStatus 4 1 = 1 ∧ runs i t
    (s.powered = true → s.pwr.step = none → s.fld regPwrStatus 9 1 = 0 → s.pwr.refHold = false → ∀ avg1 avg10 tj : Nat,
      let limit := s.fld regPwrLimit 0 13
      let hot := s.fld regPwrLimit 24 8
      let meter := fun (t : State) => t.fld regPwrMeter 0 16 = min avg1 0xFFFF ∧ t.fld regPwrStatus 10 1 = (if hot ≤ tj then 1 else 0) ∧ t.mem = s.mem ∧ t.hif = s.hif
      (∀ i, s.slower = some i → limit < avg1 ∨ hot ≤ tj → Runs (.powerEvaluation avg1 avg10 tj) s fun t => meter t ∧ down i t) ∧
      (avg1 ≤ limit → tj < hot → s.pwr.since < 999 → Runs (.powerEvaluation avg1 avg10 tj) s fun t => meter t ∧ t.pwr.step = none ∧ t.op = s.op) ∧
      (∀ i, avg1 ≤ limit → 10 * avg10 < 8 * limit → tj + 5 < hot → 1000 ≤ s.pwr.since → s.faster = some i →
        Runs (.powerEvaluation avg1 avg10 tj) s fun t => meter t ∧ t.pwr.step = some ⟨true, i⟩ ∧ t.op = s.op ∧ t.fld regPwrStatus 4 1 = 1)) ∧
    (∀ k, s.pwr.step = some k → k.dest < 4 → s.pwr.refHold = false → s.fld regPwrLimit 16 2 ≤ (if k.up then k.dest else s.op) → Runs .opStepEnd s fun t =>
      t.pwr.step = none ∧ t.fld regPwrStatus 4 1 = 0 ∧ (if k.up then runs k.dest t else t.op = s.op) ∧ t.mem = s.mem) ∧
    (s.powered = true →
      (s.op ≠ 3 ∨ s.pwr.step.isSome → Runs .fastPath s fun t => down 3 t ∧ t.fld regPwrStatus 9 1 = 1) ∧
      (Runs .fastPathHoldEnd s fun t => t.fld regPwrStatus 9 1 = 0 ∧ t.op = s.op ∧ t.pwr = s.pwr)) ∧
    (s.pwr.phase = .up ∨ s.pwr.phase = .offEntry →
      (s.fld regClkStatus 1 1 = 1 → Runs .refLoss s fun t => t.fld regClkStatus 1 1 = 0 ∧ t.fld regClkStatus 2 1 = 1 ∧ t.fld regIdentStatus 1 1 = 1 ∧
        t.pwr.refHold = true ∧ t.pwr.mref = false ∧ t.fld regClkRefLoss 0 32 = min (s.fld regClkRefLoss 0 32 + 1) (2 ^ 32 - 1) ∧
        ∀ i, s.pwr.step = none → s.op < 3 → s.slower = some i → down i t) ∧
      (s.fld regClkStatus 1 1 = 0 → exec .refLoss s = .next { s with pwr := { s.pwr with mref := false } }) ∧
      (∀ c ∈ [(Instr.mrefPresent, s.pwr.refHold), (.refRestored, false)], Runs c.1 s fun t =>
        t.fld regClkStatus 1 1 = 1 ∧ t.fld regClkStatus 2 1 = 0 ∧ t.pwr = { s.pwr with mref := true, refHold := c.2 } ∧ t.op = s.op)) ∧
    (s.hostUp = false → ∀ v, exec (.pwrLimitWrite v) s = .next (s.hostRefused false)) ∧
    (s.hostUp = true → s.load.img.isSome → ∀ v : BitVec 64, v &&& ~~~0xFF031FFF = 0 →
      let ok := 1000 ≤ field v 0 13 ∧ field v 0 13 ≤ 6000 ∧ 70 ≤ field v 24 8 ∧ field v 24 8 ≤ 105
      (ok → Runs (.pwrLimitWrite v) s fun t => t.fld regPwrLimit 0 13 = field v 0 13 ∧ t.fld regPwrLimit 16 2 = field v 16 2 ∧
        t.fld regPwrLimit 24 8 = field v 24 8 ∧ t.mem = s.mem) ∧
      (¬ok → exec (.pwrLimitWrite v) s = .next (s.violation regPwrLimit 0 false)))

/-- R417: a wake event during a domain's entry into IDLE, SLEEP or DEEP leaves the entry under way and is counted in
DET_PWR_WAKE_IN_ENTRY; when the entry is done the exit begins at once, from the state entered and through all its stages. -/
def Obligations.WakesDuringEntry : Prop :=
  ∀ (s : State) (d : Nat) (r : DomRun), s.armed = [] → d < 282 → s.domState d = 4 → s.domRun d = some r → 1 ≤ r.target → r.target ≤ 3 →
    (s.powered = true → Runs (.wakeEvent d) s fun t => t.domState d = 4 ∧ t.domRun d = some { r with wake := true } ∧
      t.regs = (s.det detPwrWakeInEntry).regs ∧ t.mem = s.mem ∧ t.tiles = s.tiles) ∧
    (r.wake = true → Runs (.domainEntryDone d) s fun t =>
      t.domState d = 5 ∧ t.domRun d = some ⟨0, false, r.target, if r.target = 1 then 3 else 0, []⟩)

/-- R409 to R416, R422: an idle domain whose timer expires, or that nothing holds awake, enters its low state; a done entry puts it there, and a spur in SLEEP has lost its
L1 lines and in DEEP its tiles; a wake begins the exit; four ready stages bring it to RUN, and one
that times out makes it FAILED, and answers poisoned what waited for it alone. A host vote only where the image lets it. A partition reset, which no domain's entry lets begin, makes every context of the partition lost and to be destroyed;
it ends once they are gone and its spurs run, with its tiles clear, and not before.

What is lost at the end of an entry, and how votes and wakes are presented, are readings of log 35. -/
def Obligations.PowerDomains : Prop :=
  ∀ (s : State) (d : Nat), s.armed = [] → d < 282 →
    let enters := fun (target : Nat) (t : State) => t.domState d = 4 ∧ t.domRun d = some ⟨target, false, s.domState d, 0, []⟩ ∧ t.mem = s.mem ∧ t.tiles = s.tiles ∧
      ∀ k < 282, k ≠ d → t.domState k = s.domState k
    let exits := fun (from' : Nat) (t : State) => t.domState d = 5 ∧ t.domRun d = some ⟨0, false, from', if from' = 1 then 3 else 0, []⟩
    (s.powered = true → s.domIdle d = true →
      (s.domState d = 0 → s.fld (regPwrTimer (domClass d)) 0 32 ≠ 0 → Runs (.idleTimerExpiry d) s (enters 1)) ∧
      (s.domState d < 2 → s.fld (regPwrTimer (domClass d)) 32 32 ≠ 0 → Runs (.sleepTimerExpiry d) s (enters 2)) ∧
      (s.domState d = 0 → s.voted d = false → 0 < s.fld (regPwrDom d) 3 2 → (264 ≤ d ∨ d < 256 ∨ s.ringFree d = true) →
        Runs (.lowStateEntry d) s (enters (if s.pinned d then min (s.fld (regPwrDom d) 3 2) 2 else s.fld (regPwrDom d) 3 2)))) ∧
    (s.domIdle d = false ∨ s.voted d = true → exec (.lowStateEntry d) s = .next s) ∧
    (∀ r, s.domRun d = some r → s.domState d = 4 → 1 ≤ r.target → r.target ≤ 3 →
      r.wake = false → d < 256 → Runs (.domainEntryDone d) s fun t => t.domState d = r.target ∧ t.domRun d = none ∧ t.mem = s.mem ∧
        (r.target = 1 → t.tiles = s.tiles) ∧
        (∀ k < 16, (r.target = 2 → t.tile (tileOfSpur d k) = { s.tile (tileOfSpur d k) with l1 := [] }) ∧
          (r.target = 3 → Tbl.find t.tiles (tileOfSpur d k) = none))) ∧
    (s.powered = true → 1 ≤ s.domState d → s.domState d ≤ 3 → s.domRun d = none → Runs (.wakeEvent d) s (exits (s.domState d))) ∧
    (s.hostUp = true → s.load.img.isSome → 1 ≤ s.domState d → s.domState d ≤ 3 → s.domRun d = none → s.fld (regPwrDom d) 3 2 ≠ 0 → s.fld (regPwrDom d) 5 1 = 0 →
      Runs (.wakeDomain d) s (exits (s.domState d))) ∧
    (∀ r, s.domRun d = some r → s.domState d = 5 →
      (r.stage < 3 → Runs (.wakeStageReady d) s fun t => t.domState d = 5 ∧ t.domRun d = some { r with stage := r.stage + 1 } ∧
        t.fld (regPwrDom d) (8 + r.stage) 1 = 1) ∧
      (r.stage = 3 → Runs (.wakeStageReady d) s fun t => t.domState d = 0 ∧ t.domRun d = none ∧ t.tiles = s.tiles ∧ (d < 280 → t.mem = s.mem)) ∧
      (s.ridge.held = [] → Runs (.wakeStageTimeout d) s fun t => t.domState d = 6 ∧ t.domRun d = none ∧ t.fld regIdentStatus 1 1 = 1 ∧ t.mem = s.mem) ∧
      (∀ h q,
        let u := (s.det detPwrWakeFail).failDom d false
        s.ridge.held = [h] → h.own = true → boardMem h.f.typ = true → u.exitDies true h.f = [d] → s.ridge.reqs.find? (fun x => x.tag = h.f.tag) = some q →
        exec (.wakeStageTimeout d) s = .next (State.failReq { u with ridge := { u.ridge with held := [] } } q stPoisonConsumed))) ∧
    (s.hostUp = false → (∀ v i, i < 5 → exec (.pwrHostVoteWrite i v) s = .next (s.hostRefused false)) ∧ exec (.wakeDomain d) s = .next (s.hostRefused false) ∧
      (s.entering = false → ∀ v, exec (.pwrPartReset v) s = .next (s.hostRefused false))) ∧
    (s.entering = true → ∀ v, exec (.pwrPartReset v) s = .next s) ∧
    (s.hostUp = true → s.load.img.isSome → ∀ (i : Nat) (v : BitVec 64), i < 5 →
      ((∀ j < 64, v.getLsbD j = true → 64 * i + j < 282 ∧ (s.voteWord (64 * i + j)).testBit 16 = true ∧ s.domState (64 * i + j) = 0) →
        Runs (.pwrHostVoteWrite i v) s fun t => t.reg (regPwrHostVote i) = v ∧ t.pwr = s.pwr) ∧
      ((∃ j < 64, v.getLsbD j = true ∧ (282 ≤ 64 * i + j ∨ (s.voteWord (64 * i + j)).testBit 16 = false)) →
        exec (.pwrHostVoteWrite i v) s = .next (s.violation (regPwrHostVote i) 0 false))) ∧
    (s.hostUp = true → s.entering = false → s.load.img.isSome → ∀ p : Nat, p < 16 →
      let v : BitVec 64 := BitVec.ofNat 64 (p + 2 ^ 63)
      (s.part p = none ∨ s.fld regPwrPrstStatus 0 1 = 1 → exec (.pwrPartReset v) s = .next (s.violation regPwrPartReset 0 false)) ∧
      (∀ e, s.part p = some e → s.fld regPwrPrstStatus 0 1 = 0 → Runs (.pwrPartReset v) s fun t => t.fld regPwrPrstStatus 0 1 = 1 ∧
        t.fld regPwrPartReset 0 4 = p ∧ ∀ c r, s.ctx c = some r → r.words.part = p →
          t.ctx c = none ∨ ∃ r', t.ctx c = some r' ∧ r'.lost = true ∧ r'.destroying = true)) ∧
    let remain := ∃ x ∈ s.hif.ctxs, x.2.words.part = s.fld regPwrPartReset 0 4
    (remain → exec .partResetDone s = .next s) ∧
    (∀ e, s.part (s.fld regPwrPartReset 0 4) = some e → s.fld regPwrPrstStatus 0 1 = 1 → ¬remain → (∀ x ∈ e.spurs, s.domState x = 0 ∨ s.domState x = 6) →
      Runs .partResetDone s fun t => t.fld regPwrPrstStatus 0 1 = 0 ∧ t.hif = s.hif ∧ t.mem = s.mem ∧
        ∀ x ∈ e.spurs, Tbl.find t.eng.spurs x = none ∧ ∀ k < 16, Tbl.find t.tiles (tileOfSpur x k) = none)

/-! ## Resets and bring-up (11, 15, 17) -/

/-- R374, R380, R402, R407, R421, R435, R442, R448, R450, R451, R452, R304: the loss of the input, an overvoltage, a thermal trip and RESET_N lose every volatile state and keep flash, the error log and host memory,
but for a record that the loss of power tears; bring-up waits for the reference, and
ends with the Cairn running the first firmware copy that is good, or held for want of one; PERST# keeps the log and the counters where nothing of the host's side fails in it, and its release loads from flash; a hot reset or
FLR removes every context and object, once no domain is in an entry; OFF is entered when allowed, and left by its wake, or by a PERST# for a RESET_N latched in it; and the heartbeat counts, and with it each no-progress
timer that does not pause (R69, R70).

What each reset keeps beyond the rules is the reading of log 36; the bring-up is one command (log 4); poisonings that a reset forces wait
for nothing (log 47). -/
def Obligations.ResetsAndBringUp : Prop :=
  ∀ s : State,
    let gone := fun (t : State) => t.load.img = none ∧ t.hif.ctxs = [] ∧ t.hif.objs = [] ∧ t.tiles = [] ∧ t.mem.hbm = [] ∧ t.mem.cis = [] ∧
      t.eng = State.reset.eng ∧ t.trust.slots = [] ∧ t.mem.host = s.mem.host ∧ t.load.slotA = s.load.slotA ∧ t.load.slotB = s.load.slotB ∧
      t.reg regIdentSerial = s.reg regIdentSerial ∧ t.trust.uds = s.trust.uds ∧ t.upsets = []
    let lost := fun (t : State) => gone t ∧ t.log = s.log
    let torn := fun (t : State) => gone t ∧ (t.log = s.log ∨ ∃ r rs, s.log.recs = r :: rs ∧ r.boot = s.log.boot ∧ r.time = s.ms ∧
      t.log = { s.log with recs := { r with ok := false } :: rs })
    let flash := fun (t : State) => t.load.slotA = s.load.slotA ∧ t.load.slotB = s.load.slotB
    let starts := fun (t : State) => flash t ∧ t.pwr.phase = (if s.fwOk 0 || s.fwOk 1 then ModPhase.up else .noFirmware) ∧
      (t.pwr.phase = .up → t.fld regIdentStatus 0 1 = 1 ∧ t.trust.fw = (if s.fwOk 0 then 0 else 1) ∧ t.trust.dik = Config.deriveDik s.trust.uds ∧
        t.trust.ak = Config.deriveAk s.trust.uds (Config.fwDigest t.trust.fw))
    let booted := fun (t : State) => if s.pwr.mref then starts t else t.pwr.phase = .waitRef ∧ flash t
    let nothing := s.eng.ckpt = none ∧ s.hif.ctxs = [] ∧ s.hif.objs = []
    (Runs .inputPowerLoss s fun t => torn t ∧ t.pwr.phase = .noInput) ∧
    (s.pwr.phase ≠ .noInput → Runs .inputOvervoltage s fun t => torn t ∧ t.pwr.phase = .overvoltage) ∧
    (s.pwr.phase ∈ [.up, .offEntry, .bringUp, .waitRef, .noFirmware] → Runs .thermalTrip s fun t => torn t ∧ t.pwr.phase = .tripped ∧ t.pwr.thermTripN = false ∧
      t.pwr.tripLatch = true) ∧
    (s.pwr.phase ∈ [.waitRef, .bringUp, .noFirmware, .up, .off, .tripped] → Runs .resetPin s fun t => lost t ∧ t.pwr.phase = .held ∧ t.pwr.resetN = false ∧
      t.reg regPwrLastWake = 2) ∧
    (s.pwr.phase = .offEntry → Runs .resetPin s fun t => t.pwr = { s.pwr with resetN := false, latch := some 2 } ∧ t.mem = s.mem) ∧
    (s.pwr.phase = .held → Runs .resetPinRelease s fun t => booted t ∧ t.pwr.resetN = true) ∧
    (s.pwr.phase ≠ .held → exec .resetPinRelease s = .next { s with pwr := { s.pwr with resetN := true } }) ∧
    (s.pwr.phase = .noInput → s.pwr.resetN = true → Runs .powerOn s booted) ∧
    (s.pwr.phase = .bringUp → s.pwr.powerOnLoad = true → s.pwr.resetN = true → Runs .powerOn s booted) ∧
    (s.pwr.phase = .overvoltage → s.pwr.resetN = true → Runs .overvoltageRestart s booted) ∧
    (s.pwr.phase = .overvoltage → s.pwr.resetN = false → Runs .overvoltageRestart s fun t => lost t ∧ t.pwr.phase = .held) ∧
    (s.pwr.phase = .waitRef → ∀ c ∈ [Instr.mrefPresent, .refRestored], Runs c s fun t => starts t ∧ t.pwr.mref = true) ∧
    (s.pwr.phase ∉ [.waitRef, .up, .offEntry] → exec .mrefPresent s = .next { s with pwr := { s.pwr with mref := true } }) ∧
    (s.pwr.phase ∈ [.up, .offEntry, .bringUp, .waitRef, .noFirmware] → s.pwr.perstN = true → s.domState 280 = 0 → Runs .pcieLinkUp s fun t =>
      t.pwr = { s.pwr with linkUp := true } ∧ t.fld regClkRef 0 1 = 1 ∧ t.mem = s.mem) ∧
    (s.pwr.perstN = false ∨ s.domState 280 ≠ 0 → exec .pcieLinkUp s = .next s) ∧
    (s.pwr.phase = .up → s.pwr.perstN = true → Runs .perstAssert s fun t => t.load.img = none ∧ t.hif.ctxs = [] ∧ t.hif.objs = [] ∧ t.tiles = [] ∧ t.mem.hbm = [] ∧
      t.eng = State.reset.eng ∧ flash t ∧ t.load.running = none ∧ t.pwr.perstN = false ∧ t.pwr.linkUp = false ∧ t.pwr.phase = .up ∧ t.fld regIdentLoadStatus 2 1 = 1 ∧
      t.reg regIdentHeartbeat = s.reg regIdentHeartbeat ∧ (nothing → t.log = s.log ∧ ∀ i < 0x61, t.reg (regDetCounter i) = s.reg (regDetCounter i))) ∧
    (s.pwr.phase = .offEntry → s.pwr.latch = some 2 →
      (s.pwr.resetN = false → Runs .perstAssert s fun t => lost t ∧ t.pwr.phase = .held ∧ t.pwr.perstN = false) ∧
      (s.pwr.resetN = true → Runs .perstAssert s fun t => booted t ∧ t.pwr.perstN = false)) ∧
    (s.pwr.phase = .up → s.pwr.perstN = false → s.fld regIdentLoadStatus 2 1 = 1 → Runs .perstRelease s fun t => t.pwr.perstN = true ∧ flash t ∧
      t.fld regIdentLoadStatus 2 1 = 0 ∧ t.fld regIdentLoadStatus 20 4 = 0) ∧
    (s.pwr.phase ≠ .up ∨ s.entering = true → exec .hotReset s = .next s ∧ exec .flr s = .next s) ∧
    (s.pwr.phase = .up → s.entering = false → s.load.img.isSome →
      (Runs .hotReset s fun t => t.hif.ctxs = [] ∧ t.hif.objs = [] ∧ t.pwr.linkUp = false ∧ t.trust.ide = Ide.noKeys ∧ t.load = s.load ∧
        t.fld regPwrPrstStatus 0 1 = 0 ∧ (nothing → t.log = s.log)) ∧
      (Runs .flr s fun t => t.hif.ctxs = [] ∧ t.hif.objs = [] ∧ t.pwr.linkUp = s.pwr.linkUp ∧ t.trust.ide = s.trust.ide ∧ t.load = s.load ∧
        t.fld regPwrPrstStatus 0 1 = 0)) ∧
    (s.pwr.phase = .up → s.load.img.isSome → s.fld regPwrCfg 0 1 = 1 → (∀ d < 282, s.voted d = false ∧ s.pinned d = false ∧ s.domState d = 0 ∧ s.mayDeep d = true) →
      Runs .offEntry s fun t => t.pwr.phase = .offEntry ∧ (∀ d < 282, t.domState d = 4) ∧ t.mem = s.mem) ∧
    (s.pwr.phase = .up → s.fld regPwrCfg 0 1 = 0 → exec .offEntry s = .next s) ∧
    (s.pwr.phase = .offEntry → (∀ d < 282, s.domState d = 3 ∨ s.domState d = 6) → s.pwr.latch = none → Runs .offEntry s fun t => lost t ∧ t.pwr.phase = .off) ∧
    (s.pwr.phase = .offEntry → s.pwr.latch = none → exec .wakePin s = .next { s with pwr := { s.pwr with latch := some 1 } }) ∧
    (s.pwr.phase = .off → Runs .wakePin s fun t => booted t ∧ t.reg regPwrLastWake = 1) ∧
    (∀ tj : Nat, s.pwr.phase = .up → s.load.running = none → Runs (.identHeartbeat tj) s fun t =>
      (t.reg regIdentHeartbeat).toNat = min (s.ms + 1) (2 ^ 64 - 1) ∧ t.fld regIdentStatus 3 8 = min tj 255 ∧ t.mem = s.mem ∧
      t.hif.objs = s.hif.objs ∧
      (Tbl.rising s.hif.ctxs = true → ∀ c r', t.ctx c = some r' → ∃ r, s.ctx c = some r ∧ r' = { r with order := r'.order }) ∧
      ∀ n slot g, Tbl.rising (s.tile n).groups = true → Tbl.find (s.tile n).groups slot = some g → Tbl.getD (t.tile n).timers slot 0 =
        Tbl.getD (s.tile n).timers slot 0 + if s.timerPaused n (s.tile n) slot then 0 else 1)

/-! ## Detectors and the monitor (16) -/

/-- R429 to R431, R434, R435: CLEAR_ALL clears every counter and changes nothing else of the module; a read of the error log shows a retained record's bytes, newest by its number, with VALID, and none else, nor one that is not complete;
an injector is armed only by an image that injects and for a point and unit that exist, and disarmed by DISARM. A host write that does not reach the module does none of it.

The number of a record is the reading of log 37. -/
def Obligations.DetectorsAndInjectors : Prop :=
  ∀ s : State, s.load.img.isSome →
    (s.hostUp = false → ∀ v j, j < 16 → ∀ cmd ∈ [Instr.clearAll, .detLogSelWrite v, .injCtrlArm j v, .injCtrlDisarm j v],
      exec cmd s = .next (s.hostRefused false)) ∧
    (s.hostUp = true → s.armed = [] →
      (Runs .clearAll s fun t => (∀ i < 0x61, t.reg (regDetCounter i) = 0) ∧ (∀ o, o < regDetCounter 0 ∨ regDetCounter 0x61 ≤ o → t.reg o = s.reg o) ∧
        t = { s with regs := { s.regs with vals := t.regs.vals } }) ∧
      (∀ v : BitVec 64, Runs (.detLogSelWrite v) s fun t => t.reg regDetLogSel = v ∧ t.fld regDetLogStat 0 1 = 1 ∧ t.log = s.log)) ∧
    (s.fld regDetLogStat 0 1 = 1 →
      let n := (s.reg regDetLogSel).toNat
      let total := (s.reg regDetLogTotal).toNat
      (∀ r, 1 ≤ n → n ≤ total → s.log.recs[total - n]? = some r → r.ok = true → Runs .detLogReadDone s fun t => t.reg regDetLogStat = 2 ∧
        (∀ k < 8, t.reg (regDetLogRec k) = BitVec.ofNat 64 (leVal ((r.bytes.drop (8 * k)).take 8))) ∧ t.log = s.log) ∧
      (∀ r, 1 ≤ n → n ≤ total → s.log.recs[total - n]? = some r → r.ok = false → Runs .detLogReadDone s fun t => t.fld regDetLogStat 1 1 = 0 ∧ t.log = s.log ∧
        t.mem = s.mem) ∧
      (n = 0 ∨ total < n → Runs .detLogReadDone s fun t => t.reg regDetLogStat = 0 ∧ t.log = s.log ∧ t.mem = s.mem)) ∧
    (∀ j < 16, s.hostUp = true →
      (s.armed = [] → s.isArmed j = false → ∀ point unit : Nat, point < 256 → unit < 65536 →
        let v : BitVec 64 := BitVec.ofNat 64 (point * 256 + unit * 65536)
        let ok := point < 0x61 ∧ (unit = 0xFFFF ∨ unit < kindUnits (detKind point))
        (s.injects = true → ok → Runs (.injCtrlArm j v) s fun t => t.isArmed j = true ∧ Tbl.find t.armed j = some 0 ∧ t.reg (regInjFired j) = 0 ∧
          t.fld (regInjCtrl j) 8 8 = point ∧ t.fld (regInjCtrl j) 16 16 = unit ∧ t.fld regInjStatus j 1 = 1) ∧
        (s.injects = true → ¬ok → exec (.injCtrlArm j v) s = .next (s.violation (regInjCtrl j) 0 false)) ∧
        (s.injects = false → Runs (.injCtrlArm j v) s fun t => t.armed = [] ∧ t.isArmed j = false)) ∧
      (s.judge detRegViolation 0 false = (false, s) → s.isArmed j = true → Runs (.injCtrlDisarm j (s.reg (regInjCtrl j) &&& 0xFFFFFF08)) s fun t => t.isArmed j = false ∧
        Tbl.find t.armed j = none ∧ ∀ k, k ≠ j → Tbl.find t.armed k = Tbl.find s.armed k))

/-- R436 to R439: while the Cairn runs, the monitor answers ID and STATUS always, any other command without an image ERR NOIMAGE, a DEBUG or INJECT command without its bit ERR
NODEBUG, a value out of range ERR RANGE, and an error on the line its name; a line is the command it spells, over-long beyond 256 characters, of wrong syntax where it
spells none, and nothing where it is blank; CNT takes a counter by its name too; a command that runs answers OK and does what its table says. No
command of it changes memory, tiles, contexts, engines, links, keys or power.

That the monitor answers while the firmware runs, and how answers are recorded, are the readings of log 38; the registers of a tile are open
(log 33). -/
def Obligations.MonitorCommands : Prop :=
  (∀ s : State, s.pwr.phase ≠ .up → s.pwr.phase ≠ .offEntry → ∀ rx, ∀ c ∈ [Instr.monId, .monStatus, .monCntAll, .monitorUnknownCommand, .monitorRxError rx],
    exec c s = .next s) ∧
  ∀ s : State, s.pwr.phase = .up ∨ s.pwr.phase = .offEntry → s.armed = [] →
    let say := fun (u : State) (lines : List (String × List Nat)) (fin : String) => { u with out := .monitor lines fin :: u.out }
    let plain := fun (k : Nat) (off : Nat) => [Instr.monBaud 9600, .monCnt (.index k), .monCntAll, .monCntclr none, .monCntclr (some k), .monLog 1, .monMarks]
      ++ [Instr.monTileRd off 1, .monTileWr off 0, .monMarkclr none, .monInjOff none, .monInjList, .monInjArm 0 0 0 false 0 0 0]
    let need := fun (img : Img → Bool) => s.load.img.any img = true
    exec (.monitorRxError .long) s = .next (say (s.det detMonRxErr) [] "ERR LONG") ∧ exec (.monitorRxError .framing) s = .next (say (s.det detMonRxErr) [] "ERR FRAMING") ∧
    (∀ text,
      (256 < text.length → exec (.monitorRxError (.line text)) s = .next (say (s.det detMonRxErr) [] "ERR LONG")) ∧
      (text.length ≤ 256 → monWords text = [] → exec (.monitorRxError (.line text)) s = .next s) ∧
      (text.length ≤ 256 → monWords text ≠ [] → monParse (monWords text) = none → exec (.monitorRxError (.line text)) s = .next (say s [] "ERR SYNTAX")) ∧
      (∀ c, text.length ≤ 256 → monParse (monWords text) = some c → exec (.monitorRxError (.line text)) s = .next (s.monRun c))) ∧
    exec .monitorUnknownCommand s = .next (say s [] "ERR SYNTAX") ∧
    (Runs .monId s fun t => ∃ l, t = say s l "OK" ∧ ("SERIAL", [(s.reg regIdentSerial).toNat]) ∈ l) ∧
    (Runs .monStatus s fun t => ∃ l, t = say s l "OK" ∧ ("HEARTBEAT", [(s.reg regIdentHeartbeat).toNat]) ∈ l) ∧
    (s.load.img = none → ∀ k off, ∀ c ∈ plain k off, exec c s = .next (say s [] "ERR NOIMAGE")) ∧
    (s.load.img.isSome → need (fun i => i.debug) = false → ∀ off, ∀ c ∈ [Instr.monTileRd off 1, .monTileWr off 0, .monMarkclr none], exec c s = .next (say s [] "ERR NODEBUG")) ∧
    (s.load.img.isSome → need (fun i => i.inject) = false → ∀ c ∈ [Instr.monInjOff none, .monInjList, .monInjArm 0 0 0 false 0 0 0],
      exec c s = .next (say s [] "ERR NODEBUG")) ∧
    (s.load.img.isSome →
      (∀ r, r ∈ [9600, 19200, 57600, 115200, 230400, 460800, 921600] → exec (.monBaud r) s = .next { say s [] "OK" with baud := r }) ∧
      (∀ r, r ∉ [9600, 19200, 57600, 115200, 230400, 460800, 921600] → exec (.monBaud r) s = .next (say s [] "ERR RANGE")) ∧
      (∀ i < 0x61, exec (.monCnt (.index i)) s = .next (say s [("CNT", [(s.reg (regDetCounter i)).toNat])] "OK") ∧
        ∀ text, text.map upChar = (detNames.getD i "").toList → exec (.monCnt (.name text)) s = exec (.monCnt (.index i)) s) ∧
      (∀ i, 0x61 ≤ i → exec (.monCnt (.index i)) s = .next (say s [] "ERR RANGE")) ∧
      (∀ text, (∀ i < 0x61, text.map upChar ≠ (detNames.getD i "").toList) → exec (.monCnt (.name text)) s = .next (say s [] "ERR SYNTAX")) ∧
      (Runs .monCntAll s fun t => ∃ l, t = say s l "OK" ∧ ∀ i < 0x61, s.reg (regDetCounter i) ≠ 0 ↔ ("CNT", [i, (s.reg (regDetCounter i)).toNat]) ∈ l) ∧
      (∀ i < 0x61, exec (.monCntclr (some i)) s = .next (say (s.setReg (regDetCounter i) 0) [] "OK")) ∧
      (Runs (.monCntclr none) s fun t => (∀ i < 0x61, t.reg (regDetCounter i) = 0) ∧ t.out = .monitor [] "OK" :: s.out) ∧
      (∀ n, 1 ≤ n → n ≤ 1024 → exec (.monLog n) s = .next (say s ((s.log.recs.take n).map LogRec.line) "OK")) ∧
      exec .monMarks s = .next (say s [("MARKS", s.log.marks)] "OK") ∧
      (need (fun i => i.debug) = true →
        (∀ off n, 1 ≤ n → n ≤ 64 → off % 8 = 0 → off + 8 * n ≤ 0x2000000 → Runs (.monTileRd off n) s fun t => (∃ l, l.length = n ∧
          t.out = .monitor [("TILE", l)] "OK" :: s.out) ∧ t.regs = s.regs ∧ t.tiles = s.tiles) ∧
        (∀ off v, off % 8 = 0 → off + 8 ≤ 0x2000000 → exec (.monTileWr off v) s = .next (say s [] "OK")) ∧
        (∀ off v, off % 8 ≠ 0 → Runs (.monTileWr off v) s fun t => t.out = .monitor [] "ERR RANGE" :: s.out ∧ t.fld regDetRegLast 28 1 = 1) ∧
        (∀ n < 512, Runs (.monMarkclr (some n)) s fun t => t.log.marks = s.log.marks.filter (fun m => m ≠ n) ∧ t.log.recs = s.log.recs ∧
          t.out = .monitor [] "OK" :: s.out) ∧
        (Runs (.monMarkclr none) s fun t => t.log.marks = [] ∧ t.out = .monitor [] "OK" :: s.out)) ∧
      (need (fun i => i.inject) = true →
        (∀ j point unit periodic skip period, j < 16 → s.isArmed j = false → point < 0x61 → unit < kindUnits (detKind point) → skip < 2 ^ 32 → 0 < period → period < 2 ^ 32 →
          Runs (.monInjArm j point unit periodic skip period 0) s fun t => t.isArmed j = true ∧ t.fld (regInjCtrl j) 8 8 = point ∧
            t.fld (regInjCtrl j) 16 16 = unit ∧ t.out = .monitor [] "OK" :: s.out) ∧
        (∀ j < 16, Runs (.monInjOff (some j)) s fun t => t.isArmed j = false ∧ t.out = .monitor [] "OK" :: s.out) ∧
        (Runs (.monInjOff none) s fun t => (∀ j < 16, t.isArmed j = false) ∧ t.out = .monitor [] "OK" :: s.out) ∧
        (Runs .monInjList s fun t => ∃ l, t = say s l "OK" ∧ l.length = ((List.range 16).filter fun j => s.isArmed j).length))) ∧
    (∀ c t, (c ∈ [Instr.monId, .monStatus, .monCntAll, .monMarks, .monInjList, .monInjOff none, .monMarkclr none, .monCntclr none, .monitorUnknownCommand] ∨
        (∃ (a b d f g h : Nat) (e : Bool) (v : BitVec 64) (x : CntSel) (rx : MonRx), c ∈ [Instr.monBaud a, .monCnt x, .monLog a, .monCntclr (some a),
          .monTileRd a b, .monTileWr a v, .monMarkclr (some a), .monInjOff (some a), .monInjArm a b d e f g h, .monitorRxError rx])) → exec c s = .next t →
      t.mem = s.mem ∧ t.tiles = s.tiles ∧ t.hif = s.hif ∧ t.eng = s.eng ∧ t.ridge = s.ridge ∧ t.eth = s.eth ∧ t.trust = s.trust ∧ t.pwr = s.pwr ∧ t.load = s.load)
end
end

