-- ==== Sys2Proof/Laws/Tbl.lean ====
section
/-!
SUPPORT. Laws of sparse tables and memories: what a read finds after a write, and that every operation keeps the canonical form.
-/
namespace Sys2Proof.Machine

@[simp] theorem Tbl.find_put_self {α : Type} (t : Tbl α) (k : Nat) (v : α) : Tbl.find (Tbl.put t k v) k = some v := by
  induction t with
  | nil => simp [Tbl.put, Tbl.find]
  | cons e t ih =>
    obtain ⟨k', v'⟩ := e
    simp only [Tbl.put]
    split
    · simp [Tbl.find]
    · split
      · simp [Tbl.find]
      · next h => simp [Tbl.find, h, ih]

theorem Tbl.find_put_ne {α : Type} (t : Tbl α) {k j : Nat} (v : α) (h : j ≠ k) : Tbl.find (Tbl.put t k v) j = Tbl.find t j := by
  induction t with
  | nil => simp [Tbl.put, Tbl.find, h]
  | cons e t ih =>
    obtain ⟨k', v'⟩ := e
    simp only [Tbl.put]
    split
    · simp [Tbl.find, h]
    · split
      · next hk => subst hk; simp [Tbl.find, h]
      · simp [Tbl.find, ih]

@[simp] theorem Tbl.find_del_self {α : Type} (t : Tbl α) (k : Nat) : Tbl.find (Tbl.del t k) k = none := by
  induction t with
  | nil => rfl
  | cons e t ih =>
    obtain ⟨k', v'⟩ := e
    simp only [Tbl.del]
    split
    · exact ih
    · next h => simp [Tbl.find, h, ih]

theorem Tbl.find_del_ne {α : Type} (t : Tbl α) {k j : Nat} (h : j ≠ k) : Tbl.find (Tbl.del t k) j = Tbl.find t j := by
  induction t with
  | nil => rfl
  | cons e t ih =>
    obtain ⟨k', v'⟩ := e
    simp only [Tbl.del]
    split
    · next hk => subst hk; simp [Tbl.find, h, ih]
    · simp [Tbl.find, ih]

/-- A read after a write: the value written at its key, what stood before elsewhere. -/
theorem Tbl.getD_set {α : Type} [DecidableEq α] (d : α) (t : Tbl α) (k j : Nat) (v : α) :
    Tbl.getD (Tbl.set d t k v) j d = if j = k then v else Tbl.getD t j d := by
  unfold Tbl.getD Tbl.set
  by_cases hj : j = k
  · subst hj; split <;> simp_all
  · split <;> simp [hj, Tbl.find_del_ne, Tbl.find_put_ne]

theorem Tbl.find_set_ne {α : Type} [DecidableEq α] (d : α) (t : Tbl α) {k j : Nat} (v : α) (h : j ≠ k) :
    Tbl.find (Tbl.set d t k v) j = Tbl.find t j := by
  unfold Tbl.set
  split <;> simp [Tbl.find_del_ne, Tbl.find_put_ne, h]

theorem Tbl.risingFrom_mono {α : Type} {lo lo' : Nat} {t : Tbl α} (h : lo' ≤ lo) (ht : Tbl.risingFrom lo t = true) :
    Tbl.risingFrom lo' t = true := by
  cases t with
  | nil => rfl
  | cons e t => obtain ⟨k, v⟩ := e; simp only [Tbl.risingFrom, Bool.and_eq_true, decide_eq_true_eq] at *; exact ⟨by omega, ht.2⟩

theorem Tbl.risingFrom_put {α : Type} (t : Tbl α) (k : Nat) (v : α) :
    ∀ lo, Tbl.risingFrom lo t = true → Tbl.risingFrom (min lo k) (Tbl.put t k v) = true := by
  induction t with
  | nil => intro lo _; simp only [Tbl.put, Tbl.risingFrom, Bool.and_true, decide_eq_true_eq]; omega
  | cons e t ih =>
    obtain ⟨k', v'⟩ := e
    intro lo h
    simp only [Tbl.risingFrom, Bool.and_eq_true, decide_eq_true_eq] at h
    simp only [Tbl.put]
    split
    · next hk => simp only [Tbl.risingFrom, Bool.and_eq_true, decide_eq_true_eq]; exact ⟨by omega, by omega, h.2⟩
    · split
      · next hk => subst hk; simp only [Tbl.risingFrom, Bool.and_eq_true, decide_eq_true_eq]; exact ⟨by omega, h.2⟩
      · next h1 h2 =>
        have := ih (k' + 1) h.2
        rw [show min (k' + 1) k = k' + 1 by omega] at this
        simp only [Tbl.risingFrom, Bool.and_eq_true, decide_eq_true_eq]
        exact ⟨by omega, this⟩

theorem Tbl.risingFrom_del {α : Type} (t : Tbl α) (k : Nat) :
    ∀ lo, Tbl.risingFrom lo t = true → Tbl.risingFrom lo (Tbl.del t k) = true := by
  induction t with
  | nil => intro lo _; rfl
  | cons e t ih =>
    obtain ⟨k', v'⟩ := e
    intro lo h
    simp only [Tbl.risingFrom, Bool.and_eq_true, decide_eq_true_eq] at h
    simp only [Tbl.del]
    split
    · exact Tbl.risingFrom_mono (by omega) (ih (k' + 1) h.2)
    · simp only [Tbl.risingFrom, Bool.and_eq_true, decide_eq_true_eq]; exact ⟨h.1, ih _ h.2⟩

/-- Setting an entry keeps the keys rising. -/
theorem Tbl.rising_set {α : Type} [DecidableEq α] (d : α) {t : Tbl α} (k : Nat) (v : α) (h : Tbl.rising t = true) :
    Tbl.rising (Tbl.set d t k v) = true := by
  unfold Tbl.rising Tbl.set at *
  split
  · exact Tbl.risingFrom_del _ _ _ h
  · simpa using Tbl.risingFrom_put t k v 0 h

/-! ## Memory -/

/-- A read of one byte after a write of one byte. -/
theorem Memory.read_write (m : Memory) (a b : Nat) (v : BitVec 8) :
    Memory.read (Memory.write m a v) b = if b = a then v else Memory.read m b := Tbl.getD_set 0 m a b v

theorem Tbl.mem_put {α : Type} {t : Tbl α} {k : Nat} {v : α} {e : Nat × α} (h : e ∈ Tbl.put t k v) : e = (k, v) ∨ e ∈ t := by
  induction t with
  | nil => simp [Tbl.put] at h; exact .inl h
  | cons x t ih =>
    obtain ⟨k', v'⟩ := x
    simp only [Tbl.put] at h
    split at h
    · simpa using h
    · split at h
      · rcases List.mem_cons.1 h with h | h
        · exact .inl h
        · exact .inr (List.mem_cons_of_mem _ h)
      · rcases List.mem_cons.1 h with h | h
        · exact .inr (by simp [h])
        · exact (ih h).imp id (List.mem_cons_of_mem _)

theorem Tbl.mem_del {α : Type} {t : Tbl α} {k : Nat} {e : Nat × α} (h : e ∈ Tbl.del t k) : e ∈ t := by
  induction t with
  | nil => simp [Tbl.del] at h
  | cons x t ih =>
    obtain ⟨k', v'⟩ := x
    simp only [Tbl.del] at h
    split at h
    · exact List.mem_cons_of_mem _ (ih h)
    · rcases List.mem_cons.1 h with h | h
      · simp [h]
      · exact List.mem_cons_of_mem _ (ih h)

/-- Writing one byte keeps the canonical form. -/
theorem Memory.wf_write {m : Memory} (a : Nat) (b : BitVec 8) (h : m.wf = true) : (Memory.write m a b).wf = true := by
  unfold Memory.wf Memory.write at *
  simp only [Bool.and_eq_true, List.all_eq_true, decide_eq_true_eq] at *
  refine ⟨Tbl.rising_set 0 a b h.1, fun c hc => ?_⟩
  unfold Tbl.set at hc
  split at hc
  · exact h.2 c (Tbl.mem_del hc)
  · next hb =>
    rcases Tbl.mem_put hc with rfl | hc
    · simpa using hb
    · exact h.2 c hc

/-- Writing bytes keeps the canonical form. -/
theorem Memory.wf_writes (bs : List (BitVec 8)) : ∀ {m : Memory} (a : Nat), m.wf = true → (Memory.writes m a bs).wf = true := by
  induction bs with
  | nil => intro m a h; exact h
  | cons b bs ih => intro m a h; exact ih (a + 1) (Memory.wf_write a b h)

/-- A read after a write of several bytes: the byte written there, or what stood before. -/
theorem Memory.read_writes (bs : List (BitVec 8)) : ∀ (m : Memory) (a x : Nat),
    Memory.read (Memory.writes m a bs) x = if a ≤ x ∧ x < a + bs.length then bs.getD (x - a) 0 else Memory.read m x := by
  induction bs with
  | nil => intro m a x; simp only [Memory.writes, List.length_nil]; rw [if_neg (by omega)]
  | cons b bs ih =>
    intro m a x
    simp only [Memory.writes, ih, Memory.read_write, List.length_cons]
    by_cases h : x = a
    · subst h; rw [if_neg (by omega), if_pos rfl, if_pos (by omega)]; simp
    · by_cases h2 : a + 1 ≤ x ∧ x < a + 1 + bs.length
      · obtain ⟨k, hk⟩ : ∃ k, x - a = k + 1 := ⟨x - a - 1, by omega⟩
        have hk' : x - (a + 1) = k := by omega
        rw [if_pos h2, if_pos (by omega), hk, hk']
        simp
      · rw [if_neg h2, if_neg h, if_neg (by omega)]

end Sys2Proof.Machine
end

