-- ==== Sys2Proof/Laws/State.lean ====
section
/-!
SUPPORT. Each update of the state leaves every field it does not name as it was.
-/
namespace Sys2Proof.Machine

/-! ### setReg -/

@[simp] theorem State.setReg_pending (s : State) (off : Nat) (v : BitVec 64) : (s.setReg off v).pending = s.pending := rfl
@[simp] theorem State.setReg_fresh (s : State) (off : Nat) (v : BitVec 64) : (s.setReg off v).fresh = s.fresh := rfl
@[simp] theorem State.setReg_out (s : State) (off : Nat) (v : BitVec 64) : (s.setReg off v).out = s.out := rfl
@[simp] theorem State.setReg_mem (s : State) (off : Nat) (v : BitVec 64) : (s.setReg off v).mem = s.mem := rfl
@[simp] theorem State.setReg_tiles (s : State) (off : Nat) (v : BitVec 64) : (s.setReg off v).tiles = s.tiles := rfl
@[simp] theorem State.setReg_hif (s : State) (off : Nat) (v : BitVec 64) : (s.setReg off v).hif = s.hif := rfl
@[simp] theorem State.setReg_log (s : State) (off : Nat) (v : BitVec 64) : (s.setReg off v).log = s.log := rfl
@[simp] theorem State.setReg_armed (s : State) (off : Nat) (v : BitVec 64) : (s.setReg off v).armed = s.armed := rfl
@[simp] theorem State.setReg_upsets (s : State) (off : Nat) (v : BitVec 64) : (s.setReg off v).upsets = s.upsets := rfl
@[simp] theorem State.setReg_tagLoss (s : State) (off : Nat) (v : BitVec 64) : (s.setReg off v).tagLoss = s.tagLoss := rfl
@[simp] theorem State.setReg_worked (s : State) (off : Nat) (v : BitVec 64) : (s.setReg off v).worked = s.worked := rfl
@[simp] theorem State.setReg_load (s : State) (off : Nat) (v : BitVec 64) : (s.setReg off v).load = s.load := rfl
@[simp] theorem State.setReg_eng (s : State) (off : Nat) (v : BitVec 64) : (s.setReg off v).eng = s.eng := rfl
@[simp] theorem State.setReg_ridge (s : State) (off : Nat) (v : BitVec 64) : (s.setReg off v).ridge = s.ridge := rfl
@[simp] theorem State.setReg_eth (s : State) (off : Nat) (v : BitVec 64) : (s.setReg off v).eth = s.eth := rfl
@[simp] theorem State.setReg_trust (s : State) (off : Nat) (v : BitVec 64) : (s.setReg off v).trust = s.trust := rfl
@[simp] theorem State.setReg_pwr (s : State) (off : Nat) (v : BitVec 64) : (s.setReg off v).pwr = s.pwr := rfl
@[simp] theorem State.setReg_baud (s : State) (off : Nat) (v : BitVec 64) : (s.setReg off v).baud = s.baud := rfl

/-! ### setFld -/

@[simp] theorem State.setFld_pending (s : State) (off lo n v : Nat) : (s.setFld off lo n v).pending = s.pending := State.setReg_pending ..
@[simp] theorem State.setFld_fresh (s : State) (off lo n v : Nat) : (s.setFld off lo n v).fresh = s.fresh := State.setReg_fresh ..
@[simp] theorem State.setFld_out (s : State) (off lo n v : Nat) : (s.setFld off lo n v).out = s.out := State.setReg_out ..
@[simp] theorem State.setFld_mem (s : State) (off lo n v : Nat) : (s.setFld off lo n v).mem = s.mem := State.setReg_mem ..
@[simp] theorem State.setFld_tiles (s : State) (off lo n v : Nat) : (s.setFld off lo n v).tiles = s.tiles := State.setReg_tiles ..
@[simp] theorem State.setFld_hif (s : State) (off lo n v : Nat) : (s.setFld off lo n v).hif = s.hif := State.setReg_hif ..
@[simp] theorem State.setFld_log (s : State) (off lo n v : Nat) : (s.setFld off lo n v).log = s.log := State.setReg_log ..
@[simp] theorem State.setFld_armed (s : State) (off lo n v : Nat) : (s.setFld off lo n v).armed = s.armed := State.setReg_armed ..
@[simp] theorem State.setFld_upsets (s : State) (off lo n v : Nat) : (s.setFld off lo n v).upsets = s.upsets := State.setReg_upsets ..
@[simp] theorem State.setFld_tagLoss (s : State) (off lo n v : Nat) : (s.setFld off lo n v).tagLoss = s.tagLoss := State.setReg_tagLoss ..
@[simp] theorem State.setFld_worked (s : State) (off lo n v : Nat) : (s.setFld off lo n v).worked = s.worked := State.setReg_worked ..
@[simp] theorem State.setFld_load (s : State) (off lo n v : Nat) : (s.setFld off lo n v).load = s.load := State.setReg_load ..
@[simp] theorem State.setFld_eng (s : State) (off lo n v : Nat) : (s.setFld off lo n v).eng = s.eng := State.setReg_eng ..
@[simp] theorem State.setFld_ridge (s : State) (off lo n v : Nat) : (s.setFld off lo n v).ridge = s.ridge := State.setReg_ridge ..
@[simp] theorem State.setFld_eth (s : State) (off lo n v : Nat) : (s.setFld off lo n v).eth = s.eth := State.setReg_eth ..
@[simp] theorem State.setFld_trust (s : State) (off lo n v : Nat) : (s.setFld off lo n v).trust = s.trust := State.setReg_trust ..
@[simp] theorem State.setFld_pwr (s : State) (off lo n v : Nat) : (s.setFld off lo n v).pwr = s.pwr := State.setReg_pwr ..
@[simp] theorem State.setFld_baud (s : State) (off lo n v : Nat) : (s.setFld off lo n v).baud = s.baud := State.setReg_baud ..

/-! ### bumpFld -/

@[simp] theorem State.bumpFld_pending (s : State) (off lo n k : Nat) : (s.bumpFld off lo n k).pending = s.pending := State.setFld_pending ..
@[simp] theorem State.bumpFld_fresh (s : State) (off lo n k : Nat) : (s.bumpFld off lo n k).fresh = s.fresh := State.setFld_fresh ..
@[simp] theorem State.bumpFld_out (s : State) (off lo n k : Nat) : (s.bumpFld off lo n k).out = s.out := State.setFld_out ..
@[simp] theorem State.bumpFld_mem (s : State) (off lo n k : Nat) : (s.bumpFld off lo n k).mem = s.mem := State.setFld_mem ..
@[simp] theorem State.bumpFld_tiles (s : State) (off lo n k : Nat) : (s.bumpFld off lo n k).tiles = s.tiles := State.setFld_tiles ..
@[simp] theorem State.bumpFld_hif (s : State) (off lo n k : Nat) : (s.bumpFld off lo n k).hif = s.hif := State.setFld_hif ..
@[simp] theorem State.bumpFld_log (s : State) (off lo n k : Nat) : (s.bumpFld off lo n k).log = s.log := State.setFld_log ..
@[simp] theorem State.bumpFld_armed (s : State) (off lo n k : Nat) : (s.bumpFld off lo n k).armed = s.armed := State.setFld_armed ..
@[simp] theorem State.bumpFld_upsets (s : State) (off lo n k : Nat) : (s.bumpFld off lo n k).upsets = s.upsets := State.setFld_upsets ..
@[simp] theorem State.bumpFld_tagLoss (s : State) (off lo n k : Nat) : (s.bumpFld off lo n k).tagLoss = s.tagLoss := State.setFld_tagLoss ..
@[simp] theorem State.bumpFld_worked (s : State) (off lo n k : Nat) : (s.bumpFld off lo n k).worked = s.worked := State.setFld_worked ..
@[simp] theorem State.bumpFld_load (s : State) (off lo n k : Nat) : (s.bumpFld off lo n k).load = s.load := State.setFld_load ..
@[simp] theorem State.bumpFld_eng (s : State) (off lo n k : Nat) : (s.bumpFld off lo n k).eng = s.eng := State.setFld_eng ..
@[simp] theorem State.bumpFld_ridge (s : State) (off lo n k : Nat) : (s.bumpFld off lo n k).ridge = s.ridge := State.setFld_ridge ..
@[simp] theorem State.bumpFld_eth (s : State) (off lo n k : Nat) : (s.bumpFld off lo n k).eth = s.eth := State.setFld_eth ..
@[simp] theorem State.bumpFld_trust (s : State) (off lo n k : Nat) : (s.bumpFld off lo n k).trust = s.trust := State.setFld_trust ..
@[simp] theorem State.bumpFld_pwr (s : State) (off lo n k : Nat) : (s.bumpFld off lo n k).pwr = s.pwr := State.setFld_pwr ..
@[simp] theorem State.bumpFld_baud (s : State) (off lo n k : Nat) : (s.bumpFld off lo n k).baud = s.baud := State.setFld_baud ..

/-! ### det -/

@[simp] theorem State.det_pending (s : State) (i : Nat) : (s.det i).pending = s.pending := State.bumpFld_pending ..
@[simp] theorem State.det_fresh (s : State) (i : Nat) : (s.det i).fresh = s.fresh := State.bumpFld_fresh ..
@[simp] theorem State.det_out (s : State) (i : Nat) : (s.det i).out = s.out := State.bumpFld_out ..
@[simp] theorem State.det_mem (s : State) (i : Nat) : (s.det i).mem = s.mem := State.bumpFld_mem ..
@[simp] theorem State.det_tiles (s : State) (i : Nat) : (s.det i).tiles = s.tiles := State.bumpFld_tiles ..
@[simp] theorem State.det_hif (s : State) (i : Nat) : (s.det i).hif = s.hif := State.bumpFld_hif ..
@[simp] theorem State.det_log (s : State) (i : Nat) : (s.det i).log = s.log := State.bumpFld_log ..
@[simp] theorem State.det_armed (s : State) (i : Nat) : (s.det i).armed = s.armed := State.bumpFld_armed ..
@[simp] theorem State.det_upsets (s : State) (i : Nat) : (s.det i).upsets = s.upsets := State.bumpFld_upsets ..
@[simp] theorem State.det_tagLoss (s : State) (i : Nat) : (s.det i).tagLoss = s.tagLoss := State.bumpFld_tagLoss ..
@[simp] theorem State.det_worked (s : State) (i : Nat) : (s.det i).worked = s.worked := State.bumpFld_worked ..
@[simp] theorem State.det_load (s : State) (i : Nat) : (s.det i).load = s.load := State.bumpFld_load ..
@[simp] theorem State.det_eng (s : State) (i : Nat) : (s.det i).eng = s.eng := State.bumpFld_eng ..
@[simp] theorem State.det_ridge (s : State) (i : Nat) : (s.det i).ridge = s.ridge := State.bumpFld_ridge ..
@[simp] theorem State.det_eth (s : State) (i : Nat) : (s.det i).eth = s.eth := State.bumpFld_eth ..
@[simp] theorem State.det_trust (s : State) (i : Nat) : (s.det i).trust = s.trust := State.bumpFld_trust ..
@[simp] theorem State.det_pwr (s : State) (i : Nat) : (s.det i).pwr = s.pwr := State.bumpFld_pwr ..
@[simp] theorem State.det_baud (s : State) (i : Nat) : (s.det i).baud = s.baud := State.bumpFld_baud ..

/-! ### emit -/

@[simp] theorem State.emit_pending (s : State) (o : Output) : (s.emit o).pending = s.pending := rfl
@[simp] theorem State.emit_fresh (s : State) (o : Output) : (s.emit o).fresh = s.fresh := rfl
@[simp] theorem State.emit_regs (s : State) (o : Output) : (s.emit o).regs = s.regs := rfl
@[simp] theorem State.emit_mem (s : State) (o : Output) : (s.emit o).mem = s.mem := rfl
@[simp] theorem State.emit_tiles (s : State) (o : Output) : (s.emit o).tiles = s.tiles := rfl
@[simp] theorem State.emit_hif (s : State) (o : Output) : (s.emit o).hif = s.hif := rfl
@[simp] theorem State.emit_log (s : State) (o : Output) : (s.emit o).log = s.log := rfl
@[simp] theorem State.emit_armed (s : State) (o : Output) : (s.emit o).armed = s.armed := rfl
@[simp] theorem State.emit_upsets (s : State) (o : Output) : (s.emit o).upsets = s.upsets := rfl
@[simp] theorem State.emit_tagLoss (s : State) (o : Output) : (s.emit o).tagLoss = s.tagLoss := rfl
@[simp] theorem State.emit_worked (s : State) (o : Output) : (s.emit o).worked = s.worked := rfl
@[simp] theorem State.emit_load (s : State) (o : Output) : (s.emit o).load = s.load := rfl
@[simp] theorem State.emit_eng (s : State) (o : Output) : (s.emit o).eng = s.eng := rfl
@[simp] theorem State.emit_ridge (s : State) (o : Output) : (s.emit o).ridge = s.ridge := rfl
@[simp] theorem State.emit_eth (s : State) (o : Output) : (s.emit o).eth = s.eth := rfl
@[simp] theorem State.emit_trust (s : State) (o : Output) : (s.emit o).trust = s.trust := rfl
@[simp] theorem State.emit_pwr (s : State) (o : Output) : (s.emit o).pwr = s.pwr := rfl
@[simp] theorem State.emit_baud (s : State) (o : Output) : (s.emit o).baud = s.baud := rfl

/-! ### setTile -/

@[simp] theorem State.setTile_pending (s : State) (t : Nat) (v : Tile) : (s.setTile t v).pending = s.pending := rfl
@[simp] theorem State.setTile_fresh (s : State) (t : Nat) (v : Tile) : (s.setTile t v).fresh = s.fresh := rfl
@[simp] theorem State.setTile_out (s : State) (t : Nat) (v : Tile) : (s.setTile t v).out = s.out := rfl
@[simp] theorem State.setTile_regs (s : State) (t : Nat) (v : Tile) : (s.setTile t v).regs = s.regs := rfl
@[simp] theorem State.setTile_mem (s : State) (t : Nat) (v : Tile) : (s.setTile t v).mem = s.mem := rfl
@[simp] theorem State.setTile_hif (s : State) (t : Nat) (v : Tile) : (s.setTile t v).hif = s.hif := rfl
@[simp] theorem State.setTile_log (s : State) (t : Nat) (v : Tile) : (s.setTile t v).log = s.log := rfl
@[simp] theorem State.setTile_armed (s : State) (t : Nat) (v : Tile) : (s.setTile t v).armed = s.armed := rfl
@[simp] theorem State.setTile_upsets (s : State) (t : Nat) (v : Tile) : (s.setTile t v).upsets = s.upsets := rfl
@[simp] theorem State.setTile_tagLoss (s : State) (t : Nat) (v : Tile) : (s.setTile t v).tagLoss = s.tagLoss := rfl
@[simp] theorem State.setTile_worked (s : State) (t : Nat) (v : Tile) : (s.setTile t v).worked = s.worked := rfl
@[simp] theorem State.setTile_load (s : State) (t : Nat) (v : Tile) : (s.setTile t v).load = s.load := rfl
@[simp] theorem State.setTile_eng (s : State) (t : Nat) (v : Tile) : (s.setTile t v).eng = s.eng := rfl
@[simp] theorem State.setTile_ridge (s : State) (t : Nat) (v : Tile) : (s.setTile t v).ridge = s.ridge := rfl
@[simp] theorem State.setTile_eth (s : State) (t : Nat) (v : Tile) : (s.setTile t v).eth = s.eth := rfl
@[simp] theorem State.setTile_trust (s : State) (t : Nat) (v : Tile) : (s.setTile t v).trust = s.trust := rfl
@[simp] theorem State.setTile_pwr (s : State) (t : Nat) (v : Tile) : (s.setTile t v).pwr = s.pwr := rfl
@[simp] theorem State.setTile_baud (s : State) (t : Nat) (v : Tile) : (s.setTile t v).baud = s.baud := rfl

/-! ### putGroup -/

@[simp] theorem State.putGroup_pending (s : State) (g : GRef) (v : Group) : (s.putGroup g v).pending = s.pending := State.setTile_pending ..
@[simp] theorem State.putGroup_fresh (s : State) (g : GRef) (v : Group) : (s.putGroup g v).fresh = s.fresh := State.setTile_fresh ..
@[simp] theorem State.putGroup_out (s : State) (g : GRef) (v : Group) : (s.putGroup g v).out = s.out := State.setTile_out ..
@[simp] theorem State.putGroup_regs (s : State) (g : GRef) (v : Group) : (s.putGroup g v).regs = s.regs := State.setTile_regs ..
@[simp] theorem State.putGroup_mem (s : State) (g : GRef) (v : Group) : (s.putGroup g v).mem = s.mem := State.setTile_mem ..
@[simp] theorem State.putGroup_hif (s : State) (g : GRef) (v : Group) : (s.putGroup g v).hif = s.hif := State.setTile_hif ..
@[simp] theorem State.putGroup_log (s : State) (g : GRef) (v : Group) : (s.putGroup g v).log = s.log := State.setTile_log ..
@[simp] theorem State.putGroup_armed (s : State) (g : GRef) (v : Group) : (s.putGroup g v).armed = s.armed := State.setTile_armed ..
@[simp] theorem State.putGroup_upsets (s : State) (g : GRef) (v : Group) : (s.putGroup g v).upsets = s.upsets := State.setTile_upsets ..
@[simp] theorem State.putGroup_tagLoss (s : State) (g : GRef) (v : Group) : (s.putGroup g v).tagLoss = s.tagLoss := State.setTile_tagLoss ..
@[simp] theorem State.putGroup_worked (s : State) (g : GRef) (v : Group) : (s.putGroup g v).worked = s.worked := State.setTile_worked ..
@[simp] theorem State.putGroup_load (s : State) (g : GRef) (v : Group) : (s.putGroup g v).load = s.load := State.setTile_load ..
@[simp] theorem State.putGroup_eng (s : State) (g : GRef) (v : Group) : (s.putGroup g v).eng = s.eng := State.setTile_eng ..
@[simp] theorem State.putGroup_ridge (s : State) (g : GRef) (v : Group) : (s.putGroup g v).ridge = s.ridge := State.setTile_ridge ..
@[simp] theorem State.putGroup_eth (s : State) (g : GRef) (v : Group) : (s.putGroup g v).eth = s.eth := State.setTile_eth ..
@[simp] theorem State.putGroup_trust (s : State) (g : GRef) (v : Group) : (s.putGroup g v).trust = s.trust := State.setTile_trust ..
@[simp] theorem State.putGroup_pwr (s : State) (g : GRef) (v : Group) : (s.putGroup g v).pwr = s.pwr := State.setTile_pwr ..
@[simp] theorem State.putGroup_baud (s : State) (g : GRef) (v : Group) : (s.putGroup g v).baud = s.baud := State.setTile_baud ..

/-! ### issued -/

@[simp] theorem State.issued_pending (s : State) (g : GRef) (pc : Nat) (rs : List (Nat × Bool)) : (s.issued g pc rs).pending = s.pending := rfl
@[simp] theorem State.issued_fresh (s : State) (g : GRef) (pc : Nat) (rs : List (Nat × Bool)) : (s.issued g pc rs).fresh = s.fresh := rfl
@[simp] theorem State.issued_out (s : State) (g : GRef) (pc : Nat) (rs : List (Nat × Bool)) : (s.issued g pc rs).out = s.out := rfl
@[simp] theorem State.issued_regs (s : State) (g : GRef) (pc : Nat) (rs : List (Nat × Bool)) : (s.issued g pc rs).regs = s.regs := rfl
@[simp] theorem State.issued_mem (s : State) (g : GRef) (pc : Nat) (rs : List (Nat × Bool)) : (s.issued g pc rs).mem = s.mem := rfl
@[simp] theorem State.issued_hif (s : State) (g : GRef) (pc : Nat) (rs : List (Nat × Bool)) : (s.issued g pc rs).hif = s.hif := rfl
@[simp] theorem State.issued_log (s : State) (g : GRef) (pc : Nat) (rs : List (Nat × Bool)) : (s.issued g pc rs).log = s.log := rfl
@[simp] theorem State.issued_armed (s : State) (g : GRef) (pc : Nat) (rs : List (Nat × Bool)) : (s.issued g pc rs).armed = s.armed := rfl
@[simp] theorem State.issued_upsets (s : State) (g : GRef) (pc : Nat) (rs : List (Nat × Bool)) : (s.issued g pc rs).upsets = s.upsets := rfl
@[simp] theorem State.issued_tagLoss (s : State) (g : GRef) (pc : Nat) (rs : List (Nat × Bool)) : (s.issued g pc rs).tagLoss = s.tagLoss := rfl
@[simp] theorem State.issued_load (s : State) (g : GRef) (pc : Nat) (rs : List (Nat × Bool)) : (s.issued g pc rs).load = s.load := rfl
@[simp] theorem State.issued_eng (s : State) (g : GRef) (pc : Nat) (rs : List (Nat × Bool)) : (s.issued g pc rs).eng = s.eng := rfl
@[simp] theorem State.issued_ridge (s : State) (g : GRef) (pc : Nat) (rs : List (Nat × Bool)) : (s.issued g pc rs).ridge = s.ridge := rfl
@[simp] theorem State.issued_eth (s : State) (g : GRef) (pc : Nat) (rs : List (Nat × Bool)) : (s.issued g pc rs).eth = s.eth := rfl
@[simp] theorem State.issued_trust (s : State) (g : GRef) (pc : Nat) (rs : List (Nat × Bool)) : (s.issued g pc rs).trust = s.trust := rfl
@[simp] theorem State.issued_pwr (s : State) (g : GRef) (pc : Nat) (rs : List (Nat × Bool)) : (s.issued g pc rs).pwr = s.pwr := rfl
@[simp] theorem State.issued_baud (s : State) (g : GRef) (pc : Nat) (rs : List (Nat × Bool)) : (s.issued g pc rs).baud = s.baud := rfl

/-! ### illegal -/

@[simp] theorem State.illegal_pending (s : State) (g : GRef) (gr : Group) : (s.illegal g gr).pending = s.pending := by unfold State.illegal; rw [State.det_pending, State.putGroup_pending]
@[simp] theorem State.illegal_fresh (s : State) (g : GRef) (gr : Group) : (s.illegal g gr).fresh = s.fresh := by unfold State.illegal; rw [State.det_fresh, State.putGroup_fresh]
@[simp] theorem State.illegal_out (s : State) (g : GRef) (gr : Group) : (s.illegal g gr).out = s.out := by unfold State.illegal; rw [State.det_out, State.putGroup_out]
@[simp] theorem State.illegal_mem (s : State) (g : GRef) (gr : Group) : (s.illegal g gr).mem = s.mem := by unfold State.illegal; rw [State.det_mem, State.putGroup_mem]
@[simp] theorem State.illegal_hif (s : State) (g : GRef) (gr : Group) : (s.illegal g gr).hif = s.hif := by unfold State.illegal; rw [State.det_hif, State.putGroup_hif]
@[simp] theorem State.illegal_log (s : State) (g : GRef) (gr : Group) : (s.illegal g gr).log = s.log := by unfold State.illegal; rw [State.det_log, State.putGroup_log]
@[simp] theorem State.illegal_armed (s : State) (g : GRef) (gr : Group) : (s.illegal g gr).armed = s.armed := by unfold State.illegal; rw [State.det_armed, State.putGroup_armed]
@[simp] theorem State.illegal_upsets (s : State) (g : GRef) (gr : Group) : (s.illegal g gr).upsets = s.upsets := by unfold State.illegal; rw [State.det_upsets, State.putGroup_upsets]
@[simp] theorem State.illegal_tagLoss (s : State) (g : GRef) (gr : Group) : (s.illegal g gr).tagLoss = s.tagLoss := by unfold State.illegal; rw [State.det_tagLoss, State.putGroup_tagLoss]
@[simp] theorem State.illegal_worked (s : State) (g : GRef) (gr : Group) : (s.illegal g gr).worked = s.worked := by unfold State.illegal; rw [State.det_worked, State.putGroup_worked]
@[simp] theorem State.illegal_load (s : State) (g : GRef) (gr : Group) : (s.illegal g gr).load = s.load := by unfold State.illegal; rw [State.det_load, State.putGroup_load]
@[simp] theorem State.illegal_eng (s : State) (g : GRef) (gr : Group) : (s.illegal g gr).eng = s.eng := by unfold State.illegal; rw [State.det_eng, State.putGroup_eng]
@[simp] theorem State.illegal_ridge (s : State) (g : GRef) (gr : Group) : (s.illegal g gr).ridge = s.ridge := by unfold State.illegal; rw [State.det_ridge, State.putGroup_ridge]
@[simp] theorem State.illegal_eth (s : State) (g : GRef) (gr : Group) : (s.illegal g gr).eth = s.eth := by unfold State.illegal; rw [State.det_eth, State.putGroup_eth]
@[simp] theorem State.illegal_trust (s : State) (g : GRef) (gr : Group) : (s.illegal g gr).trust = s.trust := by unfold State.illegal; rw [State.det_trust, State.putGroup_trust]
@[simp] theorem State.illegal_pwr (s : State) (g : GRef) (gr : Group) : (s.illegal g gr).pwr = s.pwr := by unfold State.illegal; rw [State.det_pwr, State.putGroup_pwr]
@[simp] theorem State.illegal_baud (s : State) (g : GRef) (gr : Group) : (s.illegal g gr).baud = s.baud := by unfold State.illegal; rw [State.det_baud, State.putGroup_baud]

/-! ### work -/

@[simp] theorem State.work_pending (s : State) (c : Nat) : (s.work c).pending = s.pending := rfl
@[simp] theorem State.work_fresh (s : State) (c : Nat) : (s.work c).fresh = s.fresh := rfl
@[simp] theorem State.work_out (s : State) (c : Nat) : (s.work c).out = s.out := rfl
@[simp] theorem State.work_regs (s : State) (c : Nat) : (s.work c).regs = s.regs := rfl
@[simp] theorem State.work_mem (s : State) (c : Nat) : (s.work c).mem = s.mem := rfl
@[simp] theorem State.work_tiles (s : State) (c : Nat) : (s.work c).tiles = s.tiles := rfl
@[simp] theorem State.work_hif (s : State) (c : Nat) : (s.work c).hif = s.hif := rfl
@[simp] theorem State.work_log (s : State) (c : Nat) : (s.work c).log = s.log := rfl
@[simp] theorem State.work_armed (s : State) (c : Nat) : (s.work c).armed = s.armed := rfl
@[simp] theorem State.work_upsets (s : State) (c : Nat) : (s.work c).upsets = s.upsets := rfl
@[simp] theorem State.work_tagLoss (s : State) (c : Nat) : (s.work c).tagLoss = s.tagLoss := rfl
@[simp] theorem State.work_load (s : State) (c : Nat) : (s.work c).load = s.load := rfl
@[simp] theorem State.work_eng (s : State) (c : Nat) : (s.work c).eng = s.eng := rfl
@[simp] theorem State.work_ridge (s : State) (c : Nat) : (s.work c).ridge = s.ridge := rfl
@[simp] theorem State.work_eth (s : State) (c : Nat) : (s.work c).eth = s.eth := rfl
@[simp] theorem State.work_trust (s : State) (c : Nat) : (s.work c).trust = s.trust := rfl
@[simp] theorem State.work_pwr (s : State) (c : Nat) : (s.work c).pwr = s.pwr := rfl
@[simp] theorem State.work_baud (s : State) (c : Nat) : (s.work c).baud = s.baud := rfl

/-! ### setPhase -/

@[simp] theorem State.setPhase_pending (s : State) (p : ModPhase) : (s.setPhase p).pending = s.pending := rfl
@[simp] theorem State.setPhase_fresh (s : State) (p : ModPhase) : (s.setPhase p).fresh = s.fresh := rfl
@[simp] theorem State.setPhase_out (s : State) (p : ModPhase) : (s.setPhase p).out = s.out := rfl
@[simp] theorem State.setPhase_regs (s : State) (p : ModPhase) : (s.setPhase p).regs = s.regs := rfl
@[simp] theorem State.setPhase_mem (s : State) (p : ModPhase) : (s.setPhase p).mem = s.mem := rfl
@[simp] theorem State.setPhase_tiles (s : State) (p : ModPhase) : (s.setPhase p).tiles = s.tiles := rfl
@[simp] theorem State.setPhase_hif (s : State) (p : ModPhase) : (s.setPhase p).hif = s.hif := rfl
@[simp] theorem State.setPhase_log (s : State) (p : ModPhase) : (s.setPhase p).log = s.log := rfl
@[simp] theorem State.setPhase_armed (s : State) (p : ModPhase) : (s.setPhase p).armed = s.armed := rfl
@[simp] theorem State.setPhase_upsets (s : State) (p : ModPhase) : (s.setPhase p).upsets = s.upsets := rfl
@[simp] theorem State.setPhase_tagLoss (s : State) (p : ModPhase) : (s.setPhase p).tagLoss = s.tagLoss := rfl
@[simp] theorem State.setPhase_worked (s : State) (p : ModPhase) : (s.setPhase p).worked = s.worked := rfl
@[simp] theorem State.setPhase_load (s : State) (p : ModPhase) : (s.setPhase p).load = s.load := rfl
@[simp] theorem State.setPhase_eng (s : State) (p : ModPhase) : (s.setPhase p).eng = s.eng := rfl
@[simp] theorem State.setPhase_ridge (s : State) (p : ModPhase) : (s.setPhase p).ridge = s.ridge := rfl
@[simp] theorem State.setPhase_eth (s : State) (p : ModPhase) : (s.setPhase p).eth = s.eth := rfl
@[simp] theorem State.setPhase_trust (s : State) (p : ModPhase) : (s.setPhase p).trust = s.trust := rfl
@[simp] theorem State.setPhase_baud (s : State) (p : ModPhase) : (s.setPhase p).baud = s.baud := rfl

/-! ### putDom -/

@[simp] theorem State.putDom_pending (s : State) (d : Nat) (r : DomRun) : (s.putDom d r).pending = s.pending := rfl
@[simp] theorem State.putDom_fresh (s : State) (d : Nat) (r : DomRun) : (s.putDom d r).fresh = s.fresh := rfl
@[simp] theorem State.putDom_out (s : State) (d : Nat) (r : DomRun) : (s.putDom d r).out = s.out := rfl
@[simp] theorem State.putDom_regs (s : State) (d : Nat) (r : DomRun) : (s.putDom d r).regs = s.regs := rfl
@[simp] theorem State.putDom_mem (s : State) (d : Nat) (r : DomRun) : (s.putDom d r).mem = s.mem := rfl
@[simp] theorem State.putDom_tiles (s : State) (d : Nat) (r : DomRun) : (s.putDom d r).tiles = s.tiles := rfl
@[simp] theorem State.putDom_hif (s : State) (d : Nat) (r : DomRun) : (s.putDom d r).hif = s.hif := rfl
@[simp] theorem State.putDom_log (s : State) (d : Nat) (r : DomRun) : (s.putDom d r).log = s.log := rfl
@[simp] theorem State.putDom_armed (s : State) (d : Nat) (r : DomRun) : (s.putDom d r).armed = s.armed := rfl
@[simp] theorem State.putDom_upsets (s : State) (d : Nat) (r : DomRun) : (s.putDom d r).upsets = s.upsets := rfl
@[simp] theorem State.putDom_tagLoss (s : State) (d : Nat) (r : DomRun) : (s.putDom d r).tagLoss = s.tagLoss := rfl
@[simp] theorem State.putDom_worked (s : State) (d : Nat) (r : DomRun) : (s.putDom d r).worked = s.worked := rfl
@[simp] theorem State.putDom_load (s : State) (d : Nat) (r : DomRun) : (s.putDom d r).load = s.load := rfl
@[simp] theorem State.putDom_eng (s : State) (d : Nat) (r : DomRun) : (s.putDom d r).eng = s.eng := rfl
@[simp] theorem State.putDom_ridge (s : State) (d : Nat) (r : DomRun) : (s.putDom d r).ridge = s.ridge := rfl
@[simp] theorem State.putDom_eth (s : State) (d : Nat) (r : DomRun) : (s.putDom d r).eth = s.eth := rfl
@[simp] theorem State.putDom_trust (s : State) (d : Nat) (r : DomRun) : (s.putDom d r).trust = s.trust := rfl
@[simp] theorem State.putDom_baud (s : State) (d : Nat) (r : DomRun) : (s.putDom d r).baud = s.baud := rfl

/-! ### putCtx -/

@[simp] theorem State.putCtx_pending (s : State) (c : Nat) (v : CtxRun) : (s.putCtx c v).pending = s.pending := rfl
@[simp] theorem State.putCtx_fresh (s : State) (c : Nat) (v : CtxRun) : (s.putCtx c v).fresh = s.fresh := rfl
@[simp] theorem State.putCtx_out (s : State) (c : Nat) (v : CtxRun) : (s.putCtx c v).out = s.out := rfl
@[simp] theorem State.putCtx_regs (s : State) (c : Nat) (v : CtxRun) : (s.putCtx c v).regs = s.regs := rfl
@[simp] theorem State.putCtx_mem (s : State) (c : Nat) (v : CtxRun) : (s.putCtx c v).mem = s.mem := rfl
@[simp] theorem State.putCtx_tiles (s : State) (c : Nat) (v : CtxRun) : (s.putCtx c v).tiles = s.tiles := rfl
@[simp] theorem State.putCtx_log (s : State) (c : Nat) (v : CtxRun) : (s.putCtx c v).log = s.log := rfl
@[simp] theorem State.putCtx_armed (s : State) (c : Nat) (v : CtxRun) : (s.putCtx c v).armed = s.armed := rfl
@[simp] theorem State.putCtx_upsets (s : State) (c : Nat) (v : CtxRun) : (s.putCtx c v).upsets = s.upsets := rfl
@[simp] theorem State.putCtx_tagLoss (s : State) (c : Nat) (v : CtxRun) : (s.putCtx c v).tagLoss = s.tagLoss := rfl
@[simp] theorem State.putCtx_worked (s : State) (c : Nat) (v : CtxRun) : (s.putCtx c v).worked = s.worked := rfl
@[simp] theorem State.putCtx_load (s : State) (c : Nat) (v : CtxRun) : (s.putCtx c v).load = s.load := rfl
@[simp] theorem State.putCtx_eng (s : State) (c : Nat) (v : CtxRun) : (s.putCtx c v).eng = s.eng := rfl
@[simp] theorem State.putCtx_ridge (s : State) (c : Nat) (v : CtxRun) : (s.putCtx c v).ridge = s.ridge := rfl
@[simp] theorem State.putCtx_eth (s : State) (c : Nat) (v : CtxRun) : (s.putCtx c v).eth = s.eth := rfl
@[simp] theorem State.putCtx_trust (s : State) (c : Nat) (v : CtxRun) : (s.putCtx c v).trust = s.trust := rfl
@[simp] theorem State.putCtx_pwr (s : State) (c : Nat) (v : CtxRun) : (s.putCtx c v).pwr = s.pwr := rfl
@[simp] theorem State.putCtx_baud (s : State) (c : Nat) (v : CtxRun) : (s.putCtx c v).baud = s.baud := rfl

/-! ### setCistern -/

@[simp] theorem State.setCistern_pending (s : State) (n : Nat) (c : Cistern) : (s.setCistern n c).pending = s.pending := rfl
@[simp] theorem State.setCistern_fresh (s : State) (n : Nat) (c : Cistern) : (s.setCistern n c).fresh = s.fresh := rfl
@[simp] theorem State.setCistern_out (s : State) (n : Nat) (c : Cistern) : (s.setCistern n c).out = s.out := rfl
@[simp] theorem State.setCistern_regs (s : State) (n : Nat) (c : Cistern) : (s.setCistern n c).regs = s.regs := rfl
@[simp] theorem State.setCistern_tiles (s : State) (n : Nat) (c : Cistern) : (s.setCistern n c).tiles = s.tiles := rfl
@[simp] theorem State.setCistern_hif (s : State) (n : Nat) (c : Cistern) : (s.setCistern n c).hif = s.hif := rfl
@[simp] theorem State.setCistern_log (s : State) (n : Nat) (c : Cistern) : (s.setCistern n c).log = s.log := rfl
@[simp] theorem State.setCistern_armed (s : State) (n : Nat) (c : Cistern) : (s.setCistern n c).armed = s.armed := rfl
@[simp] theorem State.setCistern_upsets (s : State) (n : Nat) (c : Cistern) : (s.setCistern n c).upsets = s.upsets := rfl
@[simp] theorem State.setCistern_tagLoss (s : State) (n : Nat) (c : Cistern) : (s.setCistern n c).tagLoss = s.tagLoss := rfl
@[simp] theorem State.setCistern_worked (s : State) (n : Nat) (c : Cistern) : (s.setCistern n c).worked = s.worked := rfl
@[simp] theorem State.setCistern_load (s : State) (n : Nat) (c : Cistern) : (s.setCistern n c).load = s.load := rfl
@[simp] theorem State.setCistern_eng (s : State) (n : Nat) (c : Cistern) : (s.setCistern n c).eng = s.eng := rfl
@[simp] theorem State.setCistern_ridge (s : State) (n : Nat) (c : Cistern) : (s.setCistern n c).ridge = s.ridge := rfl
@[simp] theorem State.setCistern_eth (s : State) (n : Nat) (c : Cistern) : (s.setCistern n c).eth = s.eth := rfl
@[simp] theorem State.setCistern_trust (s : State) (n : Nat) (c : Cistern) : (s.setCistern n c).trust = s.trust := rfl
@[simp] theorem State.setCistern_pwr (s : State) (n : Nat) (c : Cistern) : (s.setCistern n c).pwr = s.pwr := rfl
@[simp] theorem State.setCistern_baud (s : State) (n : Nat) (c : Cistern) : (s.setCistern n c).baud = s.baud := rfl

/-! ### setPage -/

@[simp] theorem State.setPage_pending (s : State) (ch page : Nat) (e : PageEntry) : (s.setPage ch page e).pending = s.pending := State.setCistern_pending ..
@[simp] theorem State.setPage_fresh (s : State) (ch page : Nat) (e : PageEntry) : (s.setPage ch page e).fresh = s.fresh := State.setCistern_fresh ..
@[simp] theorem State.setPage_out (s : State) (ch page : Nat) (e : PageEntry) : (s.setPage ch page e).out = s.out := State.setCistern_out ..
@[simp] theorem State.setPage_regs (s : State) (ch page : Nat) (e : PageEntry) : (s.setPage ch page e).regs = s.regs := State.setCistern_regs ..
@[simp] theorem State.setPage_tiles (s : State) (ch page : Nat) (e : PageEntry) : (s.setPage ch page e).tiles = s.tiles := State.setCistern_tiles ..
@[simp] theorem State.setPage_hif (s : State) (ch page : Nat) (e : PageEntry) : (s.setPage ch page e).hif = s.hif := State.setCistern_hif ..
@[simp] theorem State.setPage_log (s : State) (ch page : Nat) (e : PageEntry) : (s.setPage ch page e).log = s.log := State.setCistern_log ..
@[simp] theorem State.setPage_armed (s : State) (ch page : Nat) (e : PageEntry) : (s.setPage ch page e).armed = s.armed := State.setCistern_armed ..
@[simp] theorem State.setPage_upsets (s : State) (ch page : Nat) (e : PageEntry) : (s.setPage ch page e).upsets = s.upsets := State.setCistern_upsets ..
@[simp] theorem State.setPage_tagLoss (s : State) (ch page : Nat) (e : PageEntry) : (s.setPage ch page e).tagLoss = s.tagLoss := State.setCistern_tagLoss ..
@[simp] theorem State.setPage_worked (s : State) (ch page : Nat) (e : PageEntry) : (s.setPage ch page e).worked = s.worked := State.setCistern_worked ..
@[simp] theorem State.setPage_load (s : State) (ch page : Nat) (e : PageEntry) : (s.setPage ch page e).load = s.load := State.setCistern_load ..
@[simp] theorem State.setPage_eng (s : State) (ch page : Nat) (e : PageEntry) : (s.setPage ch page e).eng = s.eng := State.setCistern_eng ..
@[simp] theorem State.setPage_ridge (s : State) (ch page : Nat) (e : PageEntry) : (s.setPage ch page e).ridge = s.ridge := State.setCistern_ridge ..
@[simp] theorem State.setPage_eth (s : State) (ch page : Nat) (e : PageEntry) : (s.setPage ch page e).eth = s.eth := State.setCistern_eth ..
@[simp] theorem State.setPage_trust (s : State) (ch page : Nat) (e : PageEntry) : (s.setPage ch page e).trust = s.trust := State.setCistern_trust ..
@[simp] theorem State.setPage_pwr (s : State) (ch page : Nat) (e : PageEntry) : (s.setPage ch page e).pwr = s.pwr := State.setCistern_pwr ..
@[simp] theorem State.setPage_baud (s : State) (ch page : Nat) (e : PageEntry) : (s.setPage ch page e).baud = s.baud := State.setCistern_baud ..

/-! ### setPort -/

@[simp] theorem State.setPort_pending (s : State) (p : Nat) (v : Port) : (s.setPort p v).pending = s.pending := rfl
@[simp] theorem State.setPort_fresh (s : State) (p : Nat) (v : Port) : (s.setPort p v).fresh = s.fresh := rfl
@[simp] theorem State.setPort_out (s : State) (p : Nat) (v : Port) : (s.setPort p v).out = s.out := rfl
@[simp] theorem State.setPort_regs (s : State) (p : Nat) (v : Port) : (s.setPort p v).regs = s.regs := rfl
@[simp] theorem State.setPort_mem (s : State) (p : Nat) (v : Port) : (s.setPort p v).mem = s.mem := rfl
@[simp] theorem State.setPort_tiles (s : State) (p : Nat) (v : Port) : (s.setPort p v).tiles = s.tiles := rfl
@[simp] theorem State.setPort_hif (s : State) (p : Nat) (v : Port) : (s.setPort p v).hif = s.hif := rfl
@[simp] theorem State.setPort_log (s : State) (p : Nat) (v : Port) : (s.setPort p v).log = s.log := rfl
@[simp] theorem State.setPort_armed (s : State) (p : Nat) (v : Port) : (s.setPort p v).armed = s.armed := rfl
@[simp] theorem State.setPort_upsets (s : State) (p : Nat) (v : Port) : (s.setPort p v).upsets = s.upsets := rfl
@[simp] theorem State.setPort_tagLoss (s : State) (p : Nat) (v : Port) : (s.setPort p v).tagLoss = s.tagLoss := rfl
@[simp] theorem State.setPort_worked (s : State) (p : Nat) (v : Port) : (s.setPort p v).worked = s.worked := rfl
@[simp] theorem State.setPort_load (s : State) (p : Nat) (v : Port) : (s.setPort p v).load = s.load := rfl
@[simp] theorem State.setPort_eng (s : State) (p : Nat) (v : Port) : (s.setPort p v).eng = s.eng := rfl
@[simp] theorem State.setPort_eth (s : State) (p : Nat) (v : Port) : (s.setPort p v).eth = s.eth := rfl
@[simp] theorem State.setPort_trust (s : State) (p : Nat) (v : Port) : (s.setPort p v).trust = s.trust := rfl
@[simp] theorem State.setPort_pwr (s : State) (p : Nat) (v : Port) : (s.setPort p v).pwr = s.pwr := rfl
@[simp] theorem State.setPort_baud (s : State) (p : Nat) (v : Port) : (s.setPort p v).baud = s.baud := rfl

/-! ### setEth -/

@[simp] theorem State.setEth_pending (s : State) (p : Nat) (v : Eth) : (s.setEth p v).pending = s.pending := rfl
@[simp] theorem State.setEth_fresh (s : State) (p : Nat) (v : Eth) : (s.setEth p v).fresh = s.fresh := rfl
@[simp] theorem State.setEth_out (s : State) (p : Nat) (v : Eth) : (s.setEth p v).out = s.out := rfl
@[simp] theorem State.setEth_regs (s : State) (p : Nat) (v : Eth) : (s.setEth p v).regs = s.regs := rfl
@[simp] theorem State.setEth_mem (s : State) (p : Nat) (v : Eth) : (s.setEth p v).mem = s.mem := rfl
@[simp] theorem State.setEth_tiles (s : State) (p : Nat) (v : Eth) : (s.setEth p v).tiles = s.tiles := rfl
@[simp] theorem State.setEth_hif (s : State) (p : Nat) (v : Eth) : (s.setEth p v).hif = s.hif := rfl
@[simp] theorem State.setEth_log (s : State) (p : Nat) (v : Eth) : (s.setEth p v).log = s.log := rfl
@[simp] theorem State.setEth_armed (s : State) (p : Nat) (v : Eth) : (s.setEth p v).armed = s.armed := rfl
@[simp] theorem State.setEth_upsets (s : State) (p : Nat) (v : Eth) : (s.setEth p v).upsets = s.upsets := rfl
@[simp] theorem State.setEth_tagLoss (s : State) (p : Nat) (v : Eth) : (s.setEth p v).tagLoss = s.tagLoss := rfl
@[simp] theorem State.setEth_worked (s : State) (p : Nat) (v : Eth) : (s.setEth p v).worked = s.worked := rfl
@[simp] theorem State.setEth_load (s : State) (p : Nat) (v : Eth) : (s.setEth p v).load = s.load := rfl
@[simp] theorem State.setEth_eng (s : State) (p : Nat) (v : Eth) : (s.setEth p v).eng = s.eng := rfl
@[simp] theorem State.setEth_ridge (s : State) (p : Nat) (v : Eth) : (s.setEth p v).ridge = s.ridge := rfl
@[simp] theorem State.setEth_trust (s : State) (p : Nat) (v : Eth) : (s.setEth p v).trust = s.trust := rfl
@[simp] theorem State.setEth_pwr (s : State) (p : Nat) (v : Eth) : (s.setEth p v).pwr = s.pwr := rfl
@[simp] theorem State.setEth_baud (s : State) (p : Nat) (v : Eth) : (s.setEth p v).baud = s.baud := rfl

/-! ### setQp -/

@[simp] theorem State.setQp_pending (s : State) (q : Nat) (v : Qp) : (s.setQp q v).pending = s.pending := rfl
@[simp] theorem State.setQp_fresh (s : State) (q : Nat) (v : Qp) : (s.setQp q v).fresh = s.fresh := rfl
@[simp] theorem State.setQp_out (s : State) (q : Nat) (v : Qp) : (s.setQp q v).out = s.out := rfl
@[simp] theorem State.setQp_regs (s : State) (q : Nat) (v : Qp) : (s.setQp q v).regs = s.regs := rfl
@[simp] theorem State.setQp_mem (s : State) (q : Nat) (v : Qp) : (s.setQp q v).mem = s.mem := rfl
@[simp] theorem State.setQp_tiles (s : State) (q : Nat) (v : Qp) : (s.setQp q v).tiles = s.tiles := rfl
@[simp] theorem State.setQp_hif (s : State) (q : Nat) (v : Qp) : (s.setQp q v).hif = s.hif := rfl
@[simp] theorem State.setQp_log (s : State) (q : Nat) (v : Qp) : (s.setQp q v).log = s.log := rfl
@[simp] theorem State.setQp_armed (s : State) (q : Nat) (v : Qp) : (s.setQp q v).armed = s.armed := rfl
@[simp] theorem State.setQp_upsets (s : State) (q : Nat) (v : Qp) : (s.setQp q v).upsets = s.upsets := rfl
@[simp] theorem State.setQp_tagLoss (s : State) (q : Nat) (v : Qp) : (s.setQp q v).tagLoss = s.tagLoss := rfl
@[simp] theorem State.setQp_worked (s : State) (q : Nat) (v : Qp) : (s.setQp q v).worked = s.worked := rfl
@[simp] theorem State.setQp_load (s : State) (q : Nat) (v : Qp) : (s.setQp q v).load = s.load := rfl
@[simp] theorem State.setQp_ridge (s : State) (q : Nat) (v : Qp) : (s.setQp q v).ridge = s.ridge := rfl
@[simp] theorem State.setQp_eth (s : State) (q : Nat) (v : Qp) : (s.setQp q v).eth = s.eth := rfl
@[simp] theorem State.setQp_trust (s : State) (q : Nat) (v : Qp) : (s.setQp q v).trust = s.trust := rfl
@[simp] theorem State.setQp_pwr (s : State) (q : Nat) (v : Qp) : (s.setQp q v).pwr = s.pwr := rfl
@[simp] theorem State.setQp_baud (s : State) (q : Nat) (v : Qp) : (s.setQp q v).baud = s.baud := rfl

/-! ### putCkpt -/

@[simp] theorem State.putCkpt_pending (s : State) (k : Ckpt) : (s.putCkpt k).pending = s.pending := rfl
@[simp] theorem State.putCkpt_fresh (s : State) (k : Ckpt) : (s.putCkpt k).fresh = s.fresh := rfl
@[simp] theorem State.putCkpt_out (s : State) (k : Ckpt) : (s.putCkpt k).out = s.out := rfl
@[simp] theorem State.putCkpt_regs (s : State) (k : Ckpt) : (s.putCkpt k).regs = s.regs := rfl
@[simp] theorem State.putCkpt_mem (s : State) (k : Ckpt) : (s.putCkpt k).mem = s.mem := rfl
@[simp] theorem State.putCkpt_tiles (s : State) (k : Ckpt) : (s.putCkpt k).tiles = s.tiles := rfl
@[simp] theorem State.putCkpt_hif (s : State) (k : Ckpt) : (s.putCkpt k).hif = s.hif := rfl
@[simp] theorem State.putCkpt_log (s : State) (k : Ckpt) : (s.putCkpt k).log = s.log := rfl
@[simp] theorem State.putCkpt_armed (s : State) (k : Ckpt) : (s.putCkpt k).armed = s.armed := rfl
@[simp] theorem State.putCkpt_upsets (s : State) (k : Ckpt) : (s.putCkpt k).upsets = s.upsets := rfl
@[simp] theorem State.putCkpt_tagLoss (s : State) (k : Ckpt) : (s.putCkpt k).tagLoss = s.tagLoss := rfl
@[simp] theorem State.putCkpt_worked (s : State) (k : Ckpt) : (s.putCkpt k).worked = s.worked := rfl
@[simp] theorem State.putCkpt_load (s : State) (k : Ckpt) : (s.putCkpt k).load = s.load := rfl
@[simp] theorem State.putCkpt_ridge (s : State) (k : Ckpt) : (s.putCkpt k).ridge = s.ridge := rfl
@[simp] theorem State.putCkpt_eth (s : State) (k : Ckpt) : (s.putCkpt k).eth = s.eth := rfl
@[simp] theorem State.putCkpt_trust (s : State) (k : Ckpt) : (s.putCkpt k).trust = s.trust := rfl
@[simp] theorem State.putCkpt_pwr (s : State) (k : Ckpt) : (s.putCkpt k).pwr = s.pwr := rfl
@[simp] theorem State.putCkpt_baud (s : State) (k : Ckpt) : (s.putCkpt k).baud = s.baud := rfl

/-! ### putColl -/

@[simp] theorem State.putColl_pending (s : State) (num : Nat) (c : Coll) : (s.putColl num c).pending = s.pending := rfl
@[simp] theorem State.putColl_fresh (s : State) (num : Nat) (c : Coll) : (s.putColl num c).fresh = s.fresh := rfl
@[simp] theorem State.putColl_out (s : State) (num : Nat) (c : Coll) : (s.putColl num c).out = s.out := rfl
@[simp] theorem State.putColl_regs (s : State) (num : Nat) (c : Coll) : (s.putColl num c).regs = s.regs := rfl
@[simp] theorem State.putColl_mem (s : State) (num : Nat) (c : Coll) : (s.putColl num c).mem = s.mem := rfl
@[simp] theorem State.putColl_tiles (s : State) (num : Nat) (c : Coll) : (s.putColl num c).tiles = s.tiles := rfl
@[simp] theorem State.putColl_hif (s : State) (num : Nat) (c : Coll) : (s.putColl num c).hif = s.hif := rfl
@[simp] theorem State.putColl_log (s : State) (num : Nat) (c : Coll) : (s.putColl num c).log = s.log := rfl
@[simp] theorem State.putColl_armed (s : State) (num : Nat) (c : Coll) : (s.putColl num c).armed = s.armed := rfl
@[simp] theorem State.putColl_upsets (s : State) (num : Nat) (c : Coll) : (s.putColl num c).upsets = s.upsets := rfl
@[simp] theorem State.putColl_tagLoss (s : State) (num : Nat) (c : Coll) : (s.putColl num c).tagLoss = s.tagLoss := rfl
@[simp] theorem State.putColl_worked (s : State) (num : Nat) (c : Coll) : (s.putColl num c).worked = s.worked := rfl
@[simp] theorem State.putColl_load (s : State) (num : Nat) (c : Coll) : (s.putColl num c).load = s.load := rfl
@[simp] theorem State.putColl_ridge (s : State) (num : Nat) (c : Coll) : (s.putColl num c).ridge = s.ridge := rfl
@[simp] theorem State.putColl_eth (s : State) (num : Nat) (c : Coll) : (s.putColl num c).eth = s.eth := rfl
@[simp] theorem State.putColl_trust (s : State) (num : Nat) (c : Coll) : (s.putColl num c).trust = s.trust := rfl
@[simp] theorem State.putColl_pwr (s : State) (num : Nat) (c : Coll) : (s.putColl num c).pwr = s.pwr := rfl
@[simp] theorem State.putColl_baud (s : State) (num : Nat) (c : Coll) : (s.putColl num c).baud = s.baud := rfl

/-! ### putSched -/

@[simp] theorem State.putSched_pending (s : State) (x : SchedRun) : (s.putSched x).pending = s.pending := rfl
@[simp] theorem State.putSched_fresh (s : State) (x : SchedRun) : (s.putSched x).fresh = s.fresh := rfl
@[simp] theorem State.putSched_out (s : State) (x : SchedRun) : (s.putSched x).out = s.out := rfl
@[simp] theorem State.putSched_regs (s : State) (x : SchedRun) : (s.putSched x).regs = s.regs := rfl
@[simp] theorem State.putSched_mem (s : State) (x : SchedRun) : (s.putSched x).mem = s.mem := rfl
@[simp] theorem State.putSched_tiles (s : State) (x : SchedRun) : (s.putSched x).tiles = s.tiles := rfl
@[simp] theorem State.putSched_hif (s : State) (x : SchedRun) : (s.putSched x).hif = s.hif := rfl
@[simp] theorem State.putSched_log (s : State) (x : SchedRun) : (s.putSched x).log = s.log := rfl
@[simp] theorem State.putSched_armed (s : State) (x : SchedRun) : (s.putSched x).armed = s.armed := rfl
@[simp] theorem State.putSched_upsets (s : State) (x : SchedRun) : (s.putSched x).upsets = s.upsets := rfl
@[simp] theorem State.putSched_tagLoss (s : State) (x : SchedRun) : (s.putSched x).tagLoss = s.tagLoss := rfl
@[simp] theorem State.putSched_worked (s : State) (x : SchedRun) : (s.putSched x).worked = s.worked := rfl
@[simp] theorem State.putSched_load (s : State) (x : SchedRun) : (s.putSched x).load = s.load := rfl
@[simp] theorem State.putSched_ridge (s : State) (x : SchedRun) : (s.putSched x).ridge = s.ridge := rfl
@[simp] theorem State.putSched_eth (s : State) (x : SchedRun) : (s.putSched x).eth = s.eth := rfl
@[simp] theorem State.putSched_trust (s : State) (x : SchedRun) : (s.putSched x).trust = s.trust := rfl
@[simp] theorem State.putSched_pwr (s : State) (x : SchedRun) : (s.putSched x).pwr = s.pwr := rfl
@[simp] theorem State.putSched_baud (s : State) (x : SchedRun) : (s.putSched x).baud = s.baud := rfl

/-! ### setStaged -/

@[simp] theorem State.setStaged_pending (s : State) (b : List (BitVec 8)) : (s.setStaged b).pending = s.pending := by unfold State.setStaged; rw [State.setReg_pending]
@[simp] theorem State.setStaged_fresh (s : State) (b : List (BitVec 8)) : (s.setStaged b).fresh = s.fresh := by unfold State.setStaged; rw [State.setReg_fresh]
@[simp] theorem State.setStaged_out (s : State) (b : List (BitVec 8)) : (s.setStaged b).out = s.out := by unfold State.setStaged; rw [State.setReg_out]
@[simp] theorem State.setStaged_mem (s : State) (b : List (BitVec 8)) : (s.setStaged b).mem = s.mem := by unfold State.setStaged; rw [State.setReg_mem]
@[simp] theorem State.setStaged_tiles (s : State) (b : List (BitVec 8)) : (s.setStaged b).tiles = s.tiles := by unfold State.setStaged; rw [State.setReg_tiles]
@[simp] theorem State.setStaged_hif (s : State) (b : List (BitVec 8)) : (s.setStaged b).hif = s.hif := by unfold State.setStaged; rw [State.setReg_hif]
@[simp] theorem State.setStaged_log (s : State) (b : List (BitVec 8)) : (s.setStaged b).log = s.log := by unfold State.setStaged; rw [State.setReg_log]
@[simp] theorem State.setStaged_armed (s : State) (b : List (BitVec 8)) : (s.setStaged b).armed = s.armed := by unfold State.setStaged; rw [State.setReg_armed]
@[simp] theorem State.setStaged_upsets (s : State) (b : List (BitVec 8)) : (s.setStaged b).upsets = s.upsets := by unfold State.setStaged; rw [State.setReg_upsets]
@[simp] theorem State.setStaged_tagLoss (s : State) (b : List (BitVec 8)) : (s.setStaged b).tagLoss = s.tagLoss := by unfold State.setStaged; rw [State.setReg_tagLoss]
@[simp] theorem State.setStaged_worked (s : State) (b : List (BitVec 8)) : (s.setStaged b).worked = s.worked := by unfold State.setStaged; rw [State.setReg_worked]
@[simp] theorem State.setStaged_eng (s : State) (b : List (BitVec 8)) : (s.setStaged b).eng = s.eng := by unfold State.setStaged; rw [State.setReg_eng]
@[simp] theorem State.setStaged_ridge (s : State) (b : List (BitVec 8)) : (s.setStaged b).ridge = s.ridge := by unfold State.setStaged; rw [State.setReg_ridge]
@[simp] theorem State.setStaged_eth (s : State) (b : List (BitVec 8)) : (s.setStaged b).eth = s.eth := by unfold State.setStaged; rw [State.setReg_eth]
@[simp] theorem State.setStaged_trust (s : State) (b : List (BitVec 8)) : (s.setStaged b).trust = s.trust := by unfold State.setStaged; rw [State.setReg_trust]
@[simp] theorem State.setStaged_pwr (s : State) (b : List (BitVec 8)) : (s.setStaged b).pwr = s.pwr := by unfold State.setStaged; rw [State.setReg_pwr]
@[simp] theorem State.setStaged_baud (s : State) (b : List (BitVec 8)) : (s.setStaged b).baud = s.baud := by unfold State.setStaged; rw [State.setReg_baud]

/-! ### setSlot -/

@[simp] theorem State.setSlot_pending (s : State) (slotB : Bool) (b : List (BitVec 8)) : (s.setSlot slotB b).pending = s.pending := rfl
@[simp] theorem State.setSlot_fresh (s : State) (slotB : Bool) (b : List (BitVec 8)) : (s.setSlot slotB b).fresh = s.fresh := rfl
@[simp] theorem State.setSlot_out (s : State) (slotB : Bool) (b : List (BitVec 8)) : (s.setSlot slotB b).out = s.out := rfl
@[simp] theorem State.setSlot_regs (s : State) (slotB : Bool) (b : List (BitVec 8)) : (s.setSlot slotB b).regs = s.regs := rfl
@[simp] theorem State.setSlot_mem (s : State) (slotB : Bool) (b : List (BitVec 8)) : (s.setSlot slotB b).mem = s.mem := rfl
@[simp] theorem State.setSlot_tiles (s : State) (slotB : Bool) (b : List (BitVec 8)) : (s.setSlot slotB b).tiles = s.tiles := rfl
@[simp] theorem State.setSlot_hif (s : State) (slotB : Bool) (b : List (BitVec 8)) : (s.setSlot slotB b).hif = s.hif := rfl
@[simp] theorem State.setSlot_log (s : State) (slotB : Bool) (b : List (BitVec 8)) : (s.setSlot slotB b).log = s.log := rfl
@[simp] theorem State.setSlot_armed (s : State) (slotB : Bool) (b : List (BitVec 8)) : (s.setSlot slotB b).armed = s.armed := rfl
@[simp] theorem State.setSlot_upsets (s : State) (slotB : Bool) (b : List (BitVec 8)) : (s.setSlot slotB b).upsets = s.upsets := rfl
@[simp] theorem State.setSlot_tagLoss (s : State) (slotB : Bool) (b : List (BitVec 8)) : (s.setSlot slotB b).tagLoss = s.tagLoss := rfl
@[simp] theorem State.setSlot_worked (s : State) (slotB : Bool) (b : List (BitVec 8)) : (s.setSlot slotB b).worked = s.worked := rfl
@[simp] theorem State.setSlot_eng (s : State) (slotB : Bool) (b : List (BitVec 8)) : (s.setSlot slotB b).eng = s.eng := rfl
@[simp] theorem State.setSlot_ridge (s : State) (slotB : Bool) (b : List (BitVec 8)) : (s.setSlot slotB b).ridge = s.ridge := rfl
@[simp] theorem State.setSlot_eth (s : State) (slotB : Bool) (b : List (BitVec 8)) : (s.setSlot slotB b).eth = s.eth := rfl
@[simp] theorem State.setSlot_trust (s : State) (slotB : Bool) (b : List (BitVec 8)) : (s.setSlot slotB b).trust = s.trust := rfl
@[simp] theorem State.setSlot_pwr (s : State) (slotB : Bool) (b : List (BitVec 8)) : (s.setSlot slotB b).pwr = s.pwr := rfl
@[simp] theorem State.setSlot_baud (s : State) (slotB : Bool) (b : List (BitVec 8)) : (s.setSlot slotB b).baud = s.baud := rfl

/-! ### setSpdm -/

@[simp] theorem State.setSpdm_pending (s : State) (v : Spdm) : (s.setSpdm v).pending = s.pending := rfl
@[simp] theorem State.setSpdm_fresh (s : State) (v : Spdm) : (s.setSpdm v).fresh = s.fresh := rfl
@[simp] theorem State.setSpdm_out (s : State) (v : Spdm) : (s.setSpdm v).out = s.out := rfl
@[simp] theorem State.setSpdm_regs (s : State) (v : Spdm) : (s.setSpdm v).regs = s.regs := rfl
@[simp] theorem State.setSpdm_mem (s : State) (v : Spdm) : (s.setSpdm v).mem = s.mem := rfl
@[simp] theorem State.setSpdm_tiles (s : State) (v : Spdm) : (s.setSpdm v).tiles = s.tiles := rfl
@[simp] theorem State.setSpdm_hif (s : State) (v : Spdm) : (s.setSpdm v).hif = s.hif := rfl
@[simp] theorem State.setSpdm_log (s : State) (v : Spdm) : (s.setSpdm v).log = s.log := rfl
@[simp] theorem State.setSpdm_armed (s : State) (v : Spdm) : (s.setSpdm v).armed = s.armed := rfl
@[simp] theorem State.setSpdm_upsets (s : State) (v : Spdm) : (s.setSpdm v).upsets = s.upsets := rfl
@[simp] theorem State.setSpdm_tagLoss (s : State) (v : Spdm) : (s.setSpdm v).tagLoss = s.tagLoss := rfl
@[simp] theorem State.setSpdm_worked (s : State) (v : Spdm) : (s.setSpdm v).worked = s.worked := rfl
@[simp] theorem State.setSpdm_load (s : State) (v : Spdm) : (s.setSpdm v).load = s.load := rfl
@[simp] theorem State.setSpdm_eng (s : State) (v : Spdm) : (s.setSpdm v).eng = s.eng := rfl
@[simp] theorem State.setSpdm_ridge (s : State) (v : Spdm) : (s.setSpdm v).ridge = s.ridge := rfl
@[simp] theorem State.setSpdm_eth (s : State) (v : Spdm) : (s.setSpdm v).eth = s.eth := rfl
@[simp] theorem State.setSpdm_pwr (s : State) (v : Spdm) : (s.setSpdm v).pwr = s.pwr := rfl
@[simp] theorem State.setSpdm_baud (s : State) (v : Spdm) : (s.setSpdm v).baud = s.baud := rfl

/-! ### setSessions -/

@[simp] theorem State.setSessions_pending (s : State) (v : Tbl Session) : (s.setSessions v).pending = s.pending := rfl
@[simp] theorem State.setSessions_fresh (s : State) (v : Tbl Session) : (s.setSessions v).fresh = s.fresh := rfl
@[simp] theorem State.setSessions_out (s : State) (v : Tbl Session) : (s.setSessions v).out = s.out := rfl
@[simp] theorem State.setSessions_regs (s : State) (v : Tbl Session) : (s.setSessions v).regs = s.regs := rfl
@[simp] theorem State.setSessions_mem (s : State) (v : Tbl Session) : (s.setSessions v).mem = s.mem := rfl
@[simp] theorem State.setSessions_tiles (s : State) (v : Tbl Session) : (s.setSessions v).tiles = s.tiles := rfl
@[simp] theorem State.setSessions_hif (s : State) (v : Tbl Session) : (s.setSessions v).hif = s.hif := rfl
@[simp] theorem State.setSessions_log (s : State) (v : Tbl Session) : (s.setSessions v).log = s.log := rfl
@[simp] theorem State.setSessions_armed (s : State) (v : Tbl Session) : (s.setSessions v).armed = s.armed := rfl
@[simp] theorem State.setSessions_upsets (s : State) (v : Tbl Session) : (s.setSessions v).upsets = s.upsets := rfl
@[simp] theorem State.setSessions_tagLoss (s : State) (v : Tbl Session) : (s.setSessions v).tagLoss = s.tagLoss := rfl
@[simp] theorem State.setSessions_worked (s : State) (v : Tbl Session) : (s.setSessions v).worked = s.worked := rfl
@[simp] theorem State.setSessions_load (s : State) (v : Tbl Session) : (s.setSessions v).load = s.load := rfl
@[simp] theorem State.setSessions_eng (s : State) (v : Tbl Session) : (s.setSessions v).eng = s.eng := rfl
@[simp] theorem State.setSessions_ridge (s : State) (v : Tbl Session) : (s.setSessions v).ridge = s.ridge := rfl
@[simp] theorem State.setSessions_eth (s : State) (v : Tbl Session) : (s.setSessions v).eth = s.eth := rfl
@[simp] theorem State.setSessions_pwr (s : State) (v : Tbl Session) : (s.setSessions v).pwr = s.pwr := rfl
@[simp] theorem State.setSessions_baud (s : State) (v : Tbl Session) : (s.setSessions v).baud = s.baud := rfl

/-! ### setIde -/

@[simp] theorem State.setIde_pending (s : State) (v : Ide) : (s.setIde v).pending = s.pending := by unfold State.setIde; rw [State.setFld_pending]
@[simp] theorem State.setIde_fresh (s : State) (v : Ide) : (s.setIde v).fresh = s.fresh := by unfold State.setIde; rw [State.setFld_fresh]
@[simp] theorem State.setIde_out (s : State) (v : Ide) : (s.setIde v).out = s.out := by unfold State.setIde; rw [State.setFld_out]
@[simp] theorem State.setIde_mem (s : State) (v : Ide) : (s.setIde v).mem = s.mem := by unfold State.setIde; rw [State.setFld_mem]
@[simp] theorem State.setIde_tiles (s : State) (v : Ide) : (s.setIde v).tiles = s.tiles := by unfold State.setIde; rw [State.setFld_tiles]
@[simp] theorem State.setIde_hif (s : State) (v : Ide) : (s.setIde v).hif = s.hif := by unfold State.setIde; rw [State.setFld_hif]
@[simp] theorem State.setIde_log (s : State) (v : Ide) : (s.setIde v).log = s.log := by unfold State.setIde; rw [State.setFld_log]
@[simp] theorem State.setIde_armed (s : State) (v : Ide) : (s.setIde v).armed = s.armed := by unfold State.setIde; rw [State.setFld_armed]
@[simp] theorem State.setIde_upsets (s : State) (v : Ide) : (s.setIde v).upsets = s.upsets := by unfold State.setIde; rw [State.setFld_upsets]
@[simp] theorem State.setIde_tagLoss (s : State) (v : Ide) : (s.setIde v).tagLoss = s.tagLoss := by unfold State.setIde; rw [State.setFld_tagLoss]
@[simp] theorem State.setIde_worked (s : State) (v : Ide) : (s.setIde v).worked = s.worked := by unfold State.setIde; rw [State.setFld_worked]
@[simp] theorem State.setIde_load (s : State) (v : Ide) : (s.setIde v).load = s.load := by unfold State.setIde; rw [State.setFld_load]
@[simp] theorem State.setIde_eng (s : State) (v : Ide) : (s.setIde v).eng = s.eng := by unfold State.setIde; rw [State.setFld_eng]
@[simp] theorem State.setIde_ridge (s : State) (v : Ide) : (s.setIde v).ridge = s.ridge := by unfold State.setIde; rw [State.setFld_ridge]
@[simp] theorem State.setIde_eth (s : State) (v : Ide) : (s.setIde v).eth = s.eth := by unfold State.setIde; rw [State.setFld_eth]
@[simp] theorem State.setIde_pwr (s : State) (v : Ide) : (s.setIde v).pwr = s.pwr := by unfold State.setIde; rw [State.setFld_pwr]
@[simp] theorem State.setIde_baud (s : State) (v : Ide) : (s.setIde v).baud = s.baud := by unfold State.setIde; rw [State.setFld_baud]

/-! ### disarm -/

@[simp] theorem State.disarm_pending (s : State) (j : Nat) : (s.disarm j).pending = s.pending := by unfold State.disarm; rw [State.setFld_pending, State.setFld_pending]
@[simp] theorem State.disarm_fresh (s : State) (j : Nat) : (s.disarm j).fresh = s.fresh := by unfold State.disarm; rw [State.setFld_fresh, State.setFld_fresh]
@[simp] theorem State.disarm_out (s : State) (j : Nat) : (s.disarm j).out = s.out := by unfold State.disarm; rw [State.setFld_out, State.setFld_out]
@[simp] theorem State.disarm_mem (s : State) (j : Nat) : (s.disarm j).mem = s.mem := by unfold State.disarm; rw [State.setFld_mem, State.setFld_mem]
@[simp] theorem State.disarm_tiles (s : State) (j : Nat) : (s.disarm j).tiles = s.tiles := by unfold State.disarm; rw [State.setFld_tiles, State.setFld_tiles]
@[simp] theorem State.disarm_hif (s : State) (j : Nat) : (s.disarm j).hif = s.hif := by unfold State.disarm; rw [State.setFld_hif, State.setFld_hif]
@[simp] theorem State.disarm_log (s : State) (j : Nat) : (s.disarm j).log = s.log := by unfold State.disarm; rw [State.setFld_log, State.setFld_log]
@[simp] theorem State.disarm_upsets (s : State) (j : Nat) : (s.disarm j).upsets = s.upsets := by unfold State.disarm; rw [State.setFld_upsets, State.setFld_upsets]
@[simp] theorem State.disarm_tagLoss (s : State) (j : Nat) : (s.disarm j).tagLoss = s.tagLoss := by unfold State.disarm; rw [State.setFld_tagLoss, State.setFld_tagLoss]
@[simp] theorem State.disarm_worked (s : State) (j : Nat) : (s.disarm j).worked = s.worked := by unfold State.disarm; rw [State.setFld_worked, State.setFld_worked]
@[simp] theorem State.disarm_load (s : State) (j : Nat) : (s.disarm j).load = s.load := by unfold State.disarm; rw [State.setFld_load, State.setFld_load]
@[simp] theorem State.disarm_eng (s : State) (j : Nat) : (s.disarm j).eng = s.eng := by unfold State.disarm; rw [State.setFld_eng, State.setFld_eng]
@[simp] theorem State.disarm_ridge (s : State) (j : Nat) : (s.disarm j).ridge = s.ridge := by unfold State.disarm; rw [State.setFld_ridge, State.setFld_ridge]
@[simp] theorem State.disarm_eth (s : State) (j : Nat) : (s.disarm j).eth = s.eth := by unfold State.disarm; rw [State.setFld_eth, State.setFld_eth]
@[simp] theorem State.disarm_trust (s : State) (j : Nat) : (s.disarm j).trust = s.trust := by unfold State.disarm; rw [State.setFld_trust, State.setFld_trust]
@[simp] theorem State.disarm_pwr (s : State) (j : Nat) : (s.disarm j).pwr = s.pwr := by unfold State.disarm; rw [State.setFld_pwr, State.setFld_pwr]
@[simp] theorem State.disarm_baud (s : State) (j : Nat) : (s.disarm j).baud = s.baud := by unfold State.disarm; rw [State.setFld_baud, State.setFld_baud]

@[simp] theorem State.emit_out (s : State) (o : Output) : (s.emit o).out = o :: s.out := rfl

@[simp] theorem State.setPhase_phase (s : State) (p : ModPhase) : (s.setPhase p).pwr.phase = p := rfl

@[simp] theorem State.setSpdm_spdm (s : State) (v : Spdm) : (s.setSpdm v).trust.spdm = v := rfl

/-! ### Registers and tables read back -/

theorem State.reg_setReg (s : State) (off o : Nat) (v : BitVec 64) : (s.setReg off v).reg o = if o = off then v else s.reg o := by
  unfold State.reg State.setReg
  by_cases h : o = off
  · subst h; simpa using Tbl.getD_set (regReset o) s.regs.vals o o v
  · have := Tbl.find_set_ne (regReset off) s.regs.vals v h
    simp [Tbl.getD, this, h]

@[simp] theorem State.reg_setReg_self (s : State) (off : Nat) (v : BitVec 64) : (s.setReg off v).reg off = v := by
  simp [State.reg_setReg]

theorem State.tile_setTile (s : State) (t u : Nat) (v : Tile) : (s.setTile t v).tile u = if u = t then v else s.tile u :=
  Tbl.getD_set Tile.empty s.tiles t u v

@[simp] theorem State.tile_setTile_self (s : State) (t : Nat) (v : Tile) : (s.setTile t v).tile t = v := by
  simp [State.tile_setTile]

@[simp] theorem State.group_putGroup_self (s : State) (g : GRef) (v : Group) : (s.putGroup g v).group g = some v := by
  simp [State.group, State.putGroup]

theorem State.group_putGroup_ne (s : State) (g k : GRef) (v : Group) (h : k ≠ g) : (s.putGroup g v).group k = s.group k := by
  unfold State.group State.putGroup
  rw [State.tile_setTile]
  by_cases ht : k.tile = g.tile
  · have hs : k.slot ≠ g.slot := by
      intro hs; apply h; cases k; cases g; simp_all
    rw [if_pos ht, Tbl.find_put_ne _ _ hs, ht]
  · rw [if_neg ht]

end Sys2Proof.Machine
end

