-- ==== Sys2Proof/Laws/Lane.lean ====
section
/-!
SUPPORT. What issue and the writing of lane registers do, once for every instruction that uses them.
-/
namespace Sys2Proof.Machine

/-! ## Lane registers -/

theorem Group.rd_wr (gr : Group) (l r l' r' : Nat) (v : BitVec 32) (h : r < 128) (h' : r' < 128) :
    (gr.wr l r v).rd l' r' = if l' = l ∧ r' = r then v else gr.rd l' r' := by
  unfold Group.rd Group.wr
  rw [Tbl.getD_set]
  by_cases hk : l' * 128 + r' = l * 128 + r
  · rw [if_pos hk, if_pos (by omega)]
  · rw [if_neg hk, if_neg (by omega)]

theorem Group.rd_wrN (n : Nat) : ∀ (gr : Group) (l d v l' r' : Nat), d + n ≤ 128 → r' < 128 →
    (Group.wrN n gr l d v).rd l' r' =
      if l' = l ∧ d ≤ r' ∧ r' < d + n then BitVec.ofNat 32 (v >>> (32 * (r' - d))) else gr.rd l' r' := by
  induction n with
  | zero => intro gr l d v l' r' _ _; rw [if_neg (by omega)]; rfl
  | succ n ih =>
    intro gr l d v l' r' hd hr
    unfold Group.wrN
    rw [ih _ _ _ _ _ _ (by omega) hr, Group.rd_wr _ _ _ _ _ _ (by omega) hr]
    by_cases h : l' = l ∧ d + 1 ≤ r' ∧ r' < d + 1 + n
    · rw [if_pos h, if_pos (by omega), ← Nat.shiftRight_add, show 32 + 32 * (r' - (d + 1)) = 32 * (r' - d) by omega]
    · rw [if_neg h]
      by_cases h2 : l' = l ∧ r' = d
      · rw [if_pos h2, if_pos (by omega), h2.2]; simp
      · rw [if_neg h2, if_neg (by omega)]

/-- Writing registers changes nothing of the group but its registers. -/
theorem Group.wrN_only (n : Nat) : ∀ (gr : Group) (l d v : Nat), { Group.wrN n gr l d v with regs := gr.regs } = gr := by
  induction n with
  | zero => intro gr l d v; rfl
  | succ n ih =>
    intro gr l d v
    have := ih (gr.wr l d (BitVec.ofNat 32 v)) l (d + 1) (v >>> 32)
    unfold Group.wrN
    generalize hG : Group.wrN n (gr.wr l d (BitVec.ofNat 32 v)) l (d + 1) (v >>> 32) = G at this
    have h2 : { { G with regs := (gr.wr l d (BitVec.ofNat 32 v)).regs } with regs := gr.regs } = gr := by rw [this]; rfl
    exact h2

theorem foldl_wrN_only (ls : List Nat) (n d : Nat) (v : Nat → Nat) : ∀ gr : Group,
    { ls.foldl (fun (a : Group) l => Group.wrN n a l d (v l)) gr with regs := gr.regs } = gr := by
  induction ls with
  | nil => intro gr; rfl
  | cons x ls ih =>
    intro gr
    have h1 := ih (Group.wrN n gr x d (v x))
    have h2 := Group.wrN_only n gr x d (v x)
    simp only [List.foldl_cons]
    generalize ls.foldl (fun (a : Group) l => Group.wrN n a l d (v l)) (Group.wrN n gr x d (v x)) = G at *
    generalize Group.wrN n gr x d (v x) = H at *
    have h3 : { { G with regs := H.regs } with regs := gr.regs } = { H with regs := gr.regs } := by rw [h1]
    exact h3.trans h2

theorem foldl_wrN_rd (ls : List Nat) (n d : Nat) (v : Nat → Nat) (hd : d + n ≤ 128) : ∀ (gr : Group) (l r : Nat), r < 128 →
    ls.Nodup → (ls.foldl (fun (a : Group) l => Group.wrN n a l d (v l)) gr).rd l r =
      if l ∈ ls ∧ d ≤ r ∧ r < d + n then BitVec.ofNat 32 (v l >>> (32 * (r - d))) else gr.rd l r := by
  induction ls with
  | nil => intro gr l r _ _; simp
  | cons x ls ih =>
    intro gr l r hr hn
    rw [List.nodup_cons] at hn
    simp only [List.foldl_cons]
    rw [ih _ _ _ hr hn.2, Group.rd_wrN _ _ _ _ _ _ _ hd hr]
    by_cases hx : l = x
    · subst hx
      simp [hn.1]
    · simp [hx]

theorem Group.mem_lanes (gr : Group) (l : Nat) : l ∈ gr.lanes ↔ l < 32 ∧ gr.m.getLsbD l = true := by
  simp [Group.lanes]

theorem Group.lanes_nodup (gr : Group) : gr.lanes.Nodup := List.Nodup.sublist List.filter_sublist List.nodup_range

theorem writeLanes_pc (gr : Group) (d n : Nat) (v : Nat → Nat) : (writeLanes gr d n v).pc = gr.pc + 8 := by
  have h := foldl_wrN_only gr.lanes n d v gr
  have : (gr.lanes.foldl (fun (a : Group) l => Group.wrN n a l d (v l)) gr).pc = gr.pc := by
    have := congrArg Group.pc h; exact this
  simp [writeLanes, Group.next, this]

theorem writeLanes_only (gr : Group) (d n : Nat) (v : Nat → Nat) :
    { writeLanes gr d n v with pc := gr.pc, regs := gr.regs } = gr := by
  have h := foldl_wrN_only gr.lanes n d v gr
  have h2 : { { gr.lanes.foldl (fun (a : Group) l => Group.wrN n a l d (v l)) gr with regs := gr.regs } with pc := gr.pc } = gr := by
    rw [h]
  exact h2

theorem writeLanes_rd (gr : Group) (d n : Nat) (v : Nat → Nat) (hd : d + n ≤ 128) (l r : Nat) (hl : l < 32) (hr : r < 128) :
    (writeLanes gr d n v).rd l r =
      if gr.m.getLsbD l ∧ d ≤ r ∧ r < d + n then BitVec.ofNat 32 (v l >>> (32 * (r - d))) else gr.rd l r := by
  have h := foldl_wrN_rd gr.lanes n d v hd gr l r hr gr.lanes_nodup
  have e : (writeLanes gr d n v).rd l r = (gr.lanes.foldl (fun (a : Group) l => Group.wrN n a l d (v l)) gr).rd l r := rfl
  rw [e, h]
  simp [Group.mem_lanes, hl]

/-! ## Issue -/

@[simp] theorem State.judge_calm (s : State) (i u : Nat) (bad : Bool) (h : s.armed = []) : s.judge i u bad = (bad, s) := by
  simp [State.judge, h]

@[simp] theorem State.check_calm (s : State) (i u : Nat) (bad : Bool) (h : s.armed = []) :
    s.check i u bad = (bad, if bad then s.det i else s) := by
  simp [State.check, h]

/-- In a calm module an SRAM reads its word as it stands. -/
theorem State.sramRead_calm (s : State) (st : Store) (u : Nat) (h : Calm s) : s.sramRead st u = (none, s) := by
  simp [State.sramRead, State.upset, State.judge2, h.1, h.2]

theorem State.tileSram_calm (s : State) (st : Store) (u : Nat) (h : Calm s) : s.tileSram st u = (false, s) := by
  simp [State.tileSram, State.sramRead_calm _ _ _ h]

/-- In a calm module a flit arrives whole. -/
theorem State.parity_calm (s : State) (u : Nat) (h : Calm s) : s.parity u = (none, s) := by
  simp [State.parity, State.upset, State.check, State.judge, h.1, h.2]

/-- Issue leaves a calm module calm. -/
theorem Calm.issued {s : State} (h : Calm s) (g : GRef) (pc : Nat) (rs : List (Nat × Bool)) : Calm (s.issued g pc rs) := by
  simpa [Calm] using h

/-- A legal word of a group that may issue has its effect after what issue itself changes. -/
theorem State.issue_ok {s : State} {g : GRef} {gr : Group} {i : Insn} {fm : Form} (f : Group → State → State)
    (h : Ready s g gr) (ok : fm.ok i = true) : s.issue g i fm f = f gr (s.issued g gr.pc.toNat (regUses fm i)) := by
  have h1 := h.1.issued g gr.pc.toNat (regUses fm i)
  simp [State.issue, h.2, ok, State.sramRead_calm _ _ _ h1, State.tileSram_calm _ _ _ h1, State.judge_calm _ _ _ _ h1.1]

/-- An illegal word of a group that may issue is a counted no-operation (R54). -/
theorem State.issue_illegal {s : State} {g : GRef} {gr : Group} {i : Insn} {fm : Form} (f : Group → State → State)
    (h : Ready s g gr) (bad : fm.ok i = false) : s.issue g i fm f = (s.issued g gr.pc.toNat []).illegal g gr := by
  have h1 := h.1.issued g gr.pc.toNat []
  simp [State.issue, h.2, bad, State.sramRead_calm _ _ _ h1, State.judge_calm _ _ _ _ h1.1]

/-- A destination of `n` registers that a legal word names lies within the register file. -/
theorem regNum_fits (b : BitVec 8) (n : Nat) (hn : n = 1 ∨ n = 2 ∨ n = 4 ∨ n = 8) (h : operandOk b n = true) : regNum b + n ≤ 128 := by
  unfold operandOk at h
  have hb : regNum b < 128 := Nat.mod_lt _ (by omega)
  rcases hn with rfl | rfl | rfl | rfl <;> simp at h <;> omega

/-- An instruction that writes `n` registers of every active lane writes exactly those (R56). -/
theorem State.laneOp_wrote {s : State} {g : GRef} {gr : Group} {i : Insn} {fm : Form} (n : Nat) (v : Group → Nat → Nat)
    (h : Ready s g gr) (ok : fm.ok i = true) (hd : regNum i.d + n ≤ 128) :
    LaneWrote s g gr fm i n (v gr) (s.laneOp g i fm n v) := by
  refine ⟨writeLanes gr (regNum i.d) n (v gr), ?_, writeLanes_pc .., writeLanes_only .., fun l r hl hr => writeLanes_rd _ _ _ _ hd _ _ hl hr⟩
  simp [Issued, State.laneOp, State.issue_ok _ h ok]

end Sys2Proof.Machine
end

