-- ==== Sys2Proof/Laws/Mem.lean ====
section
/-!
SUPPORT. What the shared operations do to host memory and device memory: those that judge, count and record leave both as they are, and
those that write keep the canonical form.
-/
namespace Sys2Proof.Machine

/-! ## The canonical form -/

/-- A state with the same memories has the form when the other has it. -/
theorem MemoriesOk.of_same {s t : State} (h : MemoriesOk s) (e : t.mem = s.mem) : MemoriesOk t := by
  unfold MemoriesOk; rw [e]; exact h

theorem MemoriesOk.of_parts {s t : State} (h : MemoriesOk s) (eh : t.mem.host = s.mem.host) (ed : t.mem.hbm = s.mem.hbm) :
    MemoriesOk t := by
  unfold MemoriesOk; rw [eh, ed]; exact h

/-- Writes of single bytes, one after another, keep the form. -/
theorem Memory.wf_foldl_write {α : Type} (f : α → Nat) (g : α → BitVec 8) (xs : List α) :
    ∀ {m : Memory}, m.wf = true → (xs.foldl (fun m x => Memory.write m (f x) (g x)) m).wf = true := by
  induction xs with
  | nil => intro m h; exact h
  | cons x xs ih => intro m h; exact ih (Memory.wf_write _ _ h)

/-- A fold keeps what every one of its steps keeps. -/
theorem foldl_keeps {α β : Type} (P : β → Prop) (f : β → α → β) (h : ∀ b a, P b → P (f b a)) (xs : List α) :
    ∀ b, P b → P (xs.foldl f b) := by
  induction xs with
  | nil => intro b hb; exact hb
  | cons x xs ih => intro b hb; exact ih _ (h b x hb)

/-! ## Operations that leave the memories as they are -/

@[simp] theorem State.detN_mem (s : State) (i k : Nat) : (s.detN i k).mem = s.mem := by
  unfold State.detN; split <;> simp

@[simp] theorem State.free_mem (s : State) : s.free.2.mem = s.mem := rfl

@[simp] theorem State.choose_mem (s : State) : s.choose.2.mem = s.mem := rfl

@[simp] theorem State.injPass_mem (s : State) (i u : Nat) (f : Option Nat) : (s.injPass i u f).mem = s.mem :=
  foldl_keeps (fun t : State => t.mem = s.mem) (fun (t : State) (e : Nat × Nat) =>
    if s.injWatches e.1 i u && (!s.injFires e.1 e.2 || f == some e.1)
    then { t with armed := Tbl.put t.armed e.1 (e.2 + 1) } else t) (by intro t e h; split <;> simpa using h) s.armed s rfl

@[simp] theorem State.injFire_mem (s : State) (f : Option Nat) : (s.injFire f).mem = s.mem := by
  unfold State.injFire
  cases f with
  | none => rfl
  | some j => dsimp only; split <;> (try split) <;> simp

@[simp] theorem State.injCount_mem (s : State) (i u : Nat) (f : Option Nat) : (s.injCount i u f).mem = s.mem := by
  simp [State.injCount]

@[simp] theorem State.judge_mem (s : State) (i u : Nat) (bad : Bool) : (s.judge i u bad).2.mem = s.mem := by
  unfold State.judge; split <;> simp

@[simp] theorem State.judge2_mem (s : State) (i j u : Nat) (bi bj : Bool) : (s.judge2 i j u bi bj).2.2.mem = s.mem := by
  unfold State.judge2; split <;> simp

@[simp] theorem State.check_mem (s : State) (i u : Nat) (bad : Bool) : (s.check i u bad).2.mem = s.mem := by
  unfold State.check; dsimp only; split <;> simp

@[simp] theorem State.note_mem (s : State) (i u : Nat) : (s.note i u).mem = s.mem := State.check_mem ..

@[simp] theorem State.upset_mem (s : State) (st : Store) (u : Nat) (ue : Bool) : (s.upset st u ue).2.mem = s.mem := by
  unfold State.upset; split
  · rfl
  · split <;> rfl

@[simp] theorem State.sramRead_mem (s : State) (st : Store) (u : Nat) : (s.sramRead st u).2.mem = s.mem := by
  unfold State.sramRead; dsimp only; split <;> (try split) <;> simp

@[simp] theorem State.logRec_mem (s : State) (typ det code unit ctx arg : Nat) (inj : Bool) :
    (s.logRec typ det code unit ctx arg inj).mem = s.mem := by
  unfold State.logRec; dsimp only; split <;> simp

@[simp] theorem State.logOpen_mem (s : State) (typ det unit : Nat) (arg : Option Nat) (inj : Bool) :
    (s.logOpen typ det unit arg inj).mem = s.mem := by
  unfold State.logOpen; cases arg <;> simp

@[simp] theorem State.parity_mem (s : State) (u : Nat) : (s.parity u).2.mem = s.mem := by
  unfold State.parity; dsimp only; split <;> simp

@[simp] theorem State.pageRead_mem (s : State) (n : Nat) : (s.pageRead n).mem = s.mem := by
  unfold State.pageRead; split <;> simp

@[simp] theorem State.reply_mem (s : State) (line : Nat) : (s.reply line).2.mem = s.mem := by
  unfold State.reply; split <;> simp

@[simp] theorem State.tagJudge_mem (s : State) (n : Nat) : (s.tagJudge n).2.mem = s.mem := by
  have read : ∀ r : Option Bool × State, r.2.mem = s.mem → (match r.1 with
      | some inj => (true, { r.2 with tagLoss := n :: r.2.tagLoss }.logRec 12 detSramUe 2 (0x1000 + n) 0xFFFF 0 inj)
      | none => (false, r.2)).2.mem = s.mem := by
    rintro ⟨ue, u⟩ h
    cases ue <;> simpa using h
  unfold State.tagJudge
  dsimp only
  split
  · rfl
  · generalize hit : (decide (⟨.tags, 0x1000 + n, true⟩ ∈ s.upsets) || decide (⟨.tags, 0x1000 + n, false⟩ ∈ s.upsets)) = b
    cases b
    · simp only [Bool.false_eq_true, if_false]
      split
      · simp
      · exact read _ (by simp)
    · simp only [if_true]
      exact read _ (by simp)

/-! ## Operations that write -/

theorem State.hostWrite_keeps {s : State} (a : Nat) (bs : List (BitVec 8)) (h : MemoriesOk s) : MemoriesOk (s.hostWrite a bs) := by
  unfold State.hostWrite
  split
  · exact h
  · exact ⟨Memory.wf_writes _ _ h.1, h.2⟩

/-- An event-ring record changes host memory only, and keeps its form (R309). -/
theorem State.evr_keeps {s : State} (typ code ctx : Nat) (a b : BitVec 64) (h : MemoriesOk s) : MemoriesOk (s.evr typ code ctx a b) := by
  unfold State.evr; dsimp only
  have hj : MemoriesOk (s.judge detEvrOverflow 0 (decide (s.fld regHifEvrCfg 0 5 = 0 ∨
      2 ^ s.fld regHifEvrCfg 0 5 ≤ (s.fld regHifEvrTail 0 32 + 2 ^ 32 - s.fld regHifEvrHead 0 32) % 2 ^ 32))).2 := h.of_same (State.judge_mem ..)
  split
  · exact hj.of_same (by simp)
  · exact MemoriesOk.of_same (State.hostWrite_keeps _ _ (hj.of_same (State.free_mem _))) (State.setFld_mem ..)

/-- A write to host memory that the link carries changes exactly the bytes it names. -/
theorem State.hostWrite_read (s : State) (a x : Nat) (bs : List (BitVec 8)) (h : s.hostCut = false) :
    Memory.read (s.hostWrite a bs).mem.host x = Memory.read (Memory.writes s.mem.host a bs) x := by
  simp [State.hostWrite, h]

/-- What a channel controller writes to HBM keeps the form (R387). -/
theorem State.hbmWrite_wf (s : State) (line : Nat) (bytes : Tbl (BitVec 8)) (tag : BitVec 8) (h : s.mem.hbm.wf = true) :
    (s.hbmWrite line bytes tag).wf = true := by
  unfold State.hbmWrite
  split
  · exact Memory.wf_foldl_write _ _ _ h
  · exact Memory.wf_writes _ _ h

theorem State.reportPoison_keeps {s : State} (line chan cause det : Nat) (inj : Bool) (h : MemoriesOk s) :
    MemoriesOk (s.reportPoison line chan cause det inj) := by
  unfold State.reportPoison; dsimp only
  refine MemoriesOk.of_same (State.evr_keeps 2 cause 0 _ _ (h.of_same (State.setReg_mem ..))) (State.logRec_mem ..)

theorem State.logRec_keeps {s : State} (typ det code unit ctx arg : Nat) (inj : Bool) (h : MemoriesOk s) :
    MemoriesOk (s.logRec typ det code unit ctx arg inj) := h.of_same (State.logRec_mem ..)

theorem State.suspect_keeps {s : State} (n code : Nat) (inj : Bool) (h : MemoriesOk s) : MemoriesOk (s.suspect n code inj) := by
  have marked : ∀ (b : Bool) (t : State), MemoriesOk t →
      MemoriesOk (if b then t else { t with log := { t.log with marks := n :: t.log.marks } }) := by
    intro b t ht
    split
    · exact ht
    · exact ht.of_same rfl
  have h0 : MemoriesOk ((s.setFld (regCisChan n) 0 2 1).det detChanSuspect) :=
    h.of_same ((State.det_mem _ _).trans (State.setFld_mem _ _ _ _ _))
  exact marked _ _ (State.logRec_keeps 3 detChanSuspect code n 0xFFFF n inj (State.evr_keeps 3 code 0 0 (BitVec.ofNat 64 n) h0))

theorem State.judgeChan_keeps {s : State} (n code : Nat) (bad inj : Bool) (h : MemoriesOk s) :
    MemoriesOk (s.judgeChan n code bad inj) := by
  unfold State.judgeChan; dsimp only
  split
  · exact h
  · split
    · exact State.suspect_keeps _ _ _ (h.of_same (State.judge_mem ..))
    · exact h.of_same (State.judge_mem ..)

theorem State.setCistern_keeps {s : State} (n : Nat) (c : Cistern) (h : MemoriesOk s) : MemoriesOk (s.setCistern n c) :=
  h.of_parts rfl rfl

theorem State.queueChan_keeps {s : State} (n cls line : Nat) (w : Bool) (h : MemoriesOk s) : MemoriesOk (s.queueChan n cls line w) :=
  State.setCistern_keeps _ _ h

theorem State.queueBack_keeps {s : State} (l : CLine) (h : MemoriesOk s) : MemoriesOk (s.queueBack l) := by
  unfold State.queueBack
  split
  · exact h
  · dsimp only
    refine State.queueChan_keeps _ _ _ _ ?_
    split
    · exact h
    · exact State.queueChan_keeps _ _ _ _ h

theorem State.hbmCorrected_keeps {s : State} (n line : Nat) (inj : Bool) (h : MemoriesOk s) : MemoriesOk (s.hbmCorrected n line inj) := by
  unfold State.hbmCorrected; dsimp only
  exact State.judgeChan_keeps _ _ _ _
    ((State.queueChan_keeps n 3 line true (State.setCistern_keeps n _ h)).of_same ((State.det_mem ..).trans (State.bumpFld_mem ..)))

theorem State.hbmUncorrectable_keeps {s : State} (n line : Nat) (inj : Bool) (h : MemoriesOk s) :
    MemoriesOk (s.hbmUncorrectable n line inj) := by
  unfold State.hbmUncorrectable; dsimp only
  exact State.judgeChan_keeps _ _ _ _ (State.reportPoison_keeps _ _ _ _ _ (h.of_same ((State.det_mem ..).trans (State.bumpFld_mem ..))))

/-- What a read's ECC finds changes memory at most by records in the event ring (R270). -/
theorem State.hbmJudge_keeps {s : State} (n line : Nat) (ecc : Ecc) (h : MemoriesOk s) : MemoriesOk (s.hbmJudge n line ecc).2 := by
  have found : ∀ (b1 b2 c u : Bool) (t : State), MemoriesOk t →
      MemoriesOk (if b2 then (true, t.hbmUncorrectable n line u) else (false, if b1 then t.hbmCorrected n line c else t)).2 := by
    intro b1 b2 c u t ht
    split
    · dsimp only
      exact State.hbmUncorrectable_keeps n line u ht
    · dsimp only
      split
      · exact State.hbmCorrected_keeps _ _ _ ht
      · exact ht
  have twice : ∀ b b' : Bool, MemoriesOk (s.judge2 detHbmCe detHbmUe n b b').2.2 := fun b b' => h.of_same (State.judge2_mem ..)
  unfold State.hbmJudge
  dsimp only
  exact found _ _ _ _ _ (twice _ _)

theorem State.sramRead_keeps {s : State} (st : Store) (u : Nat) (h : MemoriesOk s) : MemoriesOk (s.sramRead st u).2 :=
  h.of_same (State.sramRead_mem ..)

/-- What the data SRAM does to a line that is written back changes memory at most by a record in the event ring (R270). -/
theorem State.backRead_keeps {s : State} (l : CLine) (h : MemoriesOk s) : MemoriesOk (s.backRead l).2 := by
  unfold State.backRead
  split
  · exact h
  · rename_i n _ _ _
    have h1 := State.sramRead_keeps .data (0x1000 + n) h
    generalize s.sramRead .data (0x1000 + n) = r at h1 ⊢
    obtain ⟨ue, t⟩ := r
    cases ue with
    | none => exact h1
    | some inj => exact State.reportPoison_keeps _ _ _ _ _ h1

/-- A write-back keeps the form (R255). -/
theorem State.writeBackEcc_keeps {s : State} (l : CLine) (ecc : Ecc) (h : MemoriesOk s) : MemoriesOk (s.writeBackEcc l ecc) := by
  have hr := State.backRead_keeps l h
  unfold State.writeBackEcc
  generalize s.backRead l = r at hr ⊢
  obtain ⟨m, t⟩ := r
  have hb := State.queueBack_keeps m hr
  have judged : ∀ e : Ecc, MemoriesOk (if m.poison ∨ partWords m.bytes = [] then (false, t.queueBack m)
      else match (t.queueBack m).lineHome m.line with
        | some (n, _, _) => (t.queueBack m).hbmJudge n m.line e
        | none => (false, t.queueBack m)).2 := by
    intro e
    split
    · exact hb
    · split
      · exact State.hbmJudge_keeps _ _ _ hb
      · exact hb
  exact ⟨(judged _).1, State.hbmWrite_wf _ _ _ _ hr.2⟩

/-- What data a held line's read finds changes memory at most by a record in the event ring (R270). -/
theorem State.poisonHeld_keeps {s : State} (n line cause det : Nat) (inj : Bool) (h : MemoriesOk s) :
    MemoriesOk (s.poisonHeld n line cause det inj) := by
  unfold State.poisonHeld
  dsimp only
  exact State.reportPoison_keeps _ _ _ _ _ (State.setCistern_keeps _ _ h)

theorem State.sramJudge_keeps {s : State} (n line : Nat) (h : MemoriesOk s) : MemoriesOk (s.sramJudge n line) := by
  have h1 := State.sramRead_keeps .data (0x1000 + n) h
  unfold State.sramJudge
  generalize s.sramRead .data (0x1000 + n) = r at h1 ⊢
  obtain ⟨ue, t⟩ := r
  cases ue with
  | none => exact h1
  | some inj => exact State.poisonHeld_keeps _ _ _ _ _ h1

/-- Staging a line keeps the form (R365). -/
theorem State.stageLine_keeps {s : State} (line dst : Nat) (h : MemoriesOk s) : MemoriesOk (s.stageLine line dst) := by
  unfold State.stageLine
  split
  · exact h
  · rename_i n _ _ _
    have hr : MemoriesOk (if s.hits line (List.range 128) then (false, s.sramJudge n line)
        else (s.queueChan n 3 line false).hbmJudge n line .ok).2 := by
      split
      · exact State.sramJudge_keeps _ _ h
      · exact State.hbmJudge_keeps _ _ _ (State.queueChan_keeps _ _ _ _ h)
    generalize (if s.hits line (List.range 128) then (false, s.sramJudge n line)
        else (s.queueChan n 3 line false).hbmJudge n line .ok) = r at hr ⊢
    obtain ⟨ue, t⟩ := r
    have wrote : ∀ (bs : Tbl (BitVec 8)) (k : BitVec 8) P T,
        MemoriesOk { t with mem := { t.mem with hbm := t.hbmWrite dst bs k, poison := P, tags := T } } :=
      fun bs k P T => ⟨hr.1, State.hbmWrite_wf _ _ _ _ hr.2⟩
    dsimp only
    split
    · exact State.queueChan_keeps _ _ _ _ (State.setCistern_keeps _ _ (wrote _ _ _ _))
    · exact wrote _ _ _ _

/-! ## Cisterns -/

theorem State.l1Drop_mem (s : State) (ks : List Nat) (line : Nat) : (s.l1Drop ks line).mem = s.mem :=
  foldl_keeps (fun t : State => t.mem = s.mem) (fun (t : State) k => t.setTile k { t.tile k with l1 := (t.tile k).l1.filter fun l => l.line ≠ line })
    (fun _ _ h => h) ks s rfl

/-- A read of the directory keeps the form (R270). -/
theorem State.dirRead_keeps {s : State} (n line : Nat) (h : MemoriesOk s) : MemoriesOk (s.dirRead n line) := by
  have h1 := State.sramRead_keeps .directory (0x1000 + n) h
  unfold State.dirRead
  dsimp only
  split
  · exact h1
  · split
    · exact (State.setCistern_keeps _ _ h1).of_same rfl
    · exact h1

theorem State.invalidate_keeps {s : State} (n line : Nat) (w : Option Nat) (h : MemoriesOk s) : MemoriesOk (s.invalidate n line w) := by
  have h0 := State.dirRead_keeps n line h
  unfold State.invalidate
  generalize s.dirRead n line = t at h0 ⊢
  dsimp only
  split
  · exact h0
  · refine State.setCistern_keeps _ _ (MemoriesOk.of_same ?_ (State.l1Drop_mem ..))
    exact foldl_keeps MemoriesOk _ (fun b _ hb => hb.of_same (State.parity_mem ..)) _ _ h0

theorem State.judgeWaits_keeps {s : State} (n line : Nat) (h : MemoriesOk s) : MemoriesOk (s.judgeWaits n line) :=
  State.setCistern_keeps _ _ h

theorem State.retire_keeps {s : State} (v : Option CLine) (h : MemoriesOk s) : MemoriesOk (s.retire v) := by
  unfold State.retire
  split
  · split
    · exact State.writeBackEcc_keeps _ _ h
    · exact h
  · exact h

theorem State.freeWay_keeps {s : State} (n set : Nat) (h : MemoriesOk s) : MemoriesOk (s.freeWay n set) := by
  unfold State.freeWay
  dsimp only
  split
  · exact h
  · exact State.setCistern_keeps _ _ (State.retire_keeps _ h)

theorem State.check_keeps {s : State} (i u : Nat) (bad : Bool) (h : MemoriesOk s) : MemoriesOk (s.check i u bad).2 :=
  h.of_same (State.check_mem ..)

theorem State.det_keeps {s : State} (i : Nat) (h : MemoriesOk s) : MemoriesOk (s.det i) := h.of_same (State.det_mem ..)

theorem State.judge_keeps {s : State} (i u : Nat) (bad : Bool) (h : MemoriesOk s) : MemoriesOk (s.judge i u bad).2 :=
  h.of_same (State.judge_mem ..)

/-- Making room for a persistent line keeps the form (R261, R262). -/
theorem State.winRoom_keeps {s : State} (n set w : Nat) (h : MemoriesOk s) : MemoriesOk (s.winRoom n set w).2 := by
  have room : ∀ (b : Bool) (k : Nat) (ls : List CLine) (c : Cistern) (t : State), MemoriesOk t → MemoriesOk (
      if b then (false, t.det detPinCeiling)
      else if k < t.fld regCisCfg 25 4 then (true, t)
      else
        match t.lowestLevel ls set (t.winLevel w) with
        | some v => (true, t.setCistern n { c with lines := { v with persist := false, win := 0 } :: dropLine ls v.line })
        | none => (false, t)).2 := by
    intro b k ls c t ht
    split
    · exact State.det_keeps _ ht
    · split
      · exact ht
      · split
        · exact State.setCistern_keeps _ _ ht
        · exact ht
  unfold State.winRoom
  dsimp only
  refine room _ _ _ _ _ (State.judge_keeps _ _ _ ?_)
  split
  · exact State.judge_keeps _ _ _ h
  · split
    · exact State.det_keeps _ (State.setCistern_keeps _ _ (State.retire_keeps _ (State.judge_keeps _ _ _ h)))
    · exact State.det_keeps _ (State.judge_keeps _ _ _ h)

/-- Reading a line's tags and comparing them keeps every memory. -/
@[simp] theorem State.denies_mem (s : State) (k : BitVec 8) (n line : Nat) : (s.denies k n line).2.mem = s.mem := by
  unfold State.denies
  dsimp only
  split
  · exact State.tagJudge_mem ..
  · rw [State.check_mem, State.tagJudge_mem]

theorem State.winTest_keeps {s : State} (q : MemReq) (n line : Nat) (h : MemoriesOk s) : MemoriesOk (s.winTest q n line).2 := by
  unfold State.winTest
  cases q.win with
  | none => exact h
  | some w => exact State.check_keeps _ _ _ h

theorem State.winDecide_keeps {s : State} (q : MemReq) (n set : Nat) (h : MemoriesOk s) : MemoriesOk (s.winDecide q n set).2 := by
  unfold State.winDecide
  cases q.win with
  | none => exact h
  | some w => exact State.winRoom_keeps _ _ _ h

theorem State.allocate_keeps {s : State} (q : MemReq) (n set line : Nat) (bytes : Tbl (BitVec 8)) (dirty poison : Bool) (tag : BitVec 8)
    (h : MemoriesOk s) : MemoriesOk (s.allocate q n set line bytes dirty poison tag) := by
  unfold State.allocate
  dsimp only
  exact State.setCistern_keeps _ _ (State.freeWay_keeps _ _ (State.winDecide_keeps _ _ _ h))

theorem State.dropAfter_keeps {s : State} (n line : Nat) (h : MemoriesOk s) : MemoriesOk (s.dropAfter n line) := by
  unfold State.dropAfter
  dsimp only
  split
  · exact h
  · split
    · exact State.setCistern_keeps _ _ h
    · exact State.invalidate_keeps _ _ _ (State.setCistern_keeps _ _ h)

theorem State.fetchLine_keeps {s : State} (q : MemReq) (n set line : Nat) (ecc : Ecc) (h : MemoriesOk s) :
    MemoriesOk (s.fetchLine q n set line ecc) := by
  have h1 := State.hbmJudge_keeps n line ecc h
  unfold State.fetchLine
  generalize s.hbmJudge n line ecc = r at h1 ⊢
  obtain ⟨ue, s1⟩ := r
  dsimp only at h1 ⊢
  split
  · exact State.setCistern_keeps _ _ h1
  · refine State.allocate_keeps _ _ _ _ _ _ _ _ ?_
    split
    · exact State.det_keeps _ (State.setCistern_keeps _ _ h1)
    · exact h1

/-- A read at a cistern, with all it fetches and evicts, keeps the form (R253 to R259). -/
theorem State.cisRead_keeps {s : State} (q : MemReq) (line : Nat) (offs : List Nat) (h : MemoriesOk s) :
    MemoriesOk (s.cisRead q line offs).st := by
  unfold State.cisRead
  split
  · exact h
  · dsimp only
    rename_i n set p _
    have hc : MemoriesOk (s.denies (s.reqTag q.ctx) n line).2 := h.of_same (State.denies_mem ..)
    generalize s.denies (s.reqTag q.ctx) n line = r at hc ⊢
    split
    · exact hc
    · have hw := State.winTest_keeps q n line hc
      generalize r.2.winTest q n line = x at hw ⊢
      obtain ⟨q1, t⟩ := x
      dsimp only at hw ⊢
      have served : MemoriesOk (if t.hits line offs then
          match ((t.sramJudge n line).cistern n).lineOf line with
          | some l => (t.sramJudge n line).setCistern n { (t.sramJudge n line).cistern n with
              lines := touchLine ((t.sramJudge n line).cistern n).lines q1.hint l }
          | none => t.sramJudge n line
        else (t.queueChan n q1.cls line false).fetchLine q1 n set line .ok) := by
        split
        · split
          · exact State.setCistern_keeps _ _ (State.sramJudge_keeps _ _ hw)
          · exact State.sramJudge_keeps _ _ hw
        · exact State.fetchLine_keeps _ _ _ _ _ (State.queueChan_keeps _ _ _ _ hw)
      split
      · exact State.dropAfter_keeps _ _ served
      · exact served

/-- A write at a cistern keeps the form (R253, R258). -/
theorem State.cisWrite_keeps {s : State} (q : MemReq) (line : Nat) (bytes : Tbl (BitVec 8)) (h : MemoriesOk s) :
    MemoriesOk (s.cisWrite q line bytes).st := by
  unfold State.cisWrite
  split
  · exact h
  · dsimp only
    rename_i n set p _
    have hc : MemoriesOk (s.denies (s.reqTag q.ctx) n line).2 := h.of_same (State.denies_mem ..)
    generalize s.denies (s.reqTag q.ctx) n line = r at hc ⊢
    split
    · exact hc
    · have hw := State.winTest_keeps q n line (hc.of_same (State.pageRead_mem r.2 n))
      generalize (r.2.pageRead n).winTest q n line = x at hw ⊢
      obtain ⟨q1, u⟩ := x
      dsimp only at hw ⊢
      have hj : MemoriesOk (if ((u.cistern n).lineOf line).isSome && !(partWords bytes).isEmpty then u.sramJudge n line else u) := by
        split
        · exact State.sramJudge_keeps _ _ hw
        · exact hw
      generalize (if ((u.cistern n).lineOf line).isSome && !(partWords bytes).isEmpty then u.sramJudge n line else u) = v at hj ⊢
      refine State.judgeWaits_keeps _ _ (State.invalidate_keeps _ _ _ ?_)
      have through : ∀ t : State, MemoriesOk t → MemoriesOk (if q1.hint = 3 then
          match (t.cistern n).lineOf line with
          | some l => (t.writeBack l).setCistern n { (t.writeBack l).cistern n with
              lines := ((t.writeBack l).cistern n).lines.map fun (x : CLine) => if x.line = line then { x with dirty := false } else x }
          | none => t
        else t) := by
        intro t ht
        split
        · split
          · exact State.setCistern_keeps _ _ (State.writeBackEcc_keeps _ _ ht)
          · exact ht
        · exact ht
      refine through _ ?_
      split
      · exact State.setCistern_keeps _ _ hj
      · exact State.allocate_keeps _ _ _ _ _ _ _ _ (State.setCistern_keeps _ _ hj)

/-- A write of device bytes keeps the form. -/
theorem State.devWrite_keeps (k : Nat) : ∀ {s : State} (q : MemReq) (dpa : Nat) (bs : List (BitVec 8)), MemoriesOk s →
    MemoriesOk (State.devWrite k s q dpa bs).st := by
  induction k with
  | zero => intro s q dpa bs h; exact h
  | succ k ih =>
    intro s q dpa bs h
    unfold State.devWrite
    cases bs with
    | nil => exact h
    | cons b bs => exact ih _ _ _ (State.cisWrite_keeps _ _ _ h)

/-- A read of device bytes keeps the form. -/
theorem State.devRead_keeps {s : State} (q : MemReq) (dpa n : Nat) (h : MemoriesOk s) : MemoriesOk (s.devRead q dpa n).st := by
  unfold State.devRead
  refine foldl_keeps (fun r : Served => MemoriesOk r.st) _ ?_ _ _ h
  intro r l hr
  exact State.cisRead_keeps q l (offsIn l dpa n) hr

/-- A line the device writes with a tag keeps the form (R386, R389). -/
theorem State.ownLine_keeps {s : State} (tag line : Nat) (bs : Nat → BitVec 8) (h : MemoriesOk s) : MemoriesOk (s.ownLine tag line bs) := by
  have written := State.hbmWrite_wf s line ((List.range 128).map fun o => (o, bs o)) (BitVec.ofNat 8 tag) h.2
  unfold State.ownLine
  dsimp only
  generalize s.hbmWrite line _ _ = m at written ⊢
  split
  · exact ⟨h.1, written⟩
  · exact State.judgeWaits_keeps _ _ (State.invalidate_keeps _ _ _ (State.setCistern_keeps _ _ ⟨h.1, written⟩))

/-- A line the device writes zero (R389) keeps the form. -/
theorem State.zeroLine_keeps {s : State} (tag line : Nat) (h : MemoriesOk s) : MemoriesOk (s.zeroLine tag line) :=
  State.ownLine_keeps tag line _ h

end Sys2Proof.Machine
end

