-- ==== Sys2Proof/WellFormed.lean ====
section
/-!
DEFINITION. Which commands are well formed: the numbers of units lie in the ranges the spec gives them.
-/
namespace Sys2Proof

/-- A tile and a group slot that exist (R30, R40). -/
def GRef.ok (g : GRef) : Bool := decide (g.tile < 4096) && decide (g.slot < 32)

/-- A queue number that exists (R318). -/
def CmdRef.ok (r : CmdRef) : Bool := decide (r.queue < 16)

/-- A hint of Table 9.3, a window of R260, a tile and a class of Table 9.4. -/
def MemReq.ok (q : MemReq) : Bool :=
  decide (q.hint < 4) && decide (1 ≤ q.cls) && decide (q.cls ≤ 3) && (match q.win with | some w => decide (w < 64) | none => true) &&
  (match q.tile with | some t => decide (t < 4096) | none => true)

/-- A frame whose LEN is the length of its payload (R340). -/
def Frame.ok (f : Frame) : Bool := decide (f.len.toNat = f.payload.length)

/-- A well-formed command. -/
def Instr.wf (i : Instr) : Bool :=
  match i with
  | .iadd g _ => g.ok
  | .isub g _ => g.ok
  | .imul g _ => g.ok
  | .imulhi g _ => g.ok
  | .imad g _ => g.ok
  | .imin g _ => g.ok
  | .imax g _ => g.ok
  | .iabs g _ => g.ok
  | .andB g _ => g.ok
  | .orB g _ => g.ok
  | .xorB g _ => g.ok
  | .shl g _ => g.ok
  | .shr g _ => g.ok
  | .rotl g _ => g.ok
  | .popc g _ => g.ok
  | .clz g _ => g.ok
  | .brev g _ => g.ok
  | .iset g _ => g.ok
  | .sel g _ => g.ok
  | .mov g _ => g.ok
  | .movhi g _ => g.ok
  | .fadd g _ => g.ok
  | .fsub g _ => g.ok
  | .fmul g _ => g.ok
  | .ffma g _ => g.ok
  | .fmin g _ => g.ok
  | .fmax g _ => g.ok
  | .fabs g _ => g.ok
  | .fneg g _ => g.ok
  | .fset g _ => g.ok
  | .frcp g _ => g.ok
  | .frsq g _ => g.ok
  | .fsqrt g _ => g.ok
  | .fexp2 g _ => g.ok
  | .flog2 g _ => g.ok
  | .fsinpi g _ => g.ok
  | .fcospi g _ => g.ok
  | .cvt g _ => g.ok
  | .cvtPk g _ => g.ok
  | .cvtUpk g _ => g.ok
  | .vote g _ => g.ok
  | .bcast g _ => g.ok
  | .shfl g _ => g.ok
  | .s2r g _ => g.ok
  | .ld g _ => g.ok
  | .st g _ => g.ok
  | .lds g _ => g.ok
  | .sts g _ => g.ok
  | .pref g _ => g.ok
  | .scopy g _ => g.ok
  | .scopyDone g => g.ok
  | .scwait g _ => g.ok
  | .atomAdd g _ => g.ok
  | .atomMin g _ => g.ok
  | .atomMax g _ => g.ok
  | .atomAnd g _ => g.ok
  | .atomOr g _ => g.ok
  | .atomXor g _ => g.ok
  | .atomExch g _ => g.ok
  | .atomCas g _ => g.ok
  | .nop g _ => g.ok
  | .bra g _ => g.ok
  | .brany g _ => g.ok
  | .brall g _ => g.ok
  | .callG g _ => g.ok
  | .retG g _ => g.ok
  | .mpush g _ => g.ok
  | .melse g _ => g.ok
  | .mpop g _ => g.ok
  | .mpushl g _ => g.ok
  | .mbrk g _ => g.ok
  | .elect g _ => g.ok
  | .exitG g _ => g.ok
  | .mstackSpillDone g => g.ok
  | .mstackRefillDone g => g.ok
  | .illegalWord g _ => g.ok
  | .blockResident r _ tile base slots => r.ok && decide (tile < 4096) && (decide (base.length = 1) || decide (base.length = 16)) && decide (slots.length = base.length)
  | .noProgressExpiry g => g.ok
  | .arrayProgressExpiry tile arr => decide (tile < 4096) && decide (arr < 2)
  | .fence g _ => g.ok
  | .fenceComplete g => g.ok
  | .bar g _ => g.ok
  | .waitne g _ => g.ok
  | .waitneAnswer g => g.ok
  | .waitResend g => g.ok
  | .hostWaitPoll g => g.ok
  | .evsig g _ => g.ok
  | .evwait g _ => g.ok
  | .evwaitAnswer g => g.ok
  | .uwait g _ => g.ok
  | .uwaitComplete g => g.ok
  | .aload g _ => g.ok
  | .astream g _ => g.ok
  | .gpair g _ => g.ok
  | .wdrain g _ => g.ok
  | .wreduce g _ => g.ok
  | .wacc g _ => g.ok
  | .wclr g _ => g.ok
  | .amode g _ => g.ok
  | .arrayInsnStart tile => decide (tile < 4096)
  | .arrayInsnComplete tile arr port => decide (tile < 4096) && decide (arr < 2) && decide (port < 4)
  | .pdesc g _ => g.ok
  | .pumpNearFetch tile pump => decide (tile < 4096) && decide (pump < 2)
  | .pumpFarPrefetch tile pump => decide (tile < 4096) && decide (pump < 2)
  | .pumpDeliver tile pump => decide (tile < 4096) && decide (pump < 2)
  | .pumpWrite tile pump => decide (tile < 4096) && decide (pump < 2)
  | .pumpAdd tile pump => decide (tile < 4096) && decide (pump < 2)
  | .pumpDescComplete tile pump _ => decide (tile < 4096) && decide (pump < 2)
  | .rnd g _ => g.ok
  | .rkey g _ => g.ok
  | .strd g _ => g.ok
  | .stclr g _ => g.ok
  | .stadd g _ => g.ok
  | .cisternRead q _ _ => q.ok
  | .cisternWrite tile _ => decide (tile < 4096)
  | .cisternAtomic q _ op fmt _ _ => q.ok && decide (op < 8) && decide (fmt < 6)
  | .cisternWaitArrival g => g.ok
  | .cisternVictimWriteback chan set => decide (chan < 512) && decide (set < 512)
  | .channelSlotGrant chan pc => decide (chan < 512) && decide (pc < 2)
  | .hbmRead _ _ => true
  | .hbmWriteback _ _ => true
  | .scrub _ _ => true
  | .hbmRefresh chan bank => decide (chan < 512) && decide (bank < 32)
  | .nopCommand r => r.ok
  | .launchCmd r => r.ok
  | .copyCmd r => r.ok
  | .evtSignalSet r => r.ok
  | .evtSignalInc r => r.ok
  | .objRepair r => r.ok
  | .updRun r => r.ok
  | .updRunRefresh r => r.ok
  | .updSetStep r => r.ok
  | .updLayer spur => decide (spur < 256)
  | .updLayerDone spur => decide (spur < 256)
  | .schedRun r => r.ok
  | .schedRelease r => r.ok
  | .schedCompletionCount r _ => r.ok
  | .collOpen r => r.ok
  | .collRun r => r.ok
  | .collRunComplete r => r.ok
  | .collClose r => r.ok
  | .collDeadline num shard => decide (num < 64) && decide (shard < 64)
  | .contribResend num => decide (num < 64)
  | .barrierResend num => decide (num < 64)
  | .remoteSignal r => r.ok
  | .remoteSignalResend r => r.ok
  | .ckpBegin r => r.ok
  | .ckpAbort r => r.ok
  | .ckpRestore r _ _ => r.ok
  | .ckpPageStageDone chan page => decide (chan < 512) && decide (page < 32768)
  | .ckpDirectSaveDone chan page => decide (chan < 512) && decide (page < 32768)
  | .ckpStreamWrite => true
  | .ckpStoreAck _ => true
  | .ckpCommit => true
  | .ckpFail _ => true
  | .roceRetryTimeout qp => decide (qp < 16)
  | .commandFetch _ queue => decide (queue < 16)
  | .commandStart r => r.ok
  | .commandComplete r => r.ok
  | .contextLoss _ _ _ _ => true
  | .contextSwapOut _ => true
  | .contextSwapIn _ => true
  | .doorbell _ size _ => decide (size ≤ 8)
  | .ctxCreate => true
  | .ctxDestroy => true
  | .queueCreate => true
  | .queueDestroy => true
  | .objCreate => true
  | .objFree => true
  | .objExport => true
  | .objImport => true
  | .ctxQuery => true
  | .xltInvRange _ => true
  | .xltInvAll _ => true
  | .xltInvDone => true
  | .featAcceptWrite _ _ => true
  | .featLock => true
  | .hifTblBaseWrite _ => true
  | .bar4Read _ _ => true
  | .bar4Write _ _ => true
  | .bar4Atomic _ op size _ _ => decide (op < 3) && decide (0 < size ∧ size ≤ 8)
  | .evrInterrupt => true
  | .registerWrite _ size _ => decide (0 < size ∧ size ≤ 8)
  | .preloadWriteDrop barNo _ => decide (barNo < 6)
  | .loadClear => true
  | .loadAppend _ => true
  | .loadStaged => true
  | .loadCommitSlot => true
  | .loadCommitLoad => true
  | .loadReload => true
  | .portTrainingDone p _ => decide (p < 32)
  | .portTrainingTimeout p => decide (p < 32)
  | .linkHello p _ _ => decide (p < 32)
  | .linkAck p _ => decide (p < 32)
  | .linkNak p _ _ _ => decide (p < 32)
  | .linkCredit p _ => decide (p < 32)
  | .signalLoss p => decide (p < 32)
  | .linkRekey p => decide (p < 32)
  | .frameForward p f => decide (p < 32) && f.ok
  | .linkHoldExpiry _ => true
  | .memRd p f => decide (p < 32) && f.ok
  | .memWr p f => decide (p < 32) && f.ok
  | .memAtom p f => decide (p < 32) && f.ok
  | .memRsp p f => decide (p < 32) && f.ok
  | .rspTimeoutExpiry _ => true
  | .signalFrame p f => decide (p < 32) && f.ok
  | .sigRsp p f => decide (p < 32) && f.ok
  | .barrierFrame p f => decide (p < 32) && f.ok
  | .contribFrame p f => decide (p < 32) && f.ok
  | .resultFrame p f => decide (p < 32) && f.ok
  | .nakFrame p f => decide (p < 32) && f.ok
  | .portRetrain p => decide (p < 32)
  | .portDisable p _ => decide (p < 32)
  | .ethRxFrame p _ _ => decide (p < 4)
  | .ethTxrTailWrite p _ => decide (p < 4)
  | .ethRxrHeadWrite p _ => decide (p < 4)
  | .rocePacket qp _ => decide (qp < 16)
  | .pfcWatchdog p => decide (p < 4)
  | .pcieTlp _ => true
  | .pcieCompletionTimeout _ => true
  | .ckpQpCtrlWrite q _ => decide (q < 16)
  | .cisWinCtrlWrite w _ => decide (w < 64)
  | .cisWinRangeWrite w _ _ => decide (w < 64)
  | .ownerEnroll => true
  | .ownerRevoke => true
  | .ptInstall => true
  | .ptWrite => true
  | .ptRelease => true
  | .measureRange => true
  | .sealCtx => true
  | .getVersion _ _ => true
  | .getCapabilities _ _ => true
  | .negotiateAlgorithms _ _ => true
  | .getDigests _ _ => true
  | .getCertificate _ _ => true
  | .spdmChallenge _ _ => true
  | .getMeasurements _ _ => true
  | .keyExchange _ _ => true
  | .spdmFinish _ _ => true
  | .endSession _ _ => true
  | .spdmHeartbeat _ _ => true
  | .keyUpdate _ _ => true
  | .setSecret _ _ _ _ _ _ => true
  | .keyProg _ => true
  | .kSetGo _ => true
  | .kSetStop _ => true
  | .powerEvaluation _ _ _ => true
  | .opStepEnd => true
  | .fastPath => true
  | .fastPathHoldEnd => true
  | .thermalTrip => true
  | .refLoss => true
  | .refRestored => true
  | .pwrLimitWrite _ => true
  | .pwrHostVoteWrite i _ => decide (i < 5)
  | .idleTimerExpiry d => decide (d < 282)
  | .sleepTimerExpiry d => decide (d < 282)
  | .lowStateEntry d => decide (d < 282)
  | .domainEntryDone d => decide (d < 282)
  | .wakeDomain d => decide (d < 282)
  | .wakeEvent d => decide (d < 282)
  | .wakeStageReady d => decide (d < 282)
  | .wakeStageTimeout d => decide (d < 282)
  | .offEntry => true
  | .wakePin => true
  | .pwrPartReset _ => true
  | .partResetDone => true
  | .powerOn => true
  | .resetPin => true
  | .resetPinRelease => true
  | .perstAssert => true
  | .hotReset => true
  | .flr => true
  | .inputOvervoltage => true
  | .inputPowerLoss => true
  | .clearAll => true
  | .detLogSelWrite _ => true
  | .detLogReadDone => true
  | .injCtrlArm j _ => decide (j < 16)
  | .injCtrlDisarm j _ => decide (j < 16)
  | .monitorRxError _ => true
  | .monId => true
  | .monStatus => true
  | .monBaud _ => true
  | .monCnt _ => true
  | .monCntAll => true
  | .monCntclr _ => true
  | .monLog _ => true
  | .monMarks => true
  | .monInjArm j _ _ _ _ _ _ => decide (j < 16)
  | .monInjOff _ => true
  | .monInjList => true
  | .monTileRd _ _ => true
  | .monTileWr _ _ => true
  | .monMarkclr _ => true
  | .shadowRead a => decide (a.bar = 0 ∨ a.bar = 2) && decide (0 < a.size ∧ a.size ≤ 8)
  | .mbrkSpillEditDone g => g.ok
  | .perstRelease => true
  | .pcieLinkUp => true
  | .mrefPresent => true
  | .overvoltageRestart => true
  | .identHeartbeat _ => true
  | .fecLockLost p => decide (p < 32)
  | .malformedFrame p f => decide (p < 32) && f.ok
  | .ethLink p _ => decide (p < 4)
  | .pfcPauseFrame p _ => decide (p < 4)
  | .pfcPauseCeased p => decide (p < 4)
  | .ethRingInterrupt p _ => decide (p < 4)
  | .monitorUnknownCommand => true

end Sys2Proof
end

