-- ==== Sys2Proof/Tests/Slice0.lean ====
section
/-!
SUPPORT. Tests: single steps with results taken from the spec's text, a well-formedness smoke test, and for every statement with
hypotheses a state and operands that meet them.
-/
namespace Sys2Proof.Tests
open Sys2Proof Sys2Proof.Machine

set_option Elab.async false

/-! ## Helpers -/

/-- Fields of a word: FMT, MOD, D, A, B, C. -/
def w6 (f m d a b c : Nat) : Insn := ⟨BitVec.ofNat 4 f, BitVec.ofNat 5 m, false, 0, BitVec.ofNat 8 d, BitVec.ofNat 8 a, BitVec.ofNat 8 b, BitVec.ofNat 8 c⟩

/-- A group on tile 5, slot 1, with lanes 0 and 3 active. -/
def g0 : GRef := ⟨5, 1⟩

/-- Its state: registers of lanes 0 and 3, and any mask stack. -/
def grp (regs : Tbl (BitVec 32)) (stack : List MEntry) : Group :=
  ⟨2, 0, 0x1000, 9, 0xFFFFFFFF, stack, 0, regs, 0, .ready⟩

/-- Its block: 256 bytes of scratch at 512. -/
def blk0 : Block := ⟨⟨1, 0, 7⟩, 0, 4, 5, 6, 3, 512, 256, 1, true, [], false, 0, 100⟩

/-- A state that holds the group and its block on tile 5. -/
def st (gr : Group) : State := State.reset.setTile 5 { Tile.empty with blocks := [(0, blk0)], groups := [(1, gr)] }

/-- Registers R4 and R5 of lanes 0 and 3. -/
def r45 (a b c d : Nat) : Tbl (BitVec 32) :=
  [(4, BitVec.ofNat 32 a), (5, BitVec.ofNat 32 b), (388, BitVec.ofNat 32 c), (389, BitVec.ofNat 32 d)]

/-- The value of a register of the group after a command. -/
def regAfter (o : Host.Outcome State Fault Refusal) (l r : Nat) : Option Nat :=
  match o with
  | .next t => (t.group g0).map fun gr => (gr.rd l r).toNat
  | _ => none

/-- The program counter of the group after a command. -/
def pcAfter (o : Host.Outcome State Fault Refusal) : Option Nat :=
  match o with
  | .next t => (t.group g0).map fun gr => gr.pc.toNat
  | _ => none

/-- A register of the module after a command. -/
def modReg (o : Host.Outcome State Fault Refusal) (off : Nat) : Option Nat :=
  match o with
  | .next t => some (t.reg off).toNat
  | _ => none


/-! ## Well-formedness -/

theorem test_wf_refuses_groups : (Instr.iadd ⟨4096, 0⟩ (w6 0 0 6 4 5 0)).wf = false ∧ (Instr.fadd ⟨0, 32⟩ (w6 4 0 6 4 5 0)).wf = false ∧
    (Instr.waitneAnswer ⟨4096, 32⟩).wf = false ∧ (Instr.iadd ⟨4095, 31⟩ (w6 0 0 6 4 5 0)).wf = true := by decide

theorem test_wf_refuses_units : (Instr.nopCommand ⟨0, 16, 0⟩).wf = false ∧ (Instr.blockResident ⟨0, 0, 0⟩ 0 4096 [0] [[]]).wf = false ∧
    (Instr.blockResident ⟨0, 0, 0⟩ 0 0 [0, 0] [[], []]).wf = false ∧
    (Instr.arrayInsnStart 4096).wf = false ∧ (Instr.arrayProgressExpiry 0 2).wf = false ∧ (Instr.arrayInsnComplete 0 0 4).wf = false ∧
    (Instr.pumpDeliver 0 2).wf = false ∧ (Instr.updLayer 256).wf = false ∧ (Instr.collDeadline 64 0).wf = false ∧ (Instr.collDeadline 0 64).wf = false := by
  decide

theorem test_wf_refuses_memory : (Instr.cisternRead ⟨none, none, 4, none, false, 1⟩ 0 0).wf = false ∧ (Instr.cisternRead ⟨none, none, 0, some 64, false, 1⟩ 0 0).wf = false ∧
    (Instr.cisternRead ⟨none, some 4096, 0, none, false, 1⟩ 0 0).wf = false ∧ (Instr.cisternRead ⟨none, none, 0, none, false, 0⟩ 0 0).wf = false ∧ (Instr.cisternVictimWriteback 512 0).wf = false ∧
    (Instr.cisternVictimWriteback 0 512).wf = false ∧ (Instr.channelSlotGrant 0 2).wf = false ∧ (Instr.hbmRefresh 0 32).wf = false ∧
    (Instr.ckpPageStageDone 0 32768).wf = false ∧ (Instr.cisWinCtrlWrite 64 0).wf = false := by decide

theorem test_wf_refuses_host : (Instr.doorbell 0 9 0).wf = false ∧ (Instr.bar4Atomic 0 3 4 0 0).wf = false ∧ (Instr.bar4Atomic 0 0 0 0 0).wf = false ∧
    (Instr.registerWrite 0 0 0).wf = false ∧ (Instr.registerWrite 0 9 0).wf = false ∧ (Instr.shadowRead ⟨4, 0, 4⟩).wf = false ∧ (Instr.preloadWriteDrop 6 0).wf = false ∧ (Instr.commandFetch 0 16).wf = false ∧
    (Instr.roceRetryTimeout 16).wf = false := by decide

theorem test_wf_refuses_ports : (Instr.signalLoss 32).wf = false ∧ (Instr.ethLink 4 true).wf = false ∧
    (Instr.memRd 0 ⟨1, 0, 0, 0, 0, 1, 0, 0, 0, [], false, false, .good⟩).wf = false ∧ (Instr.memRd 0 ⟨1, 0, 0, 0, 0, 0, 0, 0, 0, [], false, false, .good⟩).wf = true := by decide

theorem test_wf_refuses_power : (Instr.wakeEvent 282).wf = false ∧ (Instr.pwrHostVoteWrite 5 0).wf = false ∧ (Instr.injCtrlArm 16 0).wf = false ∧
    (Instr.wakeEvent 281).wf = true := by decide

/-! ## Lane instructions: witnesses -/

/-- As `w6` with IMM, EXT and fields B and C as one number. -/
def w5 (f m e d a imm : Nat) : Insn := ⟨BitVec.ofNat 4 f, BitVec.ofNat 5 m, true, BitVec.ofNat 10 e, BitVec.ofNat 8 d, BitVec.ofNat 8 a,
  BitVec.ofNat 8 (imm / 256), BitVec.ofNat 8 imm⟩

/-- As `w6` with EXT. -/
def w7 (f m e d a b c : Nat) : Insn := { w6 f m d a b c with ext := BitVec.ofNat 10 e }

/-- A group with small values in R4 and R5. -/
def grA : Group := grp (r45 7 9 0xFFFFFFFF 2) []

theorem witness_IllegalWordsAreCountedNops : Ready (st grA) g0 grA ∧ insnWord (.iadd g0 (w6 9 0 6 4 5 0)) = some (g0, 0, 0, w6 9 0 6 4 5 0) ∧
    (formDAB intFmts (w6 9 0 6 4 5 0)).ok (w6 9 0 6 4 5 0) = false ∧ (st grA).formOf g0 (clsOf (0xFC#64 <<< 56)) (opOf (0xFC#64 <<< 56)) (insnOf (0xFC#64 <<< 56)) = none := by
  decide

theorem witness_IntegerAndConversionResults_integers : Ready (st grA) g0 grA ∧ (∀ i ∈ [w6 0 0 6 4 5 0, w6 1 0 6 4 5 0, w6 2 0 6 4 8 0, w6 3 0 126 4 8 0],
      (formDAB intFmts i).ok i = true) ∧ (formDABC intFmts (w6 3 0 6 4 8 10)).ok (w6 3 0 6 4 8 10) = true ∧
    (formDA [1, 3] (w6 1 0 6 4 0 0)).ok (w6 1 0 6 4 0 0) = true ∧ (formDAB [0, 2] (w6 2 0 6 4 8 0)).ok (w6 2 0 6 4 8 0) = true ∧
    (formShift [0, 2] (w6 2 0 6 4 5 0)).ok (w6 2 0 6 4 5 0) = true ∧ (formShift intFmts (w6 3 0 6 4 5 0)).ok (w6 3 0 6 4 5 0) = true ∧
    (formDAB [0] (w6 0 0 6 4 5 0)).ok (w6 0 0 6 4 5 0) = true ∧ (formDA [0, 2] (w6 2 0 6 4 0 0)).ok (w6 2 0 6 4 0 0) = true ∧
    (∀ m < 6, (formIset (w6 3 m 7 4 8 0)).ok (w6 3 m 7 4 8 0) = true) ∧ (formSel (w6 2 0 6 4 8 5)).ok (w6 2 0 6 4 8 5) = true ∧
    (formMov (w5 1 0 0 6 0 0xFFFF)).ok (w5 1 0 0 6 0 0xFFFF) = true ∧ (formMov (w6 2 0 6 4 0 0)).ok (w6 2 0 6 4 0 0) = true ∧
    (formMovhi (w5 0 0 0 6 0 0x1234)).ok (w5 0 0 0 6 0 0x1234) = true := by decide

theorem witness_FloatResults : Ready (st grA) g0 grA ∧ (∀ m < 4, ∀ f ∈ [4, 5, 6, 7], (formFloat (w6 f m 6 4 8 0) false true).ok (w6 f m 6 4 8 0) = true) ∧
    (formFloat (w6 5 3 6 4 8 10) true true).ok (w6 5 3 6 4 8 10) = true ∧ (formFloat (w6 6 0 6 4 5 0) false false).ok (w6 6 0 6 4 5 0) = true ∧
    (formDA floatFmts (w6 7 0 6 4 0 0)).ok (w6 7 0 6 4 0 0) = true ∧ (formFset (w6 4 13 6 4 5 0)).ok (w6 4 13 6 4 5 0) = true := by decide

theorem witness_ApproximateFunctions : Ready (st grA) g0 grA ∧ (formDA [4, 5] (w6 5 0 6 4 0 0)).ok (w6 5 0 6 4 0 0) = true ∧
    (formDA [4] (w6 4 0 6 4 0 0)).ok (w6 4 0 6 4 0 0) = true ∧ fF32.decode 0x7FC00000 = .nan ∧
    fF32.decode 0x3F800000 = .fin false 8388608 (-23) ∧
    (∀ k < 7, (approxExact (9 + k) false 8388608 (-23)).isSome = true) := by decide

theorem witness_IntegerAndConversionResults_conversions : Ready (st grA) g0 grA ∧ (formCvt (w7 2 0 1 6 4 0 0)).ok (w7 2 0 1 6 4 0 0) = true ∧
    (formCvt (w7 3 3 4 6 4 0 0)).ok (w7 3 3 4 6 4 0 0) = true ∧ (formCvt (w7 5 7 3 6 4 0 0)).ok (w7 5 7 3 6 4 0 0) = true ∧
    (∀ f ∈ [8, 9, 10, 11, 13], (formCvtPk (w6 f 0 6 4 0 0)).ok (w6 f 0 6 4 0 0) = isPacked f) ∧
    (formCvtUpk (w7 1 0 13 8 4 0 0)).ok (w7 1 0 13 8 4 0 0) = true := by decide

theorem witness_CrossLaneSpecialAndRandomResults : Ready (st grA) g0 grA ∧ (st grA).blockOf g0 grA = some blk0 ∧ (∀ m < 3, (formVote (w6 0 m 6 4 0 0)).ok (w6 0 m 6 4 0 0) = true) ∧
    (formShuffle (w6 2 0 6 4 5 0)).ok (w6 2 0 6 4 5 0) = true ∧ (∀ m < 4, (formElect (w6 0 m 6 4 0 0)).ok (w6 0 m 6 4 0 0) = decide (m % 2 = 1)) ∧
    (∀ k < 15, (formS2r (w5 (if k = 11 then 2 else 0) 0 0 6 0 k)).ok (w5 (if k = 11 then 2 else 0) 0 0 6 0 k) = true) ∧
    (formRnd (w6 4 0 8 4 10 12)).ok (w6 4 0 8 4 10 12) = true ∧ (formRkey (w6 2 0 0 4 0 0)).ok (w6 2 0 0 4 0 0) = true := by decide

/-- A group with an entry of a loop below one of a branch. -/
def grS : Group := grp (r45 0 1 1 1) [⟨0xF, 4, 0x2000, false⟩, ⟨0xF9, 0, 0x3000, true⟩]

/-- A group whose stack is full. -/
def grFull : Group := grp [] (List.replicate 16 ⟨9, 0, 0, false⟩)

theorem witness_ControlTransfers : Ready (st grA) g0 grA ∧ grA.m ≠ 0 ∧ (formCtl (w6 0 0 0 0 0 0) 0 0 true).ok (w6 0 0 0 0 0 0) = true ∧
    (formCtl (w6 0 0 0 4 0 5) 0 1 true).ok (w6 0 0 0 4 0 5) = true ∧ (formCtl (w6 0 0 6 0 0 5) 2 0 true).ok (w6 0 0 6 0 0 5) = true ∧
    (formCtl (w6 0 0 0 4 0 0) 0 2 false).ok (w6 0 0 0 4 0 0) = true := by decide

theorem witness_MaskStackSteps : Ready (st grS) g0 grS ∧ grS.stack.length < 16 ∧ grS.stack = ⟨0xF, 4, 0x2000, false⟩ :: ⟨0xF9, 0, 0x3000, true⟩ :: [] ∧
    grS.spilled = 0 ∧ (0xF &&& grS.l : BitVec 32) ≠ 0 ∧ (formCtl (w6 0 0 0 4 0 5) 0 1 true).ok (w6 0 0 0 4 0 5) = true ∧
    (formCtl (w6 0 0 0 4 0 0) 0 1 false).ok (w6 0 0 0 4 0 0) = true ∧ (formCtl (w6 0 0 0 0 0 0) 0 0 false).ok (w6 0 0 0 0 0 0) = true := by decide

theorem witness_MaskStackSteps_noLanes : let gr := { grS with l := 0xFFFFFFF0, m := 0 }
    Ready (st gr) g0 gr ∧ (0xF &&& gr.l : BitVec 32) = 0 ∧ gr.stack.length = 2 := by decide

theorem witness_MaskStackSteps_empty : Ready (st grA) g0 grA ∧ grA.stack = [] ∧ grA.spilled = 0 := by decide

theorem witness_MaskStackSteps_full : Ready (st grFull) g0 grFull ∧ grFull.stack.length = 16 ∧ (st grFull).blockOf g0 grFull = some blk0 ∧
    grFull.spilled + 8 ≤ 8 * blk0.spillUnits ∧ 8 * blk0.spillUnits < { grFull with spilled := 8 }.spilled + 8 ∧
    (∀ w ∈ [Wait.spill, .refill, .edit], (st { grFull with wait := w }).group g0 = some { grFull with wait := w }) := by decide


/-- The state of `st` with eight entries spilled to the area of the group's block. -/
def stSpilled (gr : Group) (es : List MEntry) : State :=
  State.reset.setTile 5 { Tile.empty with
    blocks := [(0, blk0)]
    groups := [(1, gr)]
    scratch := spillWrite [] (blk0.spillBase gr.rank) 0 es }

/-- A group with one hardware entry above eight spilled ones. -/
def grDeep : Group := { grS with stack := [⟨0xF, 4, 0x2000, false⟩], spilled := 8 }

/-- Spilled entries, the oldest first, of which the sixth oldest is a loop entry. -/
def deepLoop : List MEntry := List.replicate 5 ⟨0x1F, 0, 0x4000, false⟩ ++ ⟨0xFF, 0, 0x5000, true⟩ :: List.replicate 2 ⟨0xF9, 2, 0x6000, false⟩

theorem witness_MaskStackSteps_deep : let s := stSpilled grDeep deepLoop
    Ready s g0 grDeep ∧ s.blockOf g0 grDeep = some blk0 ∧ 0 < grDeep.spilled ∧ (∀ x ∈ grDeep.stack, x.loop = false) ∧
    spilledAt (s.tile 5).scratch (blk0.spillBase grDeep.rank) 0 8 = deepLoop ∧
    (deepLoop.reverse.takeWhile fun x => !x.loop).length = 2 ∧ (0xF &&& grDeep.l : BitVec 32) ≠ 0 ∧ grDeep.stack ≠ [] ∧
    (formCtl (w6 0 0 0 4 0 0) 0 1 false).ok (w6 0 0 0 4 0 0) = true ∧ (formCtl (w6 0 0 0 0 0 0) 0 0 false).ok (w6 0 0 0 0 0 0) = true := by decide +kernel

theorem witness_MaskStackSteps_noLoopSpilled : let es : List MEntry := List.replicate 8 ⟨0x1F, 0, 0x4000, false⟩
    let s := stSpilled grDeep es
    Ready s g0 grDeep ∧ s.blockOf g0 grDeep = some blk0 ∧ (∀ x ∈ grDeep.stack, x.loop = false) ∧
    (∀ x ∈ spilledAt (s.tile 5).scratch (blk0.spillBase grDeep.rank) 0 8, x.loop = false) := by decide +kernel

theorem witness_MaskStackSteps_timer : let s := stSpilled grDeep deepLoop
    Tbl.find ((s.setTile 5 { s.tile 5 with timers := [(1, 77)] }).tile 5).timers 1 = some 77 := by decide +kernel

theorem test_mbrk_edits_spilled_entries : (match exec (.mbrk g0 (w6 0 0 0 4 0 0)) (stSpilled grDeep deepLoop) with
    | .next t => (spilledAt (t.tile 5).scratch (blk0.spillBase grDeep.rank) 0 8).map (·.outer)
    | _ => []) = [0x1F, 0x1F, 0x1F, 0x1F, 0x1F, 0xFF, 0xF1, 0xF1] := by decide +kernel

/-! ## A module with an image, a partition of all spurs, a gibibyte of memory and a context -/

/-- The partition. -/
def part0 : PartEnt := ⟨0, 0, 16, 16, 4, true, 8, 2000, 1, 0⟩

/-- The image in effect. -/
def img0 : Img := ⟨[part0], [], [], true, true, false, false, []⟩

/-- Page tables in memory: level 0 at 0x10000, level 1 at 0x11000, and at 0x12000 one leaf that maps the first gibibyte to itself. -/
def tables : Memory := [(0x10000, 1), (0x10001, 0x10), (0x10002, 1), (0x11000, 1), (0x11001, 0x20), (0x11002, 1), (0x12000, 0xF)]

/-- The words of context 1. -/
def words1 : Ctx := ⟨0, false, 5, 0, 0x10000, 0, 4, 0, 0, false, 0x30000, 0x10000, 0, 0⟩

/-- Context 1, resident in slot 0. -/
def run1 (queues : Tbl Queue) : CtxRun := ⟨words1, some 0, false, 0, 0, 0, [], queues, [], 0, false, none, 0, 0, none, 0, false, false⟩

/-- A line that cistern 0 holds, all of its bytes valid: byte k is k + 1. -/
def lineAt (line : Nat) : CLine := ⟨line, line / 8 * 8 % 512, (List.range 128).map fun k => (k, BitVec.ofNat 8 (k + 1)), true, false, false, false, 0, 0⟩

/-- The module, with the lines given in cistern 0. -/
def demo (lines : List CLine) : State :=
  let s := State.reset.setReg (regCisRgnSize 0) (BitVec.ofNat 64 (2 ^ 30 + 2 ^ 40))
  { s with
    mem := ⟨tables, [], [], [], if lines = [] then [] else [(0, { Cistern.empty with lines := lines })], [⟨5, 30, 0, 0xF⟩]⟩
    hif := { s.hif with ctxs := [(1, run1 [])] }
    load := { s.load with img := some img0 }
    pwr := { s.pwr with linkUp := true } }

/-- The module with a group and its block on tile 5. -/
def demoG (lines : List CLine) (gr : Group) : State :=
  (demo lines).setTile 5 { Tile.empty with blocks := [(0, blk0)], groups := [(1, gr)] }

theorem demo_translates : (match (demo []).span 1 0x4000 8 .write with | .ok x t => decide (x = ⟨0x4000, 8, 0, 0x4000, false⟩) && decide (t = demo []) | _ => false) = true := by
  decide


/-! ## Scratch, loads, stores, atomics: witnesses -/

/-- A group whose R4 holds the addresses `a` and `b` in its two lanes. -/
def grAt (a b : Nat) : Group := grp (r45 a 0 b 0) []

/-- The scratch operand for a block on tile 6, of the same launch. -/
def twoTiles (gr : Group) (sc : List Scopy) : State :=
  ((demo []).setTile 5 { Tile.empty with blocks := [(0, blk0)], groups := [(1, gr)], scopys := sc }).setTile 6
    { Tile.empty with blocks := [(0, { blk0 with base := 0, num := 5 })] }

theorem witness_ScratchAccessAndCopies : Ready (st (grAt 0 252)) g0 (grAt 0 252) ∧ (st (grAt 0 252)).blockOf g0 (grAt 0 252) = some blk0 ∧
    (∀ f < 7, (formMem (w5 f 0 0 8 4 0) [0, 1] 1 false).ok (w5 f 0 0 8 4 0) = true ∧ (formMem (w5 f 6 0 8 4 0) [0, 2] 1 false).ok (w5 f 6 0 8 4 0) = true) ∧
    (∀ l ∈ (grAt 0 252).lanes, scratchAddr (grAt 0 252) (w5 4 0 0 8 4 0) l + widthBytes 4 ≤ blk0.visible) ∧
    ¬(∀ l ∈ (grAt 0 253).lanes, scratchAddr (grAt 0 253) (w5 4 0 0 8 4 0) l + widthBytes 4 ≤ blk0.visible) := by decide

/-- An SCOPY of 32 bytes from the block's address 224 to address 0. -/
def grCopy : Group := { grAt 0 0 with m := 1, regs := [(4, 224), (5, 32), (6, 0)] }

/-- A copy in flight. -/
def copyX : Scopy := ⟨1, ⟨blk0.cmd, blk0.num, grCopy.rank⟩, 6, 0, List.replicate 32 7⟩

theorem witness_ScratchAccessAndCopies_copies : let s := twoTiles grCopy []
    Ready s g0 grCopy ∧ s.blockOf g0 grCopy = some blk0 ∧ grCopy.m ≠ 0 ∧ (formScopy (w7 0 0 2 6 4 5 0)).ok (w7 0 0 2 6 4 5 0) = true ∧
    tileOfSpur (spurOfTile 5) 2 = 6 ∧ bVal grCopy (w7 0 0 2 6 4 5 0) 0 1 false = 32 ∧ 224 + 32 ≤ blk0.visible ∧
    (s.tile 6).siblings blk0 = [{ blk0 with base := 0, num := 5 }] ∧
    (formScwait (w6 0 0 0 0 0 0)).ok (w6 0 0 0 0 0 0) = true := by decide

theorem witness_ScratchAccessAndCopies_copyDone : let s := twoTiles grCopy [copyX]
    s.group g0 = some grCopy ∧ grCopy.wait ≠ .scwait ∧ ((s.tile 5).scopys.find? fun x => x.slot = 1) = some copyX ∧ copyX.dstTile ≠ 5 ∧
    (∃ b ∈ (s.tile 6).blocks, b.2.cmd = copyX.gid.cmd ∧ b.2.base ≤ copyX.dst ∧ copyX.dst + copyX.data.length ≤ b.2.base + b.2.visible) := by decide

/-- A load of line 128 of device memory, held by its cistern, in lane 0. -/
def grLd : Group := { grAt 0x4000 0 with m := 1 }

/-- The one translation of the demo context. -/
def leaf0 : XlatEntry := ⟨5, 30, 0, 0xF⟩

theorem maps_read : MapsTo (demoG [lineAt 128] grLd) 1 0x4000 .read 0 0x4000 := ⟨leaf0, by decide, by decide, by decide, by decide⟩

theorem maps_write : MapsTo (demoG [lineAt 128] grLd) 1 0x4000 .write 0 0x4000 := ⟨leaf0, by decide, by decide, by decide, by decide⟩

/-- The module with sector 0 of line 128 in the L1 of tile 5. -/
def demoL1 : State :=
  (demo [lineAt 128]).setTile 5 { Tile.empty with blocks := [(0, blk0)], groups := [(1, grLd)], l1 := [⟨128, 1, [(0, 9), (1, 8)]⟩] }

theorem witness_GlobalLoads_l1 : demoL1.armed = [] ∧ demoL1.ready g0 = some grLd ∧ demoL1.ctxOf g0 grLd = 1 ∧
    touched (laneAccesses grLd (w5 4 0 0 8 4 4)) = [(128, [0])] ∧ tagDenied (demoL1.reqTag (some 1)) (demoL1.lineTag 128) = false ∧
    (demoL1.tile 5).l1Has 128 0 = true ∧ demoL1.cached 5 0x4000 = some leaf0 ∧ (demoL1.walk 1 0x4000).1 = .leaf leaf0.leaf 30 ∧
    leafFor leaf0.leaf 30 0x4000 .read = .ok 0 0x4000 := by decide

theorem witness_GlobalLoads_answered : let s := demoG [lineAt 128] grLd
    s.armed = [] ∧ s.ready g0 = some grLd ∧ (∀ f < 7, (formMem (w5 f 0 0 8 4 4) [0, 1] 2 true).ok (w5 f 0 0 8 4 4) = true) ∧
    (formPref (w5 0 0 0 0 4 4)).ok (w5 0 0 0 0 4 4) = true ∧
    (match s.loadGlobal g0 (s.ctxOf g0 grLd) 0 (laneAccesses grLd (w5 4 0 0 8 4 4)) with | .stall _ => false | _ => true) = true ∧
    (match (s.issued g0 0x1000 []).loadGlobal g0 1 0 (laneAccesses grLd (w5 4 0 0 8 4 4)) with
      | .ok rd _ => decide (rd 0x4004 = 5) && decide (rd 0x4007 = 8) | _ => false) = true := by decide

theorem witness_GlobalLoads_near : HeldNear (demoG [lineAt 128] grLd) (.group 5 1) (some 1) 0x4000 8 0 (lineAt 128) ∧
    (demoG [lineAt 128] grLd).writeWaits 128 = false := by
  unfold HeldNear; decide

theorem test_load_near : (match (demoG [lineAt 128] grLd).vRead (.group 5 1) 1 (plainReq (some 1)) 0x4000 4 with
    | .ok bs _ => bs | _ => []) = [1, 2, 3, 4] := by decide

theorem witness_GlobalStoresEnterTheStoreQueue : let s := demoG [lineAt 128] grLd
    s.armed = [] ∧ s.ready g0 = some grLd ∧ (formMem (w5 4 0 0 8 4 4) [0, 2] 2 true).ok (w5 4 0 0 8 4 4) = true ∧ (w5 4 0 0 8 4 4).mod = 0 ∧
    touched (laneAccesses grLd (w5 4 0 0 8 4 4)) = [(128, [0])] ∧ s.ctxOf g0 grLd = 1 := by decide

/-- An atomic in lane 0 on scratch address `a`, with 5 in R8. -/
def grAtom (a : Nat) : Group := { grAt a 0 with m := 1, regs := [(4, BitVec.ofNat 32 a), (8, 5)] }

theorem witness_ScratchAccessAndCopies_atomics : Ready (st (grAtom 248)) g0 (grAtom 248) ∧ (st (grAtom 248)).blockOf g0 (grAtom 248) = some blk0 ∧
    (grAtom 248).lanes = [0] ∧ (∀ op < 8, (formAtom op (w7 2 0 1 6 4 8 (if op = 7 then 10 else 0))).ok (w7 2 0 1 6 4 8 (if op = 7 then 10 else 0)) = true) ∧
    248 % 8 = 0 ∧ 248 + 8 ≤ blk0.visible := by decide

theorem witness_MisalignedAccessesAreCounted_atomics : Ready (st (grAtom 252)) g0 (grAtom 252) ∧ (st (grAtom 252)).blockOf g0 (grAtom 252) = some blk0 ∧
    (grAtom 252).lanes = [0] ∧ (∀ op < 8, (formAtom op (w7 2 0 1 6 4 8 (if op = 7 then 10 else 0))).ok (w7 2 0 1 6 4 8 (if op = 7 then 10 else 0)) = true) ∧
    ((grAtom 252).rd 0 (regNum 4)).toNat % 8 = 4 := by decide


/-- Lanes 0, 3 and 5 with addresses 248, 252 and 240. -/
def grAtom3 : Group := { grAtom 248 with m := 0x29, regs := [(4, 248), (8, 5), (388, 252), (392, 5), (644, 240), (648, 5)] }

theorem witness_ScratchAccessAndCopies_atomLanes : Ready (st grAtom3) g0 grAtom3 ∧ (st grAtom3).blockOf g0 grAtom3 = some blk0 ∧
    grAtom3.lanes = [0, 3, 5] ∧ grAtom3.lanes.map (fun l => (grAtom3.rd l 4).toNat) = [248, 252, 240] ∧
    (∀ l ∈ grAtom3.lanes, (grAtom3.rd l 4).toNat % 8 = 0 → (grAtom3.rd l 4).toNat + 8 ≤ blk0.visible) ∧
    (grAtom3.rd 3 4).toNat % 8 ≠ 0 := by decide

/-- An atomic of lanes 0 and 3 on the words at 0x4000 and 0x4008 of device memory, and of lane 5 on an address that is not aligned. -/
def grAtomG : Group := { grAtom3 with regs := [(4, 0x4000), (8, 5), (388, 0x4008), (392, 5), (644, 0x4004), (648, 5)] }

theorem witness_ScratchAccessAndCopies_atomGlobal : let s := demoG [lineAt 128] grAtomG
    s.armed = [] ∧ s.ready g0 = some grAtomG ∧ s.blockOf g0 grAtomG = some blk0 ∧ s.ctxOf g0 grAtomG = 1 ∧
    (∀ op < 8, (formAtom op (w7 2 0 0 6 4 8 (if op = 7 then 10 else 0))).ok (w7 2 0 0 6 4 8 (if op = 7 then 10 else 0)) = true) ∧
    grAtomG.lanes.map (fun l => (grAtomG.rd64 l 4).toNat) = [0x4000, 0x4008, 0x4004] ∧ s.writeWaits 128 = false ∧
    (s.tile 5).storeQ = [] ∧ s.tileBoardBusy 5 = false := by decide

theorem maps_atomGlobal : ∀ l ∈ [0, 3], MapsTo (demoG [lineAt 128] grAtomG) 1 (grAtomG.rd64 l 4).toNat .write 0 (grAtomG.rd64 l 4).toNat := fun l hl => by
  rcases (by simpa using hl : l = 0 ∨ l = 3) with rfl | rfl <;> exact ⟨leaf0, by decide, by decide, by decide, by decide⟩

theorem near_atomGlobal : ∀ l ∈ [0, 3], HeldNear (demoG [lineAt 128] grAtomG) (.group 5 1) (some 1) (grAtomG.rd64 l 4).toNat 8 0 (lineAt 128) := by
  unfold HeldNear; decide

theorem test_atom_lanes_in_order : (match exec (.atomAdd g0 (w7 2 0 0 6 4 8 0)) (demoG [lineAt 128] grAtomG) with
    | .next t => (t.devBytes 0x4000 2, t.devBytes 0x4008 2, (t.reg (regDetCounter detAtomMisaligned)).toNat)
    | _ => ([], [], 0)) = ([6, 2], [14, 10], 1) := by decide

theorem witness_MisalignedAccessesAreCounted_global : let gr := { grAtomG with m := 0x20 }
    let s := demoG [] gr
    s.armed = [] ∧ s.ready g0 = some gr ∧ gr.lanes = [5] ∧ (gr.rd64 5 4).toNat % 8 ≠ 0 ∧ (s.tile 5).storeQ = [] ∧ s.tileBoardBusy 5 = false := by decide

/-! ## Fences, barrier, waits, events: witnesses -/

/-- A store of slot `k` that waits on tile 5 for line 128, with target `tgt`. -/
def qst (k tgt : Nat) : QStore := ⟨k, ⟨blk0.cmd, blk0.num, 2⟩, 1, tgt, 128, [(0, 9), (1, 8)], 0, false⟩

/-- Tile 5 of `demoG` with stores that wait and other groups of the block. -/
def withStores (lines : List CLine) (gr : Group) (qs : List QStore) (others : Tbl Group) (b : Block) : State :=
  (demo lines).setTile 5 { Tile.empty with blocks := [(0, b)], groups := (1, gr) :: others, storeQ := qs }

theorem witness_FencesBarriersAndEvents_fence : Ready (demoG [] grA) g0 grA ∧ (∀ k < 4, (formFence (w6 0 (4 * k) 0 0 0 0)).ok (w6 0 (4 * k) 0 0 0 0) = true) ∧
    (∀ k < 4, let gr := { grA with wait := .fence k }
      let s := withStores [] gr (if k < 2 then [qst 1 0] else [qst 2 0]) [] blk0
      s.group g0 = some gr ∧ (let mine := (s.tile 5).storeQ.filter fun e => e.slot = 1;
        k < 2 ∨ (k = 2 ∧ mine = []) ∨ (3 ≤ k ∧ mine = [] ∧ s.boardBusy (.store 5 1) = false))) := by decide

theorem witness_FencesBarriersAndEvents_bar : let s := withStores [] grA [] [(2, { grA with rank := 1, wait := .barrier })] blk0
    Ready s g0 grA ∧ (formBar (w6 0 1 0 0 0 0)).ok (w6 0 1 0 0 0 0) = true ∧ grA.m ≠ 0 ∧ s.blockOf g0 grA = some blk0 ∧
    (∃ e ∈ (s.tile 5).groups.filter (fun e => decide (e.2.block = grA.block) && decide (e.1 ≠ 1)), e.1 ∉ blk0.arrived) ∧
    (let b := { blk0 with arrived := [2] }
     let s := withStores [] grA [] [(2, { grA with rank := 1, wait := .barrier })] b
     s.blockOf g0 grA = some b ∧ ∀ e ∈ (s.tile 5).groups.filter (fun e => decide (e.2.block = grA.block) && decide (e.1 ≠ 1)), e.1 ∈ b.arrived) := by decide

/-- An EVSIG of value 6 and EVWAIT for 6 on the event at 0x4000, or at another address. -/
def grEv (a : Nat) : Group := { grAt a 0 with regs := [(4, BitVec.ofNat 32 a), (8, 6)] }

/-- A line of cistern 0 whose first word is `v`. -/
def lineEv (v : Nat) : CLine := { lineAt 128 with bytes := bytesAt 0 (leBytes 8 v ++ List.replicate 120 3) }

theorem maps_ev (acc : Access) : MapsTo (demoG [lineEv 5] (grEv 0x4000)) 1 0x4000 acc 0 0x4000 :=
  ⟨leaf0, by decide, by decide, by cases acc <;> decide, by decide⟩

theorem witness_EventsOfKernels_evsig : let s := demoG [lineEv 5] (grEv 0x4000)
    s.armed = [] ∧ s.ready g0 = some (grEv 0x4000) ∧ (formEvsig (w6 0 8 0 4 8 0)).ok (w6 0 8 0 4 8 0) = true ∧ (grEv 0x4000).m ≠ 0 ∧
    ((grEv 0x4000).rd64 0 4).toNat % 8 = 0 ∧ ((grEv 0x4000).rd64 0 8).getLsbD 63 = false ∧ 2 ≤ (w6 0 8 0 4 8 0).mod.toNat / 4 ∧
    (s.tile 5).storeQ = [] ∧ s.tileBoardBusy 5 = false ∧ s.writeWaits 128 = false ∧ HeldNear s (.group 5 1) (some 1) 0x4000 8 0 (lineEv 5) := by
  unfold HeldNear; decide +kernel

theorem witness_EventsOfKernels_evwait : let s := demoG [lineEv 5] (grEv 0x4000)
    (formEvwait (w6 0 0 6 4 8 0)).ok (w6 0 0 6 4 8 0) = true ∧ s.ready g0 = some (grEv 0x4000) ∧
    (demoG [lineEv 5] (grEv 0x4004)).ready g0 = some (grEv 0x4004) ∧ ((grEv 0x4004).rd64 0 4).toNat % 8 ≠ 0 := by decide +kernel

/-- A WAITNE on scratch address 0, with 5 in R8. -/
def grWait : Group := { grAt 0 0 with regs := [(8, 5)] }

theorem witness_WaitsOnWords_scratch : let s := (demoG [] grWait).setTile 5 { (demoG [] grWait).tile 5 with scratch := [(512, 4)] }
    let s2 := (demoG [] grWait).setTile 5 { (demoG [] grWait).tile 5 with scratch := [(512, 5)] }
    Ready s g0 grWait ∧ Ready s2 g0 grWait ∧ s.blockOf g0 grWait = some blk0 ∧ (formWaitne (w7 0 0 1 6 4 8 0)).ok (w7 0 0 1 6 4 8 0) = true ∧
    leVal (Memory.reads (s.tile 5).scratch 512 4) ≠ 5 ∧ leVal (Memory.reads (s2.tile 5).scratch 512 4) = 5 ∧ 0 + 4 ≤ blk0.visible := by decide

theorem witness_MisalignedAccessesAreCounted_waits : let u := demoG [] (grEv 0x4004)
    Ready u g0 (grEv 0x4004) ∧ u.blockOf g0 (grEv 0x4004) = some blk0 ∧ (grEv 0x4004).m ≠ 0 ∧
    (formWaitne (w7 2 0 0 6 4 8 0)).ok (w7 2 0 0 6 4 8 0) = true ∧ ((grEv 0x4004).rd64 0 4).toNat % 8 ≠ 0 ∧
    (let v := demoG [] { grWait with regs := [(4, 2), (8, 5)] }
     Ready v g0 { grWait with regs := [(4, 2), (8, 5)] } ∧ (formWaitne (w7 0 0 1 6 4 8 0)).ok (w7 0 0 1 6 4 8 0) = true ∧ 2 % 4 ≠ 0) := by decide

theorem witness_Waits_memory : let s := demoG [lineEv 5] (grEv 0x4000)
    s.ready g0 = some (grEv 0x4000) ∧ (formWaitne (w7 2 0 0 6 4 8 0)).ok (w7 2 0 0 6 4 8 0) = true ∧ ((grEv 0x4000).rd64 0 4).toNat % 8 = 0 := by
  decide +kernel

/-- A wait on the word at 0x4000. -/
def watchAt (w : WatchAt) (event : Bool) (cmp : Nat) : Watch := ⟨w, 0x4000, true, event, BitVec.ofNat 64 cmp, 6⟩

/-- The group that waits. -/
def grW (w : WatchAt) (event : Bool) (cmp : Nat) : Group := { grA with wait := .watch (watchAt w event cmp) }

theorem witness_WaitsAtTheirPlace_arrives : let gr := grW .sent false 5
    let s := demoG [lineEv 5] gr
    s.armed = [] ∧ s.group g0 = some gr ∧ (s.tile 5).holdsStore 0 128 = false ∧ s.chanOf 0x4000 = 0 ∧ (s.cistern 0).holding < 256 ∧
    HeldNear s (.group 5 1) (some (s.ctxOf g0 gr)) 0x4000 8 0 (lineEv 5) := by
  unfold HeldNear; decide +kernel

/-- A cistern that holds 256 waits which no write has ended. -/
theorem witness_WaitsAtTheirPlace_full : let gr := grW .sent false 5
    let s := (demoG [lineEv 5] gr).setCistern 0 { Cistern.empty with lines := [lineEv 5], waits := List.replicate 256 ⟨7, 1, watchAt .held false 5, none, false⟩ }
    s.group g0 = some gr ∧ 256 ≤ (s.cistern 0).holding ∧ Watch.fires (watchAt .sent false 5) 5 = false ∧
    HeldNear s (.group 5 1) (some (s.ctxOf g0 gr)) 0x4000 8 0 (lineEv 5) := by
  unfold HeldNear; decide +kernel

/-- The same state with an answer for the wait held at cistern 0, from a poisoned line or not. -/
def answered (gr : Group) (w : Watch) (poison : Bool) : State :=
  (demoG [lineEv 6] gr).setCistern 0 { Cistern.empty with lines := [lineEv 6], waits := [⟨5, 1, w, some 6, poison⟩] }

theorem witness_WaitsAtTheirPlace_answers : (∀ event poison : Bool, let gr := grW .held event 5
      let s := answered gr (watchAt .held event 5) poison
      s.group g0 = some gr ∧ s.heldAnswer g0 (watchAt .held event 5) = some (6, poison) ∧ (watchAt .held event 5).dst + (watchAt .held event 5).regs ≤ 128) ∧
    (demoG [] (grW .early false 5)).group g0 = some (grW .early false 5) ∧
    (let s := { (demoG [] (grW .host false 5)) with mem := { (demo []).mem with host := [(0x4000, 7)] } };
      s.group g0 = some (grW .host false 5) ∧ (s.tile 5).holdsStore 2 128 = false ∧ s.hostReach (.group 5 1) = .ok ∧ s.hostCut = false ∧
      { s with trust := { s.trust with ide := .insecure } }.hostCut = true ∧ Watch.fires (watchAt .host false 5) 7 = true ∧
      Watch.fires (watchAt .host false 7) 7 = false ∧ leVal (Memory.reads s.mem.host 0x4000 8) = 7) := by decide +kernel

/-! ## Cisterns and HBM: witnesses -/

theorem witness_CisternsServeReadsWritesAndAtomics_read : let s := demo [lineAt 128]
    s.armed = [] ∧ (0x4078 % 128 + 8 ≤ 128) ∧ (s.home 0x4078).isSome ∧ s.lineHome 128 = some (0, 128, 0) ∧ (s.cistern 0).lineOf 128 = some (lineAt 128) ∧
    (∀ k < 8, (Tbl.find (lineAt 128).bytes (0x4078 % 128 + k)).isSome) ∧ (lineAt 128).poison = false ∧
    tagDenied (s.reqTag (some 1)) (lineAt 128).tag = false ∧ s.domState (domOfChan 0) = 0 ∧
    s.heldBefore (.access 0x4078 8) (some 1) 128 = false ∧ (∀ k < 8, s.deviceOwn (0x4078 + k) = false) := by decide

theorem witness_CisternsServeReadsWritesAndAtomics_write : let s := withStores [lineAt 128] grA [qst 1 0] [] blk0
    s.armed = [] ∧ (s.tile 5).storeQ[0]? = some (qst 1 0) ∧ (qst 1 0).tgt = 0 ∧ s.storeReady 5 0 (qst 1 0) = true ∧ s.lineHome 128 = some (0, 128, 0) ∧
    (s.cistern 0).lineOf 128 = some (lineAt 128) ∧ tagDenied (s.reqTag (some 1)) 0 = false ∧ s.reachDoms (wayTo (.store 5 1) 0) = .ok ∧
    (qst 1 0).hint = 0 ∧ s.heldBefore (.store 5 1) (some 1) 128 = false ∧ s.writeWaits 128 = false ∧ Tbl.rising (qst 1 0).bytes = true := by decide

theorem witness_CisternsServeReadsWritesAndAtomics_atomics : let s := demo [lineAt 128]
    (∀ op < 8, 0 ∈ atomFmts op) ∧ 0x407C % (bitsOfFmt 0 / 8) = 0 ∧ s.writeWaits 128 = false ∧
    s.heldBefore (.access 0x407C 4) (some 1) 128 = false ∧ (∀ k < 4, s.deviceOwn (0x407C + k) = false) ∧ (∀ k < 4, (Tbl.find (lineAt 128).bytes (0x407C % 128 + k)).isSome) := by decide

/-- Sixteen lines of set 128 of cistern 0. -/
def fullSet (dirty : Bool) : List CLine := (List.range 16).map fun k => { lineAt (128 + 512 * k) with set := 128, bytes := [(127, BitVec.ofNat 8 k)], dirty := dirty }

theorem witness_HbmLinesAndTheirController : let s := demo [lineAt 136]
    s.armed = [] ∧ s.lineHome 128 = some (0, 128, 0) ∧ (s.cistern 0).lineOf 128 = none ∧
    ((s.cistern 0).lines.filter fun l => l.set = 128).length < 16 ∧ s.reachLine .noone none 128 true = .ok ∧ s.lineHome 136 = some (0, 136, 0) ∧
    (lineAt 136).dirty = true ∧ (s.cistern 0).lineOf 136 = some (lineAt 136) ∧ s.hbmPoison 136 = false ∧ s.reachLine .noone none 136 true = .ok ∧
    Tbl.rising (lineAt 136).bytes = true ∧ (∀ e ∈ (lineAt 136).bytes, e.1 < 128) := by decide +kernel

theorem witness_HbmLinesAndTheirController_victim : let s := demo (fullSet true)
    s.armed = [] ∧ s.domState (domOfChan 0) = 0 ∧ s.domState (domOfStack 0) = 0 ∧ 16 ≤ ((s.cistern 0).lines.filter fun l => l.set = 128).length ∧
    (match pickVictim 16 (s.cistern 0).lines 128 with
      | (_, some v) => v.dirty && !v.poison && Tbl.rising v.bytes && v.bytes.all (fun e => decide (e.1 < 128)) | _ => false) = true := by decide

/-- Requests at a channel controller: class 1 behind class 3, another class 3 behind a class 1 of its line. -/
def reqs0 : List ChanReq := [⟨3, 0, 7, true⟩, ⟨1, 0, 8, false⟩, ⟨1, 0, 9, false⟩, ⟨3, 0, 9, true⟩]

theorem witness_ChannelController_requests : slotWinner reqs0 0 (fun _ => true) = some ⟨1, 0, 8, false⟩ ∧
    slotWinner reqs0 15 (fun _ => true) = some ⟨3, 0, 7, true⟩ ∧ slotWinner reqs0 15 (fun l => decide (l = 8)) = some ⟨3, 0, 7, true⟩ ∧
    guardLine reqs0 = some (7, 0) ∧ slotWinner reqs0 0 (fun l => decide (l = 7)) = some ⟨3, 0, 7, true⟩ ∧
    (∃ x ∈ firstOfLine reqs0 [], x.cls = 3) ∧ slotWinner [] 0 (fun _ => true) = none ∧
    (∀ x ∈ reqs0, x.cls = 1 ∨ x.cls = 2 ∨ x.cls = 3) := by decide

theorem witness_ChannelController_lines :
    let s := (demo [lineAt 128]).setCistern 0 { Cistern.empty with lines := [lineAt 128], reqs := reqs0 }
    s.domState (domOfStack 0) = 0 ∧
    (let u := (demo [lineAt 128]).setReg regCisErrCfg (BitVec.ofNat 64 (2 ^ 40))
     u.armed = [] ∧ u.lineHome 128 = some (0, 128, 0) ∧ u.fld regCisErrCfg 40 8 ≠ 0 ∧ u.reachLine .noone none 128 true = .ok ∧ u.wordPoison 128 7 = false ∧
     (u.cistern 0).lineOf 128 = some (lineAt 128)) := by decide

theorem test_guard_counts_same_line_requests : guardLine [⟨1, 0, 9, false⟩, ⟨1, 0, 8, false⟩, ⟨3, 0, 9, true⟩] = some (9, 1) := by decide

/-! ## Arrays, well, statistics: witnesses -/

/-- A claim of block 0 with a queue. -/
def clm (q : List ArrInsn) : Claim := { Claim.fresh 0 with queue := q }

/-- Tile 5 with the group, its block and a claim. -/
def withClaim (gr : Group) (c : Claim) (scr : Memory) : State :=
  (demo []).setTile 5 { Tile.empty with blocks := [(0, { blk0 with base := 0, visible := 8192 })], groups := [(1, gr)], claim := some c, scratch := scr }

/-- An array instruction. -/
def ai (op f m e d a b b2 c c2 : Nat) : ArrInsn := ⟨op, f, m, e, BitVec.ofNat 32 d, 0, BitVec.ofNat 32 a, BitVec.ofNat 32 b, BitVec.ofNat 32 b2,
  BitVec.ofNat 32 c, BitVec.ofNat 32 c2, 0, 0, false, []⟩

/-- A WCLR of one row. -/
def aiClr : ArrInsn := ai 6 0 0 0 0 127 0 0 0 0

theorem witness_ArrayInstructionsEnterTheQueue : let s := withClaim grA (clm (List.replicate 15 aiClr)) []
    Ready s g0 grA ∧ grA.m ≠ 0 ∧ (s.tile 5).claim = some (clm (List.replicate 15 aiClr)) ∧ (clm (List.replicate 15 aiClr)).queue.length < 16 ∧
    16 ≤ (clm (List.replicate 16 aiClr)).queue.length ∧ (formAload s g0 (w7 8 0 0 0 4 5 0)).ok (w7 8 0 0 0 4 5 0) = true ∧
    (formAstream s g0 (w7 8 3 0 6 4 5 8)).ok (w7 8 3 0 6 4 5 8) = true ∧ (formGpair s g0 (w7 8 0 0 6 4 5 8)).ok (w7 8 0 0 6 4 5 8) = true ∧
    (formWdrain s g0 (w7 11 0 0 6 4 8 9)).ok (w7 11 0 0 6 4 8 9) = true ∧ (formWreduce s g0 (w7 0 0 0 6 4 8 0)).ok (w7 0 0 0 6 4 8 0) = true ∧
    (formWacc s g0 (w7 0 0 0 0 4 5 0)).ok (w7 0 0 0 0 4 5 0) = true ∧ (formWclr s g0 (w7 0 0 0 0 4 5 0)).ok (w7 0 0 0 0 4 5 0) = true ∧
    (formAmode s g0 (w7 0 0 1 0 0 0 0)).ok (w7 0 0 1 0 0 0 0) = true := by decide

theorem witness_ArrayInstructionsStartAndAreWaitedFor_start : let s := withClaim grA (clm [aiClr]) []
    s.armed = [] ∧ (s.tile 5).claim = some (clm [aiClr]) ∧ Tbl.find (s.tile 5).blocks 0 = some { blk0 with base := 0, visible := 8192 } ∧
    (s.tile 5).groupsOf 0 ≠ [] ∧ (clm [aiClr]).mayStart aiClr = true ∧ (clm [aiClr]).valid aiClr = true ∧ (∀ r ∈ aiClr.ranges, r.1 + r.2 ≤ 8192) ∧
    (clm []).mayStart { aiClr with op := 0 } = true ∧ ({ clm [] with amode := some aiClr }).mayStart aiClr = false ∧
    (clm []).valid { aiClr with a := 128 } = false ∧
    (clm []).mayStart (ai 2 8 0 0 0 0 0 0 64 0) = true ∧ (clm []).valid (ai 2 8 12 0 0 0 0 0 64 0) = false ∧
    (let c := { clm [] with prim := { Arr.empty with active := ⟨8, 0, [], []⟩ }, part := { Arr.empty with active := ⟨8, 0, [], []⟩ } }
     c.valid (ai 2 8 12 0 0 0 0 0 64 0) = true ∧ c.bwd = false ∧ { c with bwd := true }.valid (ai 2 8 12 0 0 0 0 0 64 0) = true) := by decide

theorem witness_ArrayInstructionsStartAndAreWaitedFor_waits : (formUwait (w7 0 0 15 0 0 0 0)).ok (w7 0 0 15 0 0 0 0) = true ∧
    (let gr := { grA with wait := .uwait 1 5 }
     let s := withClaim gr (clm []) []
     s.group g0 = some gr ∧ s.unitsDone g0 1 5 = true ∧ (clm []).block = gr.block ∧
     (withClaim gr (clm [aiClr]) []).unitsDone g0 1 5 = false) := by decide

/-- An ASTREAM with CLR of one row of format 8 from scratch into row 127. -/
def aiStream : ArrInsn := ai 1 8 2 0 127 0 0 0 1 64

/-- A claim that runs it, with elements in the active buffer. -/
def clmStream : Claim := { clm [] with prim := { Arr.empty with active := ⟨8, 0, [(0, 3), (33, 255), (2047, 128)], []⟩, stream := some aiStream } }

theorem witness_ArrayAndWellResults_stream : let s := withClaim grA clmStream [(0, 5), (1, 0xFE), (63, 0x80)]
    let m := (s.tile 5).scratch
    let i := aiStream
    s.armed = [] ∧ (s.tile 5).claim = some clmStream ∧ i.op = 1 ∧ i.src = 0 ∧ i.clears i.arr = true ∧ (clmStream.arr i.arr).stream = some i ∧
    clmStream.frozen 0 = false ∧ clmStream.behind i = false ∧
    (let a := clmStream.arr i.arr
     let beta := (BitVec.ofInt 16 (expWord i.b + arrC i.fmt + a.active.tau)).toInt
     let xs := fun r => streamVals i.fmt (expWord i.b) (Memory.reads m (0 + (i.a.toNat + r * i.c2.toNat)) (streamRow i.fmt))
     let terms := fun r n => (List.range 64).map fun k => productUnits beta i.sh ((xs r).getD k .nan) (a.active.val k n)
     let finite := fun (v : FVal) => v ≠ .nan ∧ ∀ neg : Bool, v ≠ .inf neg
     (∀ r < i.c.toNat, ∀ k < 64, finite ((xs r).getD k .nan)) ∧ (∀ k < 64, ∀ n < 32, finite (a.active.val k n)) ∧
     ∀ r < i.c.toNat, ∀ n < 32, -(2 ^ 191) ≤ ((terms r n).map (·.1)).sum ∧ ((terms r n).map (·.1)).sum < 2 ^ 191) := by decide +kernel

theorem witness_ArrayAndWellResults_others : let l := ai 0 8 0 0 0 0 0 0 0 0
    (({ clm [] with prim := { Arr.empty with load := some l } }.arr l.arr).load = some l ∧ l.op = 0 ∧ l.src = 0) ∧
    (({ clm [] with prim := { Arr.empty with drain := some aiClr } }.arr aiClr.arr).drain = some aiClr ∧ aiClr.op = 6) ∧
    { clm [] with amode := some (ai 7 0 0 1 0 0 0 0 0 0) }.amode = some (ai 7 0 0 1 0 0 0 0 0 0) := by decide

/-- A WDRAIN of row 127 in F32 to scratch. -/
def aiDrain : ArrInsn := ai 3 11 0 0 0 127 0 0 0 0

theorem witness_ArrayAndWellResults_drain : let c := { clm [] with prim := { Arr.empty with acc := [(4064, ⟨5, false, false, false, false⟩)], rows := [(127, ⟨95, 0⟩)], drain := some aiDrain } }
    let s := withClaim grA c []
    (s.tile 5).claim = some c ∧ aiDrain.op = 3 ∧ aiDrain.port87 = 0 ∧ aiDrain.fn = 0 ∧ s.statVa 1 0 = none ∧
    (∀ r < aiDrain.rows, ∀ n < 32, let x := (c.arr 0).accAt (127 + r) n; x.nan = false ∧ x.pinf = false ∧ x.ninf = false ∧ x.ovf = false) ∧
    c.frozen 0 = false ∧ c.behind aiDrain = false := by decide

theorem witness_RawRecordSums : let r : RawRec := ⟨⟨BitVec.ofInt 192 (-5), false, false, false, false⟩, -3, false⟩
    let a : Acc := ⟨BitVec.ofInt 192 (2 ^ 191 - 1), false, false, false, false⟩
    a.ovf = false ∧ r.acc.ovf = false ∧ (r.units 0).1 = 0 ∧ (r.units 0).2 = true ∧ (r.units (-5)).1 = -20 ∧
    (-2 ^ 191 : Int) ≤ a.x.toInt + -20 ∧ (BitVec.ofInt 192 (-(2 ^ 191))).toInt + -20 < -(2 ^ 191) ∧ { r with acc := { r.acc with ovf := true } }.acc.ovf = true ∧ r.resv = false ∧ -(2 ^ 15) ≤ r.base ∧ r.base < 2 ^ 15 ∧ { a with ovf := true }.ovf = true ∧
    2 ^ 191 ≤ a.x.toInt + 1 ∧ a.x.toInt + (-1) < 2 ^ 191 := by decide

/-- The demo with a statistics table for context 1 at 0x4000. -/
def statDemo (gr : Group) : State :=
  let s := demoG [lineAt 128] gr
  { s with hif := { s.hif with ctxs := [(1, { run1 [] with words := { words1 with stEn := true, stBase := 0x4000, stLog2 := 3 } })] } }

/-- The instruction's group. -/
def grSt : Group := grp [(4, 0), (5, 9), (388, 7)] []

theorem witness_StatisticsInstructions_noTable : let s := demoG [] grSt
    Ready s g0 grSt ∧ grSt.m ≠ 0 ∧ s.statVa (s.ctxOf g0 grSt) 0 = none ∧ (∀ m < 7, (formStat (w6 0 m 6 4 0 0) 2 0 true).ok (w6 0 m 6 4 0 0) = true ∧
      (formStat (w6 0 m 0 4 6 0) 0 2 true).ok (w6 0 m 0 4 6 0) = true) ∧ (formStat (w6 0 0 0 4 0 0) 0 0 false).ok (w6 0 0 0 4 0 0) = true := by decide

theorem witness_StatisticsInstructions : let s := statDemo grSt
    s.statVa (s.ctxOf g0 grSt) 0 = some 0x4000 ∧ s.behindStores g0 1 0x4000 = false ∧ (s.issued g0 0x1000 []).behindStores g0 1 0x4000 = false ∧
    (match s.vRead (.group 5 1) 1 (plainReq (some 1)) 0x4000 52 with | .ok bs _ => decide (bs.length = 52) | _ => false) = true ∧
    (match (s.issued g0 0x1000 []).vRead (.group 5 1) 1 (plainReq (some 1)) 0x4000 52 with | .ok bs _ => decide (bs.length = 52) | _ => false) = true := by decide +kernel

theorem witness_StatisticsInstructions_modify : let s := statDemo grSt
    (match s.vModify (.group 5 1) 1 0x4000 52 (fun _ => statClear), (s.issued g0 0x1000 []).vModify (.group 5 1) 1 0x4000 52 (fun _ => statClear) with
      | .ok bs _, .ok _ t => decide (bs.length = 52) && decide (t.devVal 0x4000 48 = 0) | _, _ => false) = true := by decide +kernel


/-! ## Descriptors and pumps: witnesses -/

/-- A descriptor: base, format, extents and strides of its dimensions. -/
def tdesc (base fmt layout pfd : Nat) (dims : List (Nat × Nat)) : TDesc :=
  BitVec.ofNat 512 (base + fmt * 2 ^ 57 + dims.length * 2 ^ 61 + layout * 2 ^ 121 + pfd * 2 ^ 123 +
    (dims.zipIdx.map fun e => (e.1.1 + e.1.2 * 2 ^ 32) * 2 ^ (128 + 64 * e.2)).sum)

/-- A FEED of 64 bytes of line 128. -/
def dFeed : TDesc := tdesc 0x4000 8 0 1 [(64, 1)]

/-- A SINK of 64 bytes into line 128. -/
def dSink : TDesc := tdesc 0x4000 8 0 0 [(64, 1)]

/-- A descriptor on a pump. -/
def pd (d : TDesc) (role pos : Nat) (full : Bool) : PumpDesc := ⟨d, role, 0, 64, 1, pos, 0, full, 0, [], 0, false⟩

/-- The group that issues PDESC with the descriptor at scratch address 64. -/
def grPd : Group := { grAt 64 0 with regs := [(4, 64), (8, 0), (9, 64)] }

/-- Its tile. -/
def pdTile (d : TDesc) (c : Claim) : State := withClaim grPd c (((leBytes 64 d.toNat).zipIdx.map fun e => (64 + e.2, e.1)).filter fun e => e.2 ≠ 0)

/-- A PDESC word of a role: the descriptor in scratch, pump 0. -/
def iPd (role : Nat) : Insn := w7 0 role 1 6 4 (if role % 2 = 1 then 8 else 0) (if role % 2 = 1 then 9 else 0)

/-- The descriptor that the block's scratch holds. -/
def dAt (s : State) : TDesc := BitVec.ofNat 512 (leVal (Memory.reads (s.tile 5).scratch 64 64))

theorem witness_DescriptorsEnterAndLeavePumps : let s := pdTile dFeed (clm [])
    Ready s g0 grPd ∧ (∀ role < 4, (formPdesc s g0 (iPd role)).ok (iPd role) = true) ∧ (s.tile 5).claim = some (clm []) ∧
    dAt s = dFeed ∧ tCheck dFeed 0 0 0 = true ∧ tCheck dFeed 1 0 64 = true ∧ tAligned dFeed = true ∧ tCheck dSink 2 0 0 = true ∧
    tCheck dSink 3 0 64 = true ∧ tAligned dSink = true ∧ tDisjoint dSink = true := by decide +kernel

theorem witness_DescriptorsEnterAndLeavePumps_refused : tCheck (tdesc 0x4000 14 0 0 [(64, 1)]) 0 0 0 = false ∧
    (let d := tdesc 0x4001 9 0 0 [(64, 1)]; tCheck d 0 0 0 = true ∧ tAligned d = false) ∧
    (let d := tdesc 0x4000 8 0 0 [(64, 1), (2, 63)]; tCheck d 2 0 0 = true ∧ tAligned d = true ∧ tDisjoint d = false) ∧
    64 ≤ (List.replicate 64 (pd dFeed 0 0 false)).length := by decide +kernel

theorem witness_DescriptorsEnterAndLeavePumps_complete : let c := { clm [] with pump0 := { Pump.empty with rd := [pd dFeed 0 64 true], wr := [pd dFeed 2 64 true] } }
    let s := pdTile dFeed c
    (s.tile 5).claim = some c ∧ Tbl.find (s.tile 5).blocks 0 = some { blk0 with base := 0, visible := 8192 } ∧ (s.tile 5).groupsOf 0 ≠ [] ∧
    (∀ q ∈ s.ridge.reqs, q.owner ≠ .pump 5 2) ∧ (pd dFeed 0 64 true).full = true ∧ (pd dFeed 1 0 false).full = false := by decide +kernel

theorem witness_DeliveryPositions : let d := tdesc 0x4000 8 0 0 [(5, 1), (3, 8)]
    tNdim d ≠ 0 ∧ tNdim d ≤ 6 ∧ (∀ k < tNdim d, tExt d k ≠ 0) ∧ (tTrn d = true → 2 ≤ tNdim d) ∧ tIdxEn d = false ∧ tDisjoint d = true ∧
    14 < tTotal d ∧ ((tDims d).map fun k => (tExt d k - 1) * (tStr d k).natAbs).sum < 2 ^ 63 ∧ (let e := d ||| BitVec.ofNat 512 (2 ^ 105); tTrn e = true ∧ 2 ≤ tNdim e ∧ tDisjoint e = true) := by decide +kernel

/-- The module with tile 5 as `pdTile` and line 128 in cistern 0. -/
def pumpDemo (line : CLine) (c : Claim) (gr : Group) : State :=
  (demo [line]).setTile 5 { Tile.empty with blocks := [(0, { blk0 with base := 0, visible := 8192 })], groups := [(1, gr)], claim := some c }

theorem witness_PumpsReadAndWrite_near : let c := { clm [] with pump1 := { Pump.empty with rd := [pd dFeed 0 64 true, pd (tdesc 0x4000 8 0 1 [(64, 1), (2, 64)]) 0 64 false] } }
    let s := pumpDemo (lineAt 128) c grA
    let x := pd (tdesc 0x4000 8 0 1 [(64, 1), (2, 64)]) 0 64 false
    s.armed = [] ∧ (s.tile 5).claim = some c ∧ 0 < x.pos ∧ tSlice x.raw = 0 ∧ tPiece x.raw 64 = 64 ∧
    (match s.elemRead (.pump 5 1) 1 x x.pos (tPiece x.raw x.pos) with
      | .ok es t => decide (es.1.length = 64) && decide (es.1.headD (0, 0) = (65, 0)) && decide (t.armed = []) | _ => false) = true := by
  decide +kernel

theorem witness_PumpsReadAndWrite_far : let x := pd (tdesc 0x4000 8 0 1 [(64, 1), (2, 64)]) 0 64 false
    let y := { x with far := 64 + min (tPiece x.raw 64) (tTotal x.raw - 64) }
    (pd dFeed 0 64 true).prefetches = false ∧ x.prefetches = true ∧ max x.far x.pos = 64 ∧ y.ahead ≤ 2 ^ (tPfd x.raw + 10) ∧
    ([pd dFeed 0 64 true, x].map (·.ahead)).sum + (y.ahead - x.ahead) ≤ 0x200000 ∧
    (let all := ([pd dFeed 0 64 true, x].map (·.ahead)).sum
     0 < min (tPiece x.raw 64) (min (tTotal x.raw - 64) (8 * min (2 ^ (tPfd x.raw + 10) - x.ahead) (0x200000 - all) / memBits (tFmt x.raw)))) ∧
    (let z := { pd (tdesc 0x4000 9 1 1 [(4096, 1)]) 0 0 false with far := 1024 }
     z.prefetches = true ∧ min (2 ^ (tPfd z.raw + 10) - z.ahead) 0x200000 = 0) := by
  decide +kernel

theorem test_far_prefetch_below_a_piece : let d := tdesc 0x4000 9 1 1 [(4096, 1)]
    let x := pd d 0 0 false
    memBits (tFmt d) = 16 ∧ min (tPiece d 0) (8 * min (2 ^ (tPfd d + 10) - x.ahead) 0x200000 / memBits (tFmt d)) = 1024 := by
  decide +kernel

theorem witness_PumpsReadAndWrite_deliver : let c := fun u => { clm [] with pump0 := { Pump.empty with landing := [u] } }
    let f : Landed := ⟨false, 2, [(0, [1, 2])]⟩
    let g : Landed := ⟨true, 2, [(8190, [1, 2])]⟩
    let h : Landed := ⟨true, 2, [(8191, [1, 2])]⟩
    (∀ u ∈ [f, g, h], ((pumpDemo (lineAt 128) (c u) grA).tile 5).claim = some (c u)) ∧ 8190 + 2 ≤ 8192 ∧ 8192 < 8191 + 2 := by decide

/-- A SINK of 64 bytes into line 128, and the elements that wait for it. -/
def clmSink : Claim := { clm [] with pump0 := { Pump.empty with wr := [pd dSink 2 0 false], writeQ := (List.range 40).map fun k => ⟨k + 100, 8, none, none, 0⟩ } }

theorem witness_PumpsReadAndWrite_writes : let s := pumpDemo (lineAt 128) clmSink grA
    let x := pd dSink 2 0 false
    let es := (clmSink.pump0.writeQ.take (min 32 (tTotal x.raw - x.pos))).map fun e => OutElem.mk e.code e.scale e.stat e.trunc
    let os := es.zipIdx.map fun e => (e.1, tOffset x.raw (fun _ => 0) (x.pos + e.2))
    (s.tile 5).groupsOf 0 ≠ [] ∧ (s.tile 5).claim = some clmSink ∧ x.full = false ∧ tAdd x.raw = false ∧ x.role = 2 ∧ tIdxEn x.raw = false ∧ es ≠ [] ∧
    memBits (tFmt x.raw) % 8 = 0 ∧ isMx (tFmt x.raw) = false ∧ os[31]? = some (⟨131, none, none, 0⟩, some 31) ∧
    (match s.statAdd (.pump 5 2) 1 (tTid x.raw) (outStats os) with
      | .ok _ t => (match t.vScatter (.pump 5 2) 1 (tReq x.raw 1 false) (outBytes x.raw os) with | .ok _ u => decide (u.devVal 0x4000 2 = 25956) | _ => false)
      | _ => false) = true := by decide +kernel

/-- A record descriptor with ADD, at line 128. -/
def dAdd : TDesc := tdesc 0x4000 15 2 0 [(32, 1)] ||| BitVec.ofNat 512 (2 ^ 120)

/-- A record. -/
def rec1 (x : Int) : RawRec := ⟨⟨BitVec.ofInt 192 x, false, false, false, false⟩, 0, false⟩

/-- Line 128 with four records. -/
def lineRec : CLine := { lineAt 128 with bytes := bytesAt 0 ((List.range 4).flatMap fun (k : Nat) => leBytes 32 (rec1 (k : Nat)).toNat) }

theorem witness_RawRecordSums_pumps : let x := pd dAdd 2 3 false
    let c := { clm [] with pump0 := { Pump.empty with wr := [x], writeQ := [⟨(rec1 7).toNat, 256, none, none, 0⟩] } }
    let s := pumpDemo lineRec c grA
    s.armed = [] ∧ (s.tile 5).claim = some c ∧ tAdd x.raw = true ∧ tIdxEn x.raw = false ∧ x.pos < tTotal x.raw ∧
    tOffset x.raw (fun _ => 0) x.pos = some 3 ∧ tHint x.raw = 0 ∧
    (match s.span 1 (tAddr x.raw 3) 32 .write with | .ok y t => decide (y = ⟨0x4060, 32, 0, 0x4060, false⟩) && decide (t = s) | _ => false) = true ∧
    (s.tile 5).groupsOf 0 ≠ [] ∧ tWinEn x.raw = false ∧ HeldNear s (.pump 5 2) (some 1) 0x4060 32 0 lineRec ∧ s.writeWaits 128 = false ∧
    (rec1 3).toNat = leVal ((List.range 32).map fun k => (Tbl.find lineRec.bytes (0x60 + k)).getD 0) := by unfold HeldNear; decide +kernel

theorem witness_DescriptorsEnterAndLeavePumps_global : let gr : Group := { grPd with m := 1, regs := [(4, 0x4040), (8, 0), (9, 64)] }
    let line : CLine := { lineAt 128 with bytes := bytesAt 0 (List.replicate 64 3 ++ leBytes 64 dFeed.toNat) }
    let s := pumpDemo line (clm []) gr
    let i : Insn := w7 0 0 0 6 4 0 0
    s.armed = [] ∧ s.ready g0 = some gr ∧ (formPdesc s g0 i).ok i = true ∧
    (match s.loadGlobal g0 1 0 [(0x4040, 64)] with | .stall _ => false | _ => true) = true ∧
    (match (s.issued g0 0x1000 []).loadGlobal g0 1 0 [(0x4040, 64)] with
      | .ok rd t => decide (BitVec.ofNat 512 (leVal ((List.range 64).map fun k => rd (0x4040 + k))) = dFeed) && decide (t.armed = []) &&
          decide ((t.tile 5).claim = some (clm [])) | _ => false) = true := by decide +kernel

/-! ## Blocks, contexts and commands: witnesses -/

/-- Bits of a command: values at places. -/
def rawOf (fs : List (Nat × Nat)) : BitVec 512 := BitVec.ofNat 512 (fs.map fun e => e.2 * 2 ^ e.1).sum

/-- A queue of 16 entries whose ring is line 128 and whose completion ring is line 129. -/
def queueOf (tail fetched done : BitVec 32) (cmds : Tbl Cmd) : Queue := ⟨4, 3, true, 0x4000, 0x4080, tail, fetched, done, cmds, 9, false⟩

/-- A command of a phase. -/
def cmdOf (raw : BitVec 512) (p : Phase) : Cmd := ⟨some 6, raw, none, none, [], p, [], 0⟩

/-- A line of device memory in cistern 0, with given bytes. -/
def lineBytes (line : Nat) (f : Nat → Nat) : CLine := { lineAt line with bytes := (List.range 128).map fun k => (k, BitVec.ofNat 8 (f k)) }

/-- The module with a queue of context 1, the interface on. -/
def demoQ (lines : List CLine) (q : Queue) : State :=
  let s := (demo lines).setReg regHifCtrl 1
  { s with hif := { s.hif with ctxs := [(1, run1 [(0, q)])] } }

/-- The queue of context 1. -/
def rq (id : Nat) : CmdRef := ⟨1, 0, id⟩

/-- A LAUNCH of 4 blocks of 2 groups each, 4096 bytes of scratch and the array claim. -/
def launch4 : BitVec 512 := rawOf [(0, 1), (128, 0x1000), (192, 7), (256, 2), (272, 2), (288, 1), (304, 1), (309, 1), (321, 1), (448, 11), (480, 12)]

theorem witness_BlocksAndContextsComeAndGo : let c := { cmdOf launch4 .started with progress := 1, placed := [0] }
    let s := demoQ [] (queueOf 7 7 6 [(8, c)])
    s.cmd (rq 8) = some c ∧ (∃ run, s.ctx 1 = some run ∧ run.slot.isSome = true ∧ s.part run.words.part = some part0) ∧ 2 ∉ c.placed ∧
    part0.hasTile 5 = true ∧ s.domState (domOfTile 5) = 0 ∧ (s.tile 5).fits c.raw.toNat 8192 [3, 4] = true ∧
    bitsOf launch4.toNat 0 8 = 1 ∧ bitsOf launch4.toNat 322 1 = 0 ∧ bitsOf launch4.toNat 256 16 * bitsOf launch4.toNat 272 16 * bitsOf launch4.toNat 288 16 = 4 := by
  decide +kernel

/-- The same LAUNCH with SCOPY: 16 blocks. -/
def launchS : BitVec 512 := rawOf [(0, 1), (128, 0x1000), (192, 7), (256, 16), (272, 1), (288, 1), (304, 1), (309, 1), (321, 1), (322, 1), (448, 11), (480, 12)]

theorem witness_BlocksBecomeResident_scopy : let c := { cmdOf launchS .started with progress := 1 }
    let s := demoQ [] (queueOf 7 7 6 [(8, c)])
    s.cmd (rq 8) = some c ∧ bitsOf launchS.toNat 322 1 = 1 ∧ 3 / 16 * 16 ∉ c.placed ∧
    (∀ k < 16, part0.hasTile (tileOfSpur (spurOfTile 5) k) = true ∧ (s.tile (tileOfSpur (spurOfTile 5) k)).fits c.raw.toNat (4096 * k) [k, 31 - k] = true ∧
      (s.tile (tileOfSpur (spurOfTile 5) k)).blocks = []) := by decide +kernel

/-- An array word that runs on array 0 of tile 5. -/
def claimBusy : Claim := { clm [] with prim := { (clm []).prim with stream := some default }, timer0 := 600000 }

theorem witness_AFaultLosesItsContext : let q := queueOf 7 7 6 [(8, cmdOf launch4 .started)]
    let s := (demoQ [] q).setTile 5 { Tile.empty with blocks := [(0, blk0)], groups := [(1, grA)] }
    let u := (demoQ [] q).setTile 5 { Tile.empty with blocks := [(0, blk0)], groups := [(1, grA)], claim := some claimBusy, timers := [(1, 600000)] }
    let v := fun (e : Option Ending) => { s with hif := { s.hif with ctxs := [(1, { run1 [(0, q)] with lost := true, ending := e })] } }
    (s.ctx 1 = some (run1 [(0, q)]) ∧ Tbl.rising (run1 [(0, q)]).queues = true ∧ (∀ x ∈ (run1 [(0, q)]).queues, Tbl.rising x.2.cmds = true) ∧
      s.openCmds 1 ≠ []) ∧
    (v none).ctx 1 = some { run1 [(0, q)] with lost := true } ∧
    (v (some ⟨6, 0, 0, none, false, [], true, false⟩)).ctx 1 = some { run1 [(0, q)] with lost := true, ending := some ⟨6, 0, 0, none, false, [], true, false⟩ } ∧
    s.armed = [] ∧ s.group g0 = some grA ∧ s.blockOf g0 grA = some blk0 ∧
    (u.tile 5).claim = some claimBusy ∧ Tbl.find (u.tile 5).blocks claimBusy.block = some blk0 ∧ (claimBusy.arr 0).stream.isSome = true ∧
    Tbl.getD (s.tile 5).timers 1 0 < s.periodOf 1 ∧ s.periodOf 1 ≤ Tbl.getD (u.tile 5).timers 1 0 ∧ u.periodOf 1 ≤ claimBusy.timer0 ∧
    ¬(s.periodOf 1 ≤ (clm []).timer0) ∧
    s.tagLoss = [] ∧ s.hif.admin = .none ∧ Tbl.rising s.tiles = true ∧ Tbl.rising (s.tile 5).blocks = true ∧ (run1 [(0, q)]).destroying = false := by decide

theorem witness_AFaultLosesItsContext_others : let q := queueOf 7 7 6 [(8, cmdOf launch4 .started)]
    let b2 : Block := { blk0 with cmd := ⟨2, 0, 7⟩, base := 0, claim := false }
    let s := (demoQ [] q).setTile 5 { Tile.empty with blocks := [(0, blk0), (1, b2)], groups := [(1, grA)] }
    let u := { s with hif := { s.hif with ctxs := [(1, run1 [(0, q)]), (2, run1 [])] } }
    u.armed = [] ∧ u.tagLoss = [] ∧ u.hif.admin = .none ∧ (∀ e ∈ u.hif.ctxs, e.2.destroying = false) ∧ Tbl.rising u.tiles = true ∧
    Tbl.rising (u.tile 5).blocks = true ∧ u.ctx 2 = some (run1 []) ∧ (1, b2) ∈ (u.tile 5).blocks ∧ b2.cmd.ctx ≠ 1 ∧
    (match exec (.contextLoss 1 6 0 0) u with
      | .next t => decide (t.ctx 2 = some (run1 [])) && decide ((t.tile 5).blocks = [(1, b2)])
      | _ => false) = true := by decide +kernel

/-- A ring whose entry 6 holds a command with the given second byte pair: entry at line 131, byte 0. -/
def ringState (lost : Bool) (f : Nat → Nat) : State :=
  let s := (demoQ [lineBytes 131 f] (queueOf 8 6 6 []))
  { s with hif := { s.hif with ctxs := [(1, { run1 [(0, queueOf 8 6 6 [])] with lost := lost })] }, load := { s.load with img := some img0 } }

/-- The bits fetched for entry 6 of a ring. -/
def fetchedRaw (s : State) : Option (Nat × State) :=
  match s.vKeep (.cmd (rq 9)) 1 (plainReq (some 1)) (0x4000 + 64 * 6) 64 with
  | .ok bs t => some (leVal bs, t)
  | _ => none

theorem witness_DoorbellsAndFetches_fetch : let q := queueOf 8 6 6 []
    (∀ lost : Bool, ∀ code : Fin 3, let s := ringState lost (fun k => if k = 0 then [0, 4, 0x28].getD code 0 else 0)
      s.armed = [] ∧ Tbl.find [(0, q)] 0 = some q ∧ s.mayFetch { run1 [(0, q)] with lost := lost } q = true ∧
      (match fetchedRaw s with
        | some (raw, t1) => decide (t1.ctx 1 = s.ctx 1) && decide (t1.armed = []) && decide (bitsOf raw 10 2 = 0) && decide (bitsOf raw 16 11 = 0) &&
            decide (commandOk raw none = decide (code.val ≠ 1)) && (decide (code.val ≠ 2) || (decide (featureOf (bitsOf raw 0 8) = some 3) && !t1.accepted 3))
        | none => false) = true) ∧
    (demoQ [] { q with closing := true }).mayFetch (run1 []) { q with closing := true } = false := by decide +kernel

theorem witness_CommandsStartAndComplete_start : let c := cmdOf (rawOf [(0, 0)]) .submitted
    let k := { c with wait := some (0x4000, 5) }
    let s := fun (l : CLine) (x : Cmd) => demoQ [l] (queueOf 8 8 6 [(8, x)])
    let word := fun (v : Nat) => lineBytes 128 fun j => v / 2 ^ (8 * j) % 256
    let got := fun (v : Nat) => match (s (word v) k).evRead (.cmd (rq 8)) 1 0x4000 with
      | .ok x t1 => decide (x = BitVec.ofNat 64 v) && decide (t1.cmd (rq 8) = some k)
      | _ => false
    c.phase = .submitted ∧ (s (word 0) c).cmd (rq 8) = some c ∧ got 4 = true ∧ got 5 = true ∧ got (2 ^ 63 + 5) = true ∧
    (let q := queueOf 8 8 6 [(7, c), (8, c)]; (q.cmds.filter fun x => x.1 < 8) ≠ [] ∧ c.raw.getLsbD 8 = false) := by decide +kernel

theorem witness_CommandsStartAndComplete_complete : let c := cmdOf (rawOf [(9, 1), (32, 77)]) (.finished 5)
    let q := queueOf 8 8 6 [(8, c)]
    let s := demoQ [lineAt 129] q
    s.cmd (rq 8) = some c ∧ c.seq = some 6 ∧ q.done = 6 ∧ c.sig = none ∧ c.objs = [] ∧ s.hif.admin = .none ∧ s.writesDone (rq 8) = true ∧
    (match s.vWrite (.cmd (rq 8)) 1 (plainReq (some 1)) (q.cq.toNat + 16 * (6 % 2 ^ q.log2n)) (cqBytes q 0 6 5 (bitsOf c.raw.toNat 32 32)) with
      | .ok _ t1 => decide (t1.ctx 1 = s.ctx 1) && decide (t1.hif.admin = .none) && t1.hif.ctxs.all (fun e => !e.2.destroying) && decide (t1.devVal 0x40E0 4 = 6)
      | _ => false) = true := by decide +kernel

/-- A module with one started command of context 1 and lines 128 and 129. -/
def demoC (fs : List (Nat × Nat)) : State := demoQ [lineAt 128, lineAt 129] (queueOf 8 8 6 [(8, cmdOf (rawOf fs) .started)])

/-- The object of line 128's page, of context 1. -/
def obj1 : Obj := ⟨[(0, 1)], 0, 1, 1, 0, 0⟩

theorem witness_HostCommandsRun_copy : let s := demoC [(0, 2), (128, 0x4000), (192, 0x4080), (256, 64)]
    (match s.vRead (.cmd (rq 8)) 1 (plainReq (some 1)) 0x4000 64 with
      | .ok bs t1 => (match t1.vWrite (.cmd (rq 8)) 1 (plainReq (some 1)) 0x4080 bs with
        | .ok _ t2 => decide (t2.cmd (rq 8) = s.cmd (rq 8)) && decide (bs.length = 64) | _ => false)
      | _ => false) = true := by decide +kernel

theorem witness_HostCommandsRun_signal : ∀ m : Fin 2, let s := demoC [(0, 3), (128, 0x4000), (192, m.val), (256, 2 ^ 62)]
    s.tgtOf 1 0x4000 = some 0 ∧ (match s.span 1 0x4000 8 .write with
      | .ok x t1 => decide (x.tgt = 0) && !tagDenied (t1.reqTag (some 1)) (t1.lineTag (x.addr / 128)) &&
          (match t1.signal (.cmd (rq 8)) 1 0x4000 (if m.val = 0 then .set (2 ^ 62) else .inc (2 ^ 62)) with
            | .ok _ t2 => decide (t2.cmd (rq 8) = s.cmd (rq 8)) | _ => false)
      | _ => false) = true := by decide +kernel

theorem witness_HostCommandsRun_repair : let s := demoC [(0, 8), (128, 0x4000), (192, 0x4080), (256, 1)]
    let u := { s with hif := { s.hif with objs := [(1, obj1)] } }
    (∀ x ∈ [s, u], (match State.repairLines 1 x 1 0x4000 with
      | .ok (some lines) t1 => decide (t1.cmd (rq 8) = x.cmd (rq 8)) &&
          (decide (x = s) || (match State.repairFrom lines t1 (rq 8) 0x4080 0 with | .ok _ t2 => decide (t2.cmd (rq 8) = x.cmd (rq 8)) | _ => false))
      | _ => false) = true) ∧
    obj1.creator = 1 ∧ obj1.hasLine 128 = true := by decide +kernel

theorem witness_DoorbellsAndFetches : let s := demoQ [] (queueOf 8 8 6 [])
    s.armed = [] ∧ s.loaded = true ∧ s.hostUp = true ∧ s.ctx 1 = some (run1 [(0, queueOf 8 8 6 [])]) ∧
    ((22 : BitVec 32) - 8).toNat ≤ 16 - ((8 : BitVec 32) - 6).toNat ∧ 16 - ((8 : BitVec 32) - 6).toNat < ((23 : BitVec 32) - 8).toNat := by decide

theorem witness_DoorbellsAndFetches_dropped : let s := demoQ [] (queueOf 8 8 6 [])
    s.ctx 2 = none ∧ Tbl.find (run1 [(0, queueOf 8 8 6 [])]).queues 1 = none ∧ (4096 * 1 + 4) % 8 ≠ 0 ∧ 128 ≤ (4096 * 1 + 128) % 4096 ∧
    (let u := { s with load := { s.load with img := none } }; u.armed = [] ∧ u.hostUp = true ∧ u.loaded = false) ∧
    (let v := { s with pwr := { s.pwr with linkUp := false } }; v.hostUp = false) := by decide

/-! ## Contexts, objects, the host interface and registers: witnesses -/

/-- The module with words of HIF_ADM_ARG. -/
def adm (s : State) (ws : List Nat) : State := ws.zipIdx.foldl (fun (t : State) e => t.setReg (0x10100 + 8 * e.2) (BitVec.ofNat 64 e.1)) s

/-- The module with features accepted and the table area in order. -/
def demoAdm (ctxs : Tbl CtxRun) (ws : List Nat) : State :=
  let s := ((demo [lineBytes 128 fun k => if k = 5 then 8 else 0]).setReg regFeatStatus 1).setReg regHifStatus 2 |>.setReg regHifTblBase 0x10000000
  adm { s with hif := { s.hif with ctxs := ctxs } } ws

/-- A waiting context 2. -/
def run2 : CtxRun := { run1 [] with words := { words1 with asid := 6 }, slot := none, order := 3 }

theorem witness_ContextsSwap : let q : Tbl Queue := [(0, queueOf 7 7 6 [(8, cmdOf launch4 .started)])]
    let r := fun (save quantum : Nat) => { run1 q with words := { words1 with saveSize := save, quantum := BitVec.ofNat 32 quantum } }
    let s := fun (save quantum : Nat) => (demoAdm [(1, r save quantum), (2, { run2 with queues := q, order := 0 })] []).setTile 5
      { Tile.empty with blocks := [(0, blk0)], groups := [(1, grA)] }
    let u := fun (save quantum : Nat) => (s save quantum).noteWaits
    Tbl.rising (s 0 0).hif.ctxs = true ∧ (u 0 0).ctx 2 = some { run2 with queues := q, order := 1 } ∧
    (∀ save ∈ [0, 0x80000], (u save 999).ctx 1 = some (r save 999) ∧ (u save 999).quantumOver (r save 999) = true ∧ (u save 999).waiting 0 ≠ [] ∧
      (u save 999).swapPoint 1 = true) ∧
    (u 0x80000 999).saveNeed 1 ≤ 0x80000 ∧ 0 < (u 0 999).saveNeed 1 ∧ (u 0 1001).quantumOver (r 0 1001) = false ∧
    part0.swap = true ∧ (s 0 0).part 0 = some part0 ∧ ((demoAdm [(1, r 0 999)] []).noteWaits).waiting 0 = [] ∧
    (let v := (demoAdm [(1, { run1 q with slot := none, order := 2, saved := [⟨5, [(0, blk0)], [(1, grA)], [], [], none, []⟩] })] []).noteWaits
     v.freeSlot = some 0 ∧ v.residents 0 < part0.slots ∧ (∃ x ∈ v.waiting 0, x.1 = 1) ∧ (∀ x ∈ v.waiting 0, 2 ≤ x.2.order) ∧
     (∀ r, v.ctx 1 = some r → ∀ x ∈ r.saved, (v.tile x.tile).canTake x = true)) := by decide +kernel

/-- The words of a CTX_CREATE. -/
def createWords : List Nat := [7 * 2 ^ 16, 0x10000, 0x20000 + 4 * 2 ^ 40, 0, 0, 0, 0, 0]

theorem witness_AdminCommands_contexts : let s := demoAdm [(1, run1 [])] createWords
    s.armed = [] ∧ s.load.img.isSome = true ∧ s.fld 0x10148 0 1 = 0 ∧ s.admReserved ctxMasks = false ∧ s.ctxWordsOk s.ctxWords = true ∧
    s.ctxWords.conf = false ∧ s.slotsFull s.ctxWords = false ∧ freeKey s.hif.ctxs 0 4096 = some 0 ∧
    (let t := demoAdm [(1, run1 [])] [5 * 2 ^ 16, 0x10000, 0x20000 + 4 * 2 ^ 40]; t.admReserved ctxMasks = false ∧ t.ctxWordsOk t.ctxWords = false) ∧
    (s.setReg 0x10148 1).fld 0x10148 0 1 = 1 ∧
    (let q := fun (cmds : Tbl Cmd) => ([(0, queueOf 7 7 6 cmds)] : Tbl Queue)
     (∀ i < 8, 1 ≤ i → ((demoAdm [(1, run1 (q [(8, cmdOf launch4 .started)]))] [1]).reg (0x10100 + 8 * i)).toNat = 0) ∧
     (let r := { run1 (q []) with lost := true }
      let t := demoAdm [(1, r)] [1]
      t.ctx 1 = some r ∧ (∀ x ∈ r.queues, x.2.cmds = []) ∧ t.ridge.reqs = [] ∧ t.eng.ckpt = none) ∧ 2 ^ 12 ≤ 0x10000) := by decide +kernel

theorem witness_AdminCommands_queues : let run := run1 [(0, queueOf 7 7 6 [(8, cmdOf launch4 .started)]), (1, queueOf 7 7 6 [])]
    let m := [ones 0 12 ||| ones 16 4 ||| ones 24 5 ||| ones 32 12, ones 0 57, ones 0 57]
    let s := fun (w : List Nat) => demoAdm [(1, run)] w
    (let t := s [1 + 2 * 2 ^ 16 + 4 * 2 ^ 24, 0x3000, 0x5000]; t.admReserved m = false ∧ Tbl.find run.queues 2 = none ∧ t.ctx 1 = some run ∧
      run.lost = false ∧ 4 ≤ bitsOf (t.reg 0x10100).toNat 24 5) ∧
    (let t := s [1 + 2 * 2 ^ 16 + 3 * 2 ^ 24, 0x3000, 0x5000]; t.admReserved m = false ∧ bitsOf (t.reg 0x10100).toNat 24 5 < 4) ∧
    (∀ k : Fin 2, let t := s [1 + k.val * 2 ^ 16]; t.admReserved [ones 0 12 ||| ones 16 4] = false ∧
      (t.queue 1 k.val).map (fun q => decide (q.cmds = [])) = some (decide (k.val = 1))) := by decide +kernel

theorem witness_AdminCommands_objects : let s := demoAdm [(1, run1 [])] [1, 0x4000, 1]
    s.ctx 1 = some (run1 []) ∧ s.admReserved [ones 0 12, ones 0 40, ones 0 32] = false ∧ (s.region 0x4000).isSome = true ∧
    (s.region (0x4000 + 8 - 1)).isSome = true ∧ (run1 []).keySlot = none ∧ s.listReach 0x4000 8 = .ok ∧ (s.devRead (plainReq none) 0x4000 8).poison = false ∧
    (s.devRead (plainReq none) 0x4000 8).st.hif = s.hif ∧
    (s.devRead (plainReq none) 0x4000 8).st.extentsOk 0 (u64s 1 (s.devBytes 0x4000 8)) = true ∧ (run1 []).freeHandle = some 0 ∧
    freeKey s.hif.objs 0 (min 0x100000 (s.hif.objs.length + 1)) = some 0 := by decide +kernel

theorem witness_AdminCommands_handles : let r := { run1 [] with handles := [(3, ⟨9, some 1, some 77⟩)] }
    let s := fun (w : List Nat) => let u := demoAdm [(1, r)] w; { u with hif := { u.hif with objs := [(1, obj1)] } }
    (let t := s [1 + 3 * 2 ^ 32 + 9 * 2 ^ 48]; t.ctx 1 = some r ∧ t.admReserved [ones 0 12 ||| ones 32 32] = false ∧ 3 < 2 ^ r.words.htLog2 ∧
      (r.entry 3).gen = bitsOf (t.reg 0x10100).toNat 48 16 ∧ (r.entry 3).obj = some 1 ∧ obj1.tag = 0 ∧ obj1.gen < 2 ^ 12) ∧
    (r.entry 4).obj = none ∧
    (let t := s [1, 1 + 2 ^ 20 + 77 * 2 ^ 32]; t.admReserved [ones 0 12, ones 0 64] = false ∧ t.keyValid (t.reg 0x10108).toNat = true ∧ r.freeHandle = some 0) ∧
    (s [1]).admReserved [ones 0 12] = false := by decide +kernel

theorem witness_RegisterAccess_hostInterface : let s := demo []
    let v := fun (all : Nat) => BitVec.ofNat 64 (5 + 13 * 2 ^ 16 + all * 2 ^ 24 + 2 ^ 63)
    s.armed = [] ∧ s.load.img.isSome = true ∧ (∀ all < 2, field (v all) 25 38 = 0 ∧ field (v all) 22 2 = 0 ∧ (v all).getLsbD 63 = true ∧
      (v all).getLsbD 24 = decide (all = 1)) ∧ s.fld 0x200010 0 1 = 0 ∧
    (let t := s.setReg 0x200010 1; t.fld 0x200010 0 1 = 1 ∧ t.xltBusy 5 = false) ∧
    (let t := (withStores [] grA [qst 1 0] [] blk0).setReg 0x200010 1; t.fld 0x200010 0 1 = 1 ∧ t.xltBusy 5 = true) ∧
    ((0x3 : BitVec 64) &&& ~~~((s.setReg 0x1000 7).reg 0x1000) = 0 ∧ s.fld 0x1028 0 1 = 0 ∧ (0x8000000000000000 : BitVec 64) &&& ~~~(s.reg 0x1008) ≠ 0) ∧
    (field (0x30000 : BitVec 64) 0 16 = 0 ∧ field (0x30000 : BitVec 64) 40 24 = 0 ∧ s.hif.ctxs ≠ [] ∧
      (let t := { s with hif := { s.hif with ctxs := [], evrDue := true } }; t.hif.ctxs = [] ∧ t.hif.objs = [] ∧ t.hif.evrDue = true)) := by decide +kernel

theorem witness_HostMemoryAccess : let s := demo [lineAt 128]
    s.armed = [] ∧ s.load.img.isSome = true ∧ s.fld regHifBar4Base 28 12 = 0 ∧ 0x4008 % 128 + 8 ≤ 128 ∧ s.lineHome 128 = some (0, 128, 0) ∧
    (∀ i < 8, (s.region (0x4008 + i)).isSome = true) ∧ (s.cistern 0).lineOf 128 = some (lineAt 128) ∧
    (∀ k < 8, (Tbl.find (lineAt 128).bytes (8 + k)).isSome = true) ∧ (lineAt 128).poison = false ∧ (lineAt 128).tag = 0 ∧
    s.domState (domOfChan 0) = 0 ∧ s.heldBefore (.host false) none 128 = false ∧ s.heldBefore (.host true) none 128 = false ∧
    (∀ k < 8, s.deviceOwn (0x4008 + k) = false) ∧ s.writeWaits 128 = false ∧ State.reset.load.img = none := by decide +kernel

theorem witness_RegisterAccess : let s := demo []
    s.armed = [] ∧ s.load.img.isSome = true ∧ field (s.reg 0x200000) 0 12 = 0 ∧ field (s.reg 0x200000) 57 7 = 0 ∧ field (0x123456789000 : BitVec 64) 0 12 = 0 ∧
    field (0x123456789000 : BitVec 64) 57 7 = 0 ∧ regAt 0x30 = none ∧ State.reset.load.img = none ∧ 0x1004 % 8 ≠ 0 := by decide +kernel

/-- A waiting context whose state was saved in an area that begins in the last kibibyte of region 0. -/
def runSaved : CtxRun :=
  { run1 [(0, queueOf 7 7 6 [(8, cmdOf launch4 .started)])] with
    words := { words1 with saveBase := 0x3FFFFC00 }
    slot := none
    order := 2
    saved := [⟨5, [], [(1, grA)], [], [], none, []⟩] }

theorem witness_ContextsSwap_back : let s := fun (f : State → State) => (f (demoAdm [(1, runSaved)] [])).noteWaits
    let n := savedNeed runSaved.saved
    (s id).armed = [] ∧ (s id).areaReach 0x3FFFFC00 n false = .ok ∧ ((s id).devRead (plainReq (some 1)) 0x3FFFFC00 n).poison = false ∧
    (let u := s fun t => t.setCistern 0 { Cistern.empty with lines := [{ lineAt 0x7FFFFF with set := 504, poison := true }] }
     u.areaReach 0x3FFFFC00 n false = .ok ∧ (u.devRead (plainReq (some 1)) 0x3FFFFC00 n).poison = true) ∧
    (s fun t => t.setReg (regPwrDom 264) 1).areaReach 0x3FFFFC00 n false = .asleep 264 ∧ runSaved.saved ≠ [] ∧ runSaved.destroying = false := by
  decide +kernel

theorem witness_ContextsSwap_out : let q : Tbl Queue := [(0, queueOf 7 7 6 [(8, cmdOf launch4 .started)])]
    let r := { run1 q with words := { words1 with saveBase := 0x3FFFFC00, saveSize := 0x80000, quantum := 999 } }
    let u := (demoAdm [(1, r), (2, { run2 with queues := q, order := 0 })] []).noteWaits
    u.areaReach 0x3FFFFC00 (u.saveNeed 1) true = .ok ∧ (u.setReg (regPwrDom 264) 1).areaReach 0x3FFFFC00 (u.saveNeed 1) true = .asleep 264 ∧
    r.tried = false ∧ { r with queues := [] }.running = false ∧ r.running = true ∧ (demoAdm [] []).entering = false := by decide +kernel

theorem witness_RegisterAccess_kinds : let s := demo []
    s.hostUp = true ∧ (∀ off ∈ [0x2010, 0x400018, 0x400010, 0x1008], (regAt off).isSome = true ∧ off % 8 = 0 ∧ regAt (off + 4) = none) ∧
    (regAt 0x2010).map (·.rw) = some (2 ^ 64 - 1) ∧ (regAt 0x400018).map (·.w1c) = some (2 ^ 63) ∧ (regAt 0x400018).map (·.ro) = some (2 ^ 49 - 1) ∧
    (regAt 0x400010).map (·.rwl) = some (2 ^ 48 - 1) ∧ (regAt 0x400010).map (·.known) = some (2 ^ 48 - 1) ∧
    { s with load := { s.load with locked := true } }.load.locked = true ∧ (regAt 0x200000).map (·.wo) = some 0 ∧
    s.regs.held = [] ∧ ¬(0x100000 ≤ 0x2010 ∧ 0x2010 < 0x200000) ∧
    { s with pwr := { s.pwr with linkUp := false } }.hostUp = false ∧ { s with pwr := { s.pwr with phase := .noFirmware } }.hostUp = false ∧
    { s with trust := { s.trust with ide := .insecure } }.hostUp = false ∧ (s.setReg (regPwrDom domHost) 1).hostUp = false := by decide +kernel

theorem test_rwl_after_lock : let s := demo []
    (match exec (.registerWrite 0x400010 8 5) s, exec (.registerWrite 0x400010 8 5) { s with load := { s.load with locked := true } } with
      | .next t, .next u => decide (t.reg 0x400010 = 5) && decide (u.reg 0x400010 = s.reg 0x400010) && decide (u.reg (regDetCounter detRegViolation) = 1)
      | _, _ => false) = true := by decide +kernel

theorem test_halves_write_both : let s := demo []
    (match exec (.registerWrite 0x2010 4 7) s with
      | .next t => decide (t.reg 0x2010 = 0) && (match exec (.registerWrite 0x2014 4 9) t with | .next u => decide (u.reg 0x2010 = 0x900000007) | _ => false)
      | _ => false) = true := by decide +kernel

theorem test_small_read_is_a_full_read : let s := (demo []).setReg 0x2010 0x1122334455667788
    (match exec (.shadowRead ⟨0, 0x2015, 1⟩) s with
      | .next t => decide (t.out.head? = some (.regRead 0x33)) && decide (Tbl.find t.regs.shadow 0x2010 = none)
      | _ => false) = true := by decide +kernel

/-! ## Cisterns, windows and checkpoints: witnesses -/

theorem witness_CisternsHoldMemory : let s := demo [lineAt 128]
    s.armed = [] ∧ (plainReq (some 1)).hint < 3 ∧ CisternsOk State.reset ∧ (s.lineHome 128).isSome = true ∧
    tagDenied (s.reqTag (some 1)) (s.lineTag 128) = false ∧ Tbl.rising [(3, (7 : BitVec 8))] = true := by
  refine ⟨by decide, by decide, ?_, by decide, by decide, by decide⟩
  intro n
  have h : State.reset.cistern n = Cistern.empty := rfl
  simp [h, Cistern.empty]

/-- A module whose window 3 is set up, enabled or not. -/
def demoWin (en : Nat) : State :=
  (((((demo [{ lineAt 128 with persist := true, win := 3 }]).setReg (regCisWinBase 3) 0x10000).setReg (regCisWinLimit 3) 0x20000).setReg (regCisWinCtrl 3) (BitVec.ofNat 64 (en + 8 * en))).setReg
    regCisCfg (BitVec.ofNat 64 (8 * 2 ^ 25)))

theorem witness_PersistenceWindows : let s := demoWin 0
    let u := demoWin 1
    s.armed = [] ∧ s.load.img.isSome = true ∧ (regAt (regCisWinCtrl 3)).any (fun d => d.accepts 9 s.load.locked) = true ∧ field (9 : BitVec 64) 0 1 = 1 ∧
    s.fld (regCisWinBase 3) 16 24 < s.fld (regCisWinLimit 3) 16 24 ∧ 1 ≤ field (9 : BitVec 64) 3 4 ∧ field (9 : BitVec 64) 3 4 ≤ s.fld regCisCfg 25 4 ∧
    (∀ x < 64, x ≠ 3 → s.fld (regCisWinCtrl x) 0 1 ≠ 1) ∧ ¬(1 ≤ field (1 : BitVec 64) 3 4) ∧
    field (8 : BitVec 64) 0 1 = 0 ∧ field (u.reg (regCisWinCtrl 3)) 0 1 = 1 ∧ (8 : BitVec 64) >>> 1 = (u.reg (regCisWinCtrl 3)) >>> 1 ∧
    (regAt (regCisWinCtrl 3)).any (fun d => d.accepts 8 u.load.locked) = true ∧
    (∀ lim : Bool, (regAt (if lim then regCisWinLimit 3 else regCisWinBase 3)).any (fun d => d.accepts 0x30000 u.load.locked) = true) := by decide +kernel

/-- The image with one staging unit in its partition. -/
def imgStage (n : Nat) : Img := { img0 with parts := [{ part0 with stage := n }] }

/-- The module with queue pair 0 enabled, a handle of context 1 to the page that holds line 8192, and a started command. -/
def demoCkp (fs : List (Nat × Nat)) (n : Nat) (k : Option Ckpt) : State :=
  let s := demoQ [lineBytes 128 fun i => if i = 2 then 1 else if i = 8 then 1 else 0, lineAt 8192] (queueOf 8 8 6 [(8, cmdOf (rawOf fs) .started)])
  let t := s.setReg (regCkpQpCtrl 0) (1 + 1 * 2 ^ 5)
  { t with
    hif := { t.hif with ctxs := [(1, { run1 [(0, queueOf 8 8 6 [(8, cmdOf (rawOf fs) .started)])] with handles := [(0, ⟨1, some 1, none⟩)] })],
                        objs := [(1, { obj1 with extents := [(16, 1)] })] }
    load := { t.load with img := some (imgStage n) }
    eng := { t.eng with ckpt := k, qps := [(0, ⟨5, 0, [(5, 0, 1024), (6, 1024, 1024)], 6⟩)] } }

/-- The set of one page. -/
def set1 : List SetEnt := [⟨1, 0, [0x100000]⟩]

/-- A CKP_BEGIN of the set at line 128. -/
def beginFs : List (Nat × Nat) := [(0, 0x30), (128, 0x4000), (256, 7), (320, 3), (448, 0x10000)]

/-- A checkpoint of the set at a place of its walk. -/
def ckpt1 (walk : Nat) (sent : Bool) : Ckpt := ⟨1, 0, set1, 7, 3, 0, 0x10000, [], walk, [], [], sent, [], 0⟩

theorem witness_CheckpointsBeginAndSavePages : let s := demoCkp beginFs 0 none
    (∃ c, s.cmd (rq 8) = some c ∧ c.phase = .started ∧ bitsOf c.raw.toNat 0 8 = 0x30 ∧ bitsOf c.raw.toNat 128 57 % 16 = 0 ∧
      bitsOf c.raw.toNat 448 64 % 65536 = 0 ∧ bitsOf c.raw.toNat 384 57 % 8 = 0) ∧
    s.enabledQps ≠ [] ∧ s.eng.ckpt = none ∧ (demoCkp (beginFs ++ [(385, 1)]) 0 none).cmd (rq 8) ≠ none ∧ (2 ^ 385 / 2 ^ 384) % 8 ≠ 0 ∧
    (match s.vKeep (.cmd (rq 8)) 1 (plainReq (some 1)) 0x4000 16 with
      | .ok bs t1 => decide (t1.cmd (rq 8) = s.cmd (rq 8)) && t1.instantOk 0 &&
          (match t1.ctx 1 with | some run => decide (t1.setOf run 1 bs = some set1) && decide (t1.setOf { run with handles := [] } 1 bs = none) | none => false)
      | _ => false) = true := by decide +kernel

theorem witness_CheckpointsBeginAndSavePages_pages : let s := fun (n : Nat) => demoCkp [] n (some (ckpt1 0 false))
    let u := fun (n : Nat) => (s n).setPage 3 4 ⟨1, 0⟩
    (u 1).eng.ckpt = some (ckpt1 0 false) ∧ (u 1).armed = [] ∧ ((u 1).pageAt 3 4).state = 1 ∧ (u 1).freeStage 0 = some 0 ∧
    ((u 1).cistern 3).held = [] ∧ (u 0).freeStage 0 = none ∧ (u 0).enabledQps ≠ [] ∧ (u 0).enabledQps.any (u 0).pairPaused = false ∧
    ((s 1).pageAt 3 4).state ≠ 1 ∧
    ((u 1).pageLines 3 4).all (fun x => decide (x.2 < 0x3C000000 / 128)) = true ∧ (u 1).stageDpa 0 0 = 0x3C000000 := by decide +kernel

theorem witness_CheckpointsStreamCommitAndFail : let s := fun (w : Nat) (sent : Bool) => demoCkp [] 1 (some (ckpt1 w sent))
    (s 0 false).armed = [] ∧ (s 0 false).enabledQps = [0] ∧ (setPages set1)[0 / 512]? = some (0, 0, 0x100000) ∧
    (s 0 false).chunkReach ((List.range 512).map fun i => (s 0 false).readPlace 0 (0x100000 / 128 + i)) = none ∧
    (s 0 false).pairPaused ((s 0 false).pairFor 0) = false ∧ (setPages set1)[512 / 512]? = none ∧
    (let t := (s 512 false).setQp 0 ⟨7, 0, [], 0⟩; t.allAcked = true ∧ t.pairFailed = false ∧ t.eng.evDue = [] ∧ t.pairPaused 0 = false ∧ t.enabledQps.headD 0 = 0) ∧
    (ckpt1 512 true).sent = true ∧ (ckpt1 512 true).cevt = 0 := by decide +kernel

theorem witness_CheckpointsStreamCommitAndFail_fail : let s := demoCkp [(0, 0x31)] 1 (some (ckpt1 0 false))
    s.eng.ckpt = some (ckpt1 0 false) ∧ s.armed = [] ∧ s.enabledQps = [0] ∧ (s.setReg (regCkpQpCtrl 0) 0).enabledQps = [] ∧ (∃ c, s.cmd (rq 8) = some c ∧ c.phase = .started ∧ bitsOf c.raw.toNat 0 8 = 0x31) ∧
    (ckpt1 0 false).ctx = 1 ∧ (s.qp 0).unacked ≠ [] ∧ s.fld (regCkpQpCtrl 0) 5 2 = 1 ∧ s.pairPaused 0 = false ∧ (s.qp 0).retries < 7 ∧
    7 ≤ ((s.setQp 0 { s.qp 0 with retries := 7 }).qp 0).retries := by decide +kernel

/-- The manifest of `set1` before its digest. -/
def manBody : List (BitVec 8) := leBytes 4 0x4B434A46 ++ leBytes 4 1 ++ leBytes 8 7 ++ leBytes 4 3 ++ leBytes 4 1 ++ leBytes 40 0 ++
  leBytes 8 0 ++ leBytes 4 1 ++ leBytes 20 0

/-- The bytes of a digest, the most significant first, are its value. -/
theorem digest_val : ∀ (n x a : Nat), x < 256 ^ n →
    ((List.range n).map fun i => BitVec.ofNat 8 (x / 2 ^ (8 * (n - 1 - i)))).foldl (fun (a : Nat) (b : BitVec 8) => a * 256 + b.toNat) a = a * 256 ^ n + x
  | 0, x, a, h => by have : x = 0 := by simpa using h
                     simp [this]
  | n + 1, x, a, h => by
    have h1 : x / 256 < 256 ^ n := by rw [Nat.div_lt_iff_lt_mul (by decide)]; rwa [Nat.pow_succ] at h
    have h2 : ((List.range n).map fun i => BitVec.ofNat 8 (x / 2 ^ (8 * (n + 1 - 1 - i)))) =
        (List.range n).map fun i => BitVec.ofNat 8 (x / 256 / 2 ^ (8 * (n - 1 - i))) := by
      apply List.map_congr_left
      intro i hi
      have : i < n := List.mem_range.mp hi
      rw [Nat.div_div_eq_div_mul, show (256 : Nat) = 2 ^ 8 from rfl, ← Nat.pow_add, show 8 + 8 * (n - 1 - i) = 8 * (n + 1 - 1 - i) by omega]
    rw [List.range_succ, List.map_append, h2, List.foldl_append, digest_val n _ a h1]
    simp only [List.map_cons, List.map_nil, List.foldl_cons, List.foldl_nil, BitVec.toNat_ofNat, Nat.add_sub_cancel, Nat.sub_self, Nat.mul_zero,
      Nat.pow_zero, Nat.div_one, Nat.pow_succ]
    have := Nat.div_add_mod x 256
    rw [← Nat.mul_assoc]
    generalize a * 256 ^ n = y at *
    omega

theorem witness_RestoresAndQueuePairs_manifest : manifestOk (manBody ++ shaBytes manBody) set1 = true ∧ manifestOk [1, 2, 3] set1 = false := by
  refine ⟨?_, by decide +kernel⟩
  have e : mEnd (manBody ++ shaBytes manBody) = 96 := by decide +kernel
  have d : (manBody ++ shaBytes manBody).drop 96 = shaBytes manBody := List.drop_left' rfl
  have k : (manBody ++ shaBytes manBody).take 96 = manBody := List.take_left' rfl
  have v := digest_val 48 (Config.sha384 manBody).toNat 0 (Config.sha384 manBody).isLt
  simp only [manifestOk, e, d, k, Bool.and_eq_true, decide_eq_true_eq]
  refine ⟨⟨⟨⟨⟨by decide +kernel, by decide +kernel⟩, by decide +kernel⟩, ?_⟩, by decide +kernel⟩, by decide +kernel⟩
  simpa [shaBytes] using v

theorem witness_RestoresAndQueuePairs : let s := demoCkp [(0, 0x32), (128, 0x4000), (320, 0x4040)] 0 none
    (∃ c, s.cmd (rq 8) = some c ∧ c.phase = .started ∧ bitsOf c.raw.toNat 0 8 = 0x32 ∧ bitsOf c.raw.toNat 192 12 = 0) ∧ s.enabledQps = [0] ∧ s.fld (regCkpQpCtrl 0) 5 2 = 1 ∧
    s.pairPaused 0 = false ∧ s.domState (s.pairDie 0) = 0 ∧ (s.setReg (regPwrDom 280) 6).domState (s.pairDie 0) = 6 ∧ s.hostUp = true ∧
    (s.setReg (regCkpQpCtrl 0) 1).fld (regCkpQpCtrl 0) 5 2 ≠ 1 ∧ (s.qp 0).unacked ≠ [] ∧ (s.qp 1).unacked = [] ∧
    (match s.vKeep (.cmd (rq 8)) 1 (plainReq (some 1)) 0x4000 16 with
      | .ok bs t1 => (match t1.vWrite (.cmd (rq 8)) 1 (plainReq (some 1)) 0x4040 (manBody ++ shaBytes manBody) with
        | .ok _ u => decide (t1.cmd (rq 8) = s.cmd (rq 8)) && (u.ctx 1).any (fun run => decide (t1.setOf run 1 bs = some set1) &&
            decide (t1.setOf { run with handles := [] } 1 bs = none))
        | _ => false)
      | _ => false) = true ∧
    s.armed = [] ∧ s.load.img.isSome = true ∧ field (1 : BitVec 64) 7 1 = 0 ∧ field (1 : BitVec 64) 32 32 = 0 ∧
    s.fld (regCkpQpCtrl 0) 0 1 = 1 ∧ s.fld (regCkpQpCtrl 1) 0 1 = 0 ∧ field (1 : BitVec 64) 1 4 = s.fld (regCkpQpCtrl 0) 1 4 ∧
    field (3 : BitVec 64) 1 4 ≠ s.fld (regCkpQpCtrl 0) 1 4 := by decide +kernel


/-! ## Update engines, schedules, signals: witnesses -/

/-- Bytes of device memory given as values at addresses: (address, width, value). -/
def memAt (vs : List (Nat × Nat × Nat)) (a : Nat) : Nat :=
  match vs.find? fun v => decide (v.1 ≤ a) && decide (a < v.1 + v.2.1) with
  | some v => v.2.2 / 2 ^ (8 * (a - v.1)) % 256
  | none => 0

/-- Lines 128 to 130 of device memory with given values. -/
def memLines (vs : List (Nat × Nat × Nat)) : List CLine := [128, 129, 130].map fun n => lineBytes n fun k => memAt vs (128 * n + k)

/-- A layer record of two elements: F32 gradients, INT8 orders. -/
def layerW (rule : Nat) (b2 : Nat) (ofmt : Nat) (last : Nat) (nfskip : Nat) : Nat :=
  0x4100 + 0x4110 * 2 ^ 64 + 11 * 2 ^ 121 + 0x4120 * 2 ^ 128 + 0x4130 * 2 ^ 320 + ofmt * 2 ^ 377 + 0x4140 * 2 ^ 384 + 2 * 2 ^ 576 + 1 * 2 ^ 608 +
    rule * 2 ^ 704 + nfskip * 2 ^ 708 + 0x3F000000 * 2 ^ 768 + b2 * 2 ^ 800 + last * 2 ^ 960

/-- A table of one layer with its header, record, buffers and step entry. -/
def updMem (rule b2 ofmt last nfskip g0 : Nat) : List (Nat × Nat × Nat) :=
  [(0x4000, 8, 99), (0x4008, 4, 1), (0x4010, 8, 0x4150), (0x4040, 128, layerW rule b2 ofmt last nfskip), (0x4100, 4, 0x3F800000), (0x4104, 4, 0x40000000),
   (0x4110, 4, g0), (0x4114, 4, 0x3F000000), (0x4120, 4, 0x3F800000), (0x4124, 4, 0), (0x4150, 4, 0x3F800000), (0x4154, 4, 7), (0x4160, 4, 0x3E800000)]

/-- A module with a started command of context 1, and memory. -/
def demoU (fs : List (Nat × Nat)) (vs : List (Nat × Nat × Nat)) : State :=
  demoQ (memLines vs) (queueOf 8 8 6 [(8, cmdOf (rawOf fs) .started)])

/-- UPD_RUN of layer 0. -/
def runFs (step refresh : Nat) : List (Nat × Nat) := [(0, 0x10), (128, 0x4000), (224, 1), (256, step), (288, refresh)]

/-- UPD_SET_STEP of layer 0. -/
def setFs : List (Nat × Nat) := [(0, 0x11), (128, 0x4000), (224, 1), (256, 7), (320, 0x4160)]

/-- Memory of a good layer. -/
def goodMem : List (Nat × Nat × Nat) := updMem 0 0 8 3 0 0x3F800000

theorem witness_UpdatesStartAndRun_start :
    (∀ p ∈ [(7, 0), (0, 0), (0, 1), (7, 1)], let s := demoU (runFs p.1 p.2) goodMem
      (∃ c, s.cmd (rq 8) = some c ∧ c.phase = .started ∧ s.eng.upds = [] ∧ bitsOf c.raw.toNat 128 57 % 64 = 0 ∧
        (match s.updHeader (rq 8) (.cmd (rq 8)) c with
          | .ok h t1 => decide (t1.cmd (rq 8) = some c) && updOk c.raw.toNat h (ones 128 57 ||| ones 192 97)
          | _ => false) = true)) ∧
    (let s := demoU setFs goodMem
     ∃ c, s.cmd (rq 8) = some c ∧ (match s.updHeader (rq 8) (.cmd (rq 8)) c with
      | .ok h t1 => updOk c.raw.toNat h (ones 128 57 ||| ones 192 96 ||| ones 320 57) &&
        (match t1.vKeep (.cmd (rq 8)) 1 (engReq 1) 0x4160 4 with
          | .ok bs t2 => (match t2.vWrite (.cmd (rq 8)) 1 (engReq 1) (bitsOf h 128 57) ((u32s 1 bs).flatMap fun e => leBytes 8 (e + 7 * 2 ^ 32)) with
            | .ok _ t3 => decide (t3.cmd (rq 8) = some c) | _ => false)
          | _ => false)
      | _ => false) = true) := by
  refine ⟨?_, ?_⟩
  · intro p hp; refine ⟨_, rfl, ?_⟩; revert p; decide +kernel
  · refine ⟨_, rfl, ?_⟩; decide +kernel

/-- The command of `demoU`. -/
def cU (fs : List (Nat × Nat)) : Cmd := cmdOf (rawOf fs) .started

/-- The module while UPD_RUN runs. -/
def demoL (fs : List (Nat × Nat)) (vs : List (Nat × Nat × Nat)) : State :=
  let s := demoU fs vs
  { s with eng := { s.eng with upds := [⟨rq 8, 0, 0, false, []⟩] } }

/-- What an engine reads before it runs a layer: header, record, step entry. -/
def layerRead (s : State) (c : Cmd) : Option (Nat × Nat × Nat × State) :=
  match s.updHeader (rq 8) (.spur 0) c with
  | .ok hdr s1 => (match s1.vNums (.spur 0) 1 0 (s.layerVa (rq 8) 0) 1 128 with
    | .ok [lr] s2 => (match (if cmdFld c 288 1 = 1 then Go.ok [0] s2 else s2.vNums (.spur 0) 1 0 (bitsOf hdr 128 57) 1 8) with
      | .ok [ent] s3 => some (hdr, lr, ent, s3)
      | _ => none)
    | _ => none)
  | _ => none

/-- Whether a layer's passes read and write as the statement has it. -/
def layerRuns (s : State) (c : Cmd) : Bool :=
  match layerRead s c with
  | some (hdr, lr, ent, s3) =>
    let l : LRec := BitVec.ofNat 1024 lr
    let key : BitVec 64 := BitVec.ofNat 64 hdr
    if cmdFld c 288 1 = 1 then
      (match s3.vNums (.spur 0) 1 0 (lWbase l) (lElems l) 4 with
        | .ok w t1 => (match t1.vWrites (.spur 0) 1 (orderWrites l (narrowOrders l key (lLast l) w)) with | .ok _ _ => true | _ => false)
        | _ => false)
    else
      (match s3.scanPass (.spur 0) 1 l with
       | .ok g1 t0 => decide (t0.armed = []) && ((lNfskip l && g1.any f32NonFinite) ||
        (match t0.layerBufs (.spur 0) 1 l g1 with
        | .ok b t1 =>
          (let n := layerStep l (ent % 2 ^ 32) b
           match t1.vWrites (.spur 0) 1 ([(lWbase l, 0, numBytes 4 n.1.w), (lMbase l, 0, if lMoment l then numBytes 4 n.1.m else []),
            (lRbase l, 0, if lFactored l then numBytes 4 n.1.r else []), (lCbase l, 0, if lFactored l then numBytes 4 n.1.c else []),
            (s.layerVa (rq 8) 0 + 116, 0, if lFactored l then leBytes 4 n.2 else [])] ++ orderWrites l (narrowOrders l key (cmdFld c 256 32) n.1.w)) with
            | .ok _ _ => true | _ => false)
        | _ => false))
       | _ => false)
  | none => false

theorem witness_UpdatesStartAndRun : (∀ p ∈ [(7, 0), (0, 1)], let s := demoL (runFs p.1 p.2) goodMem
      s.armed = [] ∧ Tbl.find s.eng.spurs 0 = none ∧ s.engineTurn 0 = true ∧ s.engineTurn 1 = false ∧ s.nextLayer 0 = some (⟨rq 8, 0, 0, false, []⟩, cU (runFs p.1 p.2), 0) ∧
      (layerRead s (cU (runFs p.1 p.2))).isSome = true ∧ layerRuns s (cU (runFs p.1 p.2)) = true) ∧
    layerOk (BitVec.ofNat 1024 (layerW 0 0 8 3 0)) = true ∧ layerOk (BitVec.ofNat 1024 (layerW 0 0 11 3 0)) = false ∧ f32NonNeg 0x3F800000 = true ∧
    f32NonNeg 0xBF800000 = false ∧ lLast (BitVec.ofNat 1024 (layerW 0 0 8 3 0)) = 3 ∧
    (let s := (demoL (runFs 7 0) goodMem).setReg (regPwrDom 256) 1
     s.engineTurn 0 = true ∧ (match s.updHeader (rq 8) (.spur 0) (cU (runFs 7 0)) with | .stall _ => true | _ => false) = true) ∧
    (let s := demoL (runFs 7 0) (updMem 0 0 8 3 1 0x7F800000); layerRuns s (cU (runFs 7 0)) = true ∧ f32NonFinite 0x7F800000 = true) := by decide +kernel

theorem witness_UpdatesStartAndRun_done : ∀ st ∈ [1, 4], let e : UpdEng := ⟨rq 8, 0, 0x4040, st, []⟩
    let s0 := demoL (runFs 7 0) goodMem
    let s := { s0 with eng := { s0.eng with spurs := [(0, e)] } }
    Tbl.find s.eng.spurs 0 = some e ∧ s.boardBusy (.spur 0) = false ∧ s.cmd (rq 8) = some (cU (runFs 7 0)) ∧ s.eng.upds = [⟨rq 8, 0, 0, false, []⟩] ∧
    (match s.vWrite (.cmd (rq 8)) 1 (engReq 1) (if st = 1 ∨ st = 3 then 0x4040 + 120 else 0x4040 + 124)
        (if st = 1 ∨ st = 3 then leBytes 8 (7 + st * 2 ^ 32) else leBytes 1 st) with
      | .ok _ t1 => decide (t1.eng = s.eng) && decide (t1.cmd (rq 8) = some (cU (runFs 7 0)))
      | _ => false) = true := by decide +kernel

theorem witness_UpdateRules : (⟨[0x3F800000], [], [0x3F800000], [0x40000000], [0], [], []⟩ : LBufs).w[0]? = some 0x40000000 ∧
    lRule (BitVec.ofNat 1024 (layerW 0 0 8 3 0)) = 0 ∧ lRule (BitVec.ofNat 1024 (layerW 3 0x3F000000 8 3 0)) = 3 := by decide

/-- A schedule: stage S of P, B micro-batches, events at line 130. -/
def schedD (st p s b : Nat) : Nat :=
  0x4080 + st * 0 + 0x4000 * 2 ^ 64 + 0x4000 * 2 ^ 128 + (if s = 0 then 0 else 0x4100) * 2 ^ 192 + (if s + 1 = p then 0 else 0x4108) * 2 ^ 256 +
    p * 2 ^ 320 + s * 2 ^ 328 + b * 2 ^ 336 + 1 * 2 ^ 348

theorem witness_ScheduleOrder : sS (BitVec.ofNat 512 (schedD 0 4 1 5)) < sP (BitVec.ofNat 512 (schedD 0 4 1 5)) ∧ sB (BitVec.ofNat 512 (schedD 0 4 1 5)) = 5 := by decide

/-- Memory of a schedule: descriptor in line 128, record in line 129. -/
def schedMem (s last step phase : Nat) (ev : Nat) : List (Nat × Nat × Nat) :=
  [(0x4000, 64, schedD 0 4 s 2), (0x4080, 4, step), (0x408A, 1, phase), (0x408C, 4, last), (0x4100, 8, ev), (0x4108, 8, ev)]

/-- A module with a SCHED_RUN on queue 0 and an empty queue 1. -/
def demoS (fs : List (Nat × Nat)) (vs : List (Nat × Nat × Nat)) (xs : List SchedRun) : State :=
  let s := demoU fs vs
  { s with hif := { s.hif with ctxs := [(1, run1 [(0, queueOf 8 8 6 [(8, cU fs)]), (1, queueOf 0 0 0 [])])] }, eng := { s.eng with scheds := xs } }

/-- SCHED_RUN of step 5. -/
def schedFs : List (Nat × Nat) := [(0, 0x18), (128, 0x4000), (192, 5)]

/-- Whether the reads of a SCHED_RUN are good, and its record's first write is made. -/
def schedReads (s : State) (good : Bool) (step last : Nat) : Bool :=
  match s.vKeep (.cmd (rq 8)) 1 (plainReq (some 1)) 0x4000 64 with
  | .ok ds s1 =>
    let d : BitVec 512 := BitVec.ofNat 512 (leVal ds)
    decide (s1.cmd (rq 8) = s.cmd (rq 8)) && decide (s1.eng = s.eng) && ((schedOk (leVal ds) && s1.schedAllowed (rq 8) d) == good) &&
      (!good || (match s1.vKeep (.cmd (rq 8)) 1 (engReq 1) (sState d) 64 with
      | .ok rs s2 => decide (s2.armed = []) && decide (s2.cmd (rq 8) = s.cmd (rq 8)) && decide (s2.eng = s.eng) && schedRecOk (leVal rs) &&
          decide (bitsOf (leVal rs) 0 32 = step) && decide (bitsOf (leVal rs) 96 32 = last) &&
          (let f := bitsOf (leVal rs) 56 12
           let b := bitsOf (leVal rs) 68 12
           let x : SchedRun := if step = 5 then ⟨rq 8, d, 5, last, f, b, f, b, [], !sSbarEn d || decide (0 < f + b), false⟩
             else ⟨rq 8, d, 5, last, 0, 0, 0, 0, [], !sSbarEn d, false⟩
           match s2.schedWrite x x.phase x.last with | .ok _ t1 => decide (t1.eng = s.eng) | _ => false)
      | _ => false))
  | _ => false

theorem witness_SchedulesRun_start : (∀ p ∈ [(4, 4, true), (5, 4, true), (7, 4, true)], let s := demoS schedFs (schedMem 1 p.2.1 p.1 2 0) []
      s.armed = [] ∧ s.sched (rq 8) = none ∧ s.schedsIn 0 < 16 ∧ (∃ c, s.cmd (rq 8) = some c ∧ c.phase = .started) ∧ schedReads s p.2.2 p.1 p.2.1 = true) ∧
    schedReads (demoS schedFs (schedMem 4 4 4 4 0) []) false 4 4 = true ∧ schedRecOk (1 <<< 128) = false ∧
    (let fs : List (Nat × Nat) := [(0, 0x18), (128, 0x4020), (192, 5)]; bitsOf (rawOf fs).toNat 128 57 % 64 ≠ 0) := by decide +kernel

/-- A running SCHED_RUN of stage 1 of 4 with two micro-batches and one forward released. -/
def schedX (nf nb : Nat) (rel : List Released) : SchedRun := ⟨rq 8, BitVec.ofNat 512 (schedD 0 4 1 2), 5, 4, nf, nb, 0, 0, rel, true, false⟩

/-- Whether the next release of a schedule is made. -/
def releases (s : State) (x : SchedRun) (run : CtxRun) (ev : Nat) (v : Nat) : Bool :=
  match s.evRead (.cmd (rq 8)) 1 ev with
  | .ok w t1 => decide (w = BitVec.ofNat 64 v) &&
    (match t1.vKeep (.cmd (rq 8)) 1 (engReq 1) 0x4000 64 with
      | .ok bs s1 =>
        let next := x.at (x.nf + x.nb)
        let r' : CmdRef := ⟨1, 1, 9⟩
        let y : SchedRun := { x with nf := if next.1 then x.nf + 1 else x.nf, nb := if next.1 then x.nb else x.nb + 1,
                                     rel := x.rel ++ [Released.mk r' next.1 next.2 false] }
        (match s1.releaseTo r' run (BitVec.ofNat 512 (setBits (setBits (leVal bs) 448 32 next.2) 480 32 x.step)) with
          | .ok s2 _ => (match s2.schedWrite y y.phase y.last with | .ok _ t2 => decide (t2.eng.scheds = s.eng.scheds) | _ => false)
          | _ => false)
      | _ => false)
  | _ => false

theorem witness_SchedulesRun_release : let x := schedX 0 0 []
    let s := fun (v : Nat) => demoS schedFs (schedMem 1 4 5 1 v) [x]
    (s 9).sched (rq 8) = some x ∧ x.nf + x.nb < 2 * sB x.desc ∧ x.at 0 = (true, 0) ∧ sFin x.desc = 0x4100 ∧ (x.step - 1) * sB x.desc + 0 + 1 = 9 ∧
    ((s 9).ctx 1).any (fun run => (Tbl.find run.queues (sQueue x.desc)).any (fun q => !q.closing && decide (q.cmds.length < 64)) && !run.lost) = true ∧
    ((s 9).ctx 1).any (fun run => releases (s 9) x run 0x4100 9) = true ∧
    (match (s 8).evRead (.cmd (rq 8)) 1 0x4100 with | .ok w _ => decide (w = 8) | _ => false) = true ∧
    (match (s (2 ^ 63)).evRead (.cmd (rq 8)) 1 0x4100 with
      | .ok w t1 => w.getLsbD 63 && (match t1.schedWrite x 5 x.last with | .ok _ t2 => decide (t2.cmd (rq 8) = (s 0).cmd (rq 8)) | _ => false)
      | _ => false) = true ∧
    (let y := schedX 2 0 []; y.at 2 = (false, 0) ∧ y.fwdDone 0 = false) := by decide +kernel

theorem witness_SchedulesRun_count : let rel : List Released := [⟨⟨1, 1, 0⟩, true, 0, true⟩, ⟨⟨1, 1, 1⟩, true, 1, true⟩, ⟨⟨1, 1, 2⟩, false, 0, false⟩]
    let x := schedX 2 1 rel
    let s := demoS schedFs (schedMem 1 4 5 1 0) [x]
    let all : List Released := [⟨⟨1, 1, 2⟩, false, 1, true⟩]
    let z := { schedX 2 2 all with nfc := 2, nbc := 1 }
    let u := demoS schedFs (schedMem 1 4 5 1 0) [z]
    s.sched (rq 8) = some x ∧ (∀ k ∈ x.rel.take 2, k.done = true) ∧ (∃ k ∈ x.rel.take 3, k.done = false) ∧
    (let y : SchedRun := { x with nfc := 2, nbc := 0, rel := x.rel.drop 2 }
     (match s.schedWrite y y.phase y.last with | .ok _ t1 => decide (t1.eng.scheds = s.eng.scheds) | _ => false) = true) ∧
    (let y : SchedRun := { z with nfc := 2, nbc := 2, rel := [] }
     (match u.schedWrite y 4 y.step with | .ok _ t1 => decide (t1.cmd (rq 8) = u.cmd (rq 8)) | _ => false) = true) := by decide +kernel

theorem witness_SchedulesRun_closed : let x := { schedX 1 0 [⟨⟨1, 1, 0⟩, true, 0, true⟩] with closed := true }
    let s := demoS schedFs (schedMem 1 4 5 1 9) [x]
    s.sched (rq 8) = some x ∧ x.r = rq 8 ∧ x.closed = true ∧
    (match s.schedWrite x 5 x.last with | .ok _ t1 => decide (t1.cmd (rq 8) = s.cmd (rq 8)) | _ => false) = true := by decide +kernel

/-- A module with one route, to port 2, which is UP with a peer at NODE 7 and has credits; it is NODE 3 of its partition. -/
def withRoute (s : State) (role : Nat) : State :=
  let t := ((((s.setReg regRdgNode (BitVec.ofNat 64 (3 + 2 ^ 20))).setReg (regRdgRoute 0) (BitVec.ofNat 64 (0xFFFFF * 2 ^ 20 + 2 * 2 ^ 40 + 9 * 2 ^ 51))).setReg
    (regRdgPortStatus 2) (BitVec.ofNat 64 (role + 3 * 16))).setReg (regRdgPortPeer 2) 7).setReg regRdgCfg 100
  t.setPort 2 { Port.empty with credits := [99, 99, 99, 99] }

theorem witness_SignalsBetweenModules_remote : let fs := [(0, 0x28), (128, 0x05001), (192, 9)]
    let s := demoU fs []
    let u := withRoute s 4
    let fr := (s.newTag).2.signalOf (cU fs) (s.newTag).1
    let v := { u with ridge := { u.ridge with sigs := [⟨rq 8, 3, fr, 0, false⟩] } }
    s.cmd (rq 8) = some (cU fs) ∧ u.cmd (rq 8) = some (cU fs) ∧ s.ridge.sigs = [] ∧ cmdFld (cU fs) 128 20 ≠ s.node ∧ cmdFld (cU fs) 128 20 ≠ u.node ∧
    (let own := demoU [(0, 0x28), (128, 0), (192, 9)] []; cmdFld (cU [(0, 0x28), (128, 0), (192, 9)]) 128 20 = own.node ∧ own.slotRefuses 0 own.node = true) ∧ ((s.newTag).2.send true fr).1 = some 2 ∧ (((s.newTag).2.send true fr).2.hif = s.hif) ∧
    ((u.newTag).2.send true ((u.newTag).2.signalOf (cU fs) (u.newTag).1)).1 = none ∧
    v.ms + 1 - 0 ≤ v.fld regRdgCfg 0 16 ∧ (v.send true fr).1 = none ∧ (v.setReg regRdgCfg 0).fld regRdgCfg 0 16 < v.ms + 1 - 0 := by decide +kernel


/-! ## Collectives: witnesses -/

/-- A descriptor of collective 9 in group 5: kind, source, destination, work area, count. -/
def collD (kind src dst work count : Nat) : Nat :=
  src + 11 * 2 ^ 57 + kind * 2 ^ 61 + dst * 2 ^ 64 + 11 * 2 ^ 121 + work * 2 ^ 128 + count * 2 ^ 256 + 9 * 2 ^ 322 + 5 * 2 ^ 328

/-- The group of NODEs 3 (this module) and 7. -/
def grp5 : GroupEnt := ⟨5, false, 2, 0, 0, [3, 7]⟩

/-- An open collective. -/
def collOf (d : Nat) : Coll := ⟨BitVec.ofNat 512 d, 1, [], 0, none, CollSlot.empty, CollSlot.empty, none, [], [], [], [], [], [], []⟩

/-- The module with the group, a route, a started command and a collective. -/
def demoK (fs : List (Nat × Nat)) (vs : List (Nat × Nat × Nat)) (cs : Tbl Coll) : State :=
  let s := withRoute (demoU fs vs) 4
  { s with load := { s.load with img := some { img0 with groups := [grp5] } }, eng := { s.eng with colls := cs } }

/-- Descriptors: BARRIER, ALL_GATHER, and ALL_REDUCE of four elements. -/
def dBar : Nat := collD 3 0 0 0 0
def dGat : Nat := collD 2 0x4040 0x4060 0 4
def dRed : Nat := collD 0 0x4040 0x4060 0x4080 4

theorem witness_CollectiveSums : cIfmt (BitVec.ofNat 512 dRed) = 11 ∧ (memFmt 11).isSome = true ∧ (1 : Int).natAbs ≤ 2 ^ (64 - 32) ∧
    wireMark 64 ∈ [3, wireMark 64] ∧ [(1 : Int), 2].Perm [2, 1] :=
  ⟨by decide, by decide, by decide, by decide, List.Perm.swap 2 1 []⟩

/-- A holder of 256 elements whose open step is `o`, with given slots. -/
def hold1 (d o : Nat) (s0 s1 : CollSlot) : Hold :=
  ⟨{ collOf d with since := some 0, slot0 := s0, slot1 := s1 }, List.replicate 256 1, List.replicate 256 2, o, o - 1, [0, 0, 0, 0, 0, 0], 0, 0, [], [], [], 0⟩

theorem witness_Contributions : let g : Geo := ⟨BitVec.ofNat 512 (collD 0 0x4040 0x4060 0x4080 512), 3, grp5⟩
    let carry : Geo := { g with d := BitVec.ofNat 512 (collD 0 0x4040 0x4060 0x4080 512 + 2 ^ 126) }
    let xs : List Int := List.replicate 256 5
    let h := hold1 0 4 ⟨4, 1, [], [], 0, [], [], []⟩ ⟨3, 2, [], [], 0, [], [], []⟩
    let k := hold1 0 4 ⟨4, 1, [(0, [7])], [], 0, [], [], []⟩ ⟨0, 0, [], [], 0, [], [], []⟩
    0 < g.e.n ∧ g.held = 256 ∧ xs.length = 256 ∧ h.led.length = 6 ∧ h.sums0.length = 256 ∧ h.sums1.length = 256 ∧ h.c.since.isSome = true ∧ h.op = 4 ∧
    (∃ k ∈ g.members, k ≠ 7) ∧ (h.slot 0).step = 4 ∧ (h.slot 0).state = 1 ∧ h.c.late = [] ∧ h.c.dealt = [] ∧ (5, 7, 0) ∉ h.c.dealt ∧ (4, 7, 0) ∈ { h with c := { h.c with dealt := [(4, 7, 0)] } }.c.dealt ∧ (k.slot 1).step ≠ 3 ∧ cCarry carry.d = true ∧ cCarry g.d = false ∧
    7 ∈ Tbl.getD (k.slot 0).got 0 [] := by decide +kernel

/-- The commands of collective 9. -/
def openFs : List (Nat × Nat) := [(0, 0x20), (128, 0x4000)]
def closeFs : List (Nat × Nat) := [(0, 0x22), (128, 9)]
def goFs (step : Nat) : List (Nat × Nat) := [(0, 0x21), (128, 9), (192, step)]

/-- Whether a descriptor read from line 128 is good. -/
def opens (s : State) : Bool :=
  match s.vKeep (.cmd (rq 8)) 1 (plainReq (some 1)) 0x4000 64 with
  | .ok bs s1 => decide (s1.cmd (rq 8) = s.cmd (rq 8)) && s1.openOk (BitVec.ofNat 512 (leVal bs))
  | _ => false

/-- A running COLL_RUN of step 2. -/
def running (d : Nat) : Coll := { collOf d with run := some ⟨rq 8, 2, [], 2, 0, false, [0, 0, 0, 0, 0], none, []⟩, last := 2 }

/-- Whether a COLL_OPEN's slots are cleared. -/
def clears (s : State) : Bool :=
  match s.vKeep (.cmd (rq 8)) 1 (plainReq (some 1)) 0x4000 64 with
  | .ok bs s1 => match s1.geo (BitVec.ofNat 512 (leVal bs)) with
    | some g => match s1.vWrites (.cmd (rq 8)) 1 [(g.slotVa 0, 0, leBytes 64 0), (g.slotVa 1, 0, leBytes 64 0)] with
      | .ok _ s2 => decide (s2.cmd (rq 8) = s.cmd (rq 8))
      | _ => false
    | none => false
  | _ => false

theorem witness_CollectivesRun_open : opens (demoK openFs [(0x4000, 64, dBar)] []) = true ∧ opens (demoK openFs [(0x4000, 64, dGat)] []) = true ∧ cKind (BitVec.ofNat 512 dGat) = 2 ∧ cKind (BitVec.ofNat 512 dBar) = 3 ∧
    opens (demoK openFs [(0x4000, 64, dRed)] []) = true ∧ clears (demoK openFs [(0x4000, 64, dRed)] []) = true ∧ cKind (BitVec.ofNat 512 dRed) < 2 ∧
    opens (demoK openFs [(0x4000, 64, dBar + 2 ^ 127)] []) = false ∧
    (let s := demoK closeFs [] [(9, collOf dBar)]; s.cmd (rq 8) = some (cU closeFs) ∧ (s.coll 9) = some (collOf dBar) ∧ (collOf dBar).run = none ∧
      (running dBar).run.isSome = true ∧ (s.coll 8) = none) := by decide +kernel

theorem witness_CollectivesRun_run :
    (∀ d ∈ [dBar, dGat, dRed], let s := demoK (goFs 2) [(0x4040, 16, 0x3F8000003F800000)] [(9, collOf d)]
      s.cmd (rq 8) = some (cU (goFs 2)) ∧ s.coll 9 = some (collOf d) ∧ s.geo (collOf d).desc = some ⟨BitVec.ofNat 512 d, 3, grp5⟩ ∧ (collOf d).run = none ∧ (collOf d).last < 2) ∧
    (let k := { running dBar with last := 1 }
     k.run.any (fun x => decide (x.r ≠ rq 3)) = true ∧ k.last < 2) ∧
    (let s := demoK (goFs 2) [(0x4040, 16, 0x3F8000003F800000)] [(9, collOf dGat)]
     let g : Geo := ⟨BitVec.ofNat 512 dGat, 3, grp5⟩
     (match s.vKeep (.coll 9) 1 (engReq 1) (cSrc g.d) (g.shard g.e.rank * memBits (cIfmt g.d) / 8) with
      | .ok bs s1 => (match s1.vWrites (.coll 9) 1 [(g.dstAt g.node, 0, bs)] with | .ok _ _ => true | _ => false)
      | _ => false) = true) ∧
    (let s := demoK (goFs 2) [(0x4040, 16, 0x3F8000003F800000)] [(9, collOf dRed)]
     (match s.reduceStart 9 ⟨BitVec.ofNat 512 dRed, 3, grp5⟩ (collOf dRed) (rq 8) 2 with | .ok _ _ => true | _ => false) = true) := by decide +kernel

theorem witness_CollectivesRun_complete : let g : Geo := ⟨BitVec.ofNat 512 dBar, 3, grp5⟩
    let k := running dBar
    let j := { k with barrier := [(7, 2)] }
    g.others = [7] ∧ Tbl.getD k.barrier 7 0 < 2 ∧ 2 ≤ Tbl.getD j.barrier 7 0 ∧ k.resend = [] ∧ grp5.tree = false ∧ cKind g.d = 3 ∧
    (let s := demoK (goFs 2) [] [(9, k)]; s.ridge.held = [] ∧ s.boardBusy (.coll 9) = false ∧ s.coll 9 = some k ∧ s.node = 3) := by decide +kernel

/-- Whether the census word of an ALL_GATHER at step 2 is written. -/
def censusOk (parts : Tbl (List Nat)) : Bool :=
  let g : Geo := ⟨BitVec.ofNat 512 dGat, 3, grp5⟩
  let run : CollRun := ⟨rq 8, 2, parts, 2, 0, false, [0, 0, 0, 0, 0], none, []⟩
  let k := { collOf dGat with run := some run, last := 2 }
  let s := demoK (goFs 2) [(0x4040, 16, 0x3F8000003F800000)] [(9, k)]
  s.sentAll k 2 && g.settled k run (s.fld (regRdgLdgStep 9) 0 32) && !s.boardBusy (.coll 9) && decide (s.coll 9 = some k) &&
    (match (s.putColl 9 k).vWrite (.cmd (rq 8)) 1 (engReq 1) (cCensus g.d) (leBytes 8 ((if g.missing run then 2 ^ 32 - 1 else 2) + 0)) with
     | .ok _ t => decide (t.cmd (rq 8) = some (cU (goFs 2)))
     | _ => false)

theorem witness_CollectivesRun_data : censusOk [(7, [0])] = true ∧
    (let g : Geo := ⟨BitVec.ofNat 512 dGat, 3, grp5⟩
     g.settled (collOf dGat) ⟨rq 8, 2, [], 2, 0, false, [0, 0, 0, 0, 0], none, []⟩ 0 = false) ∧
    (let k := collOf dBar
     (∀ x ∈ k.resend, x.dst.toNat ≠ 3) ∧ k.run = none ∧ k.since = none) ∧ (running dBar).run.isSome = true := by decide +kernel

/-- A holder for StepsClose. -/
theorem witness_StepsClose : let h := hold1 dRed 4 ⟨4, 1, [(0, [3])], [], 0, [], [], []⟩ ⟨3, 2, [], [], 0, [], [], []⟩
    (⟨BitVec.ofNat 512 dRed, 3, grp5⟩ : Geo).e.tree = false ∧ h.led.length = 6 ∧ (h.slot ((h.op + 1) % 2)).step ≠ h.op + 1 := by decide +kernel

/-- An ALL_REDUCE whose step 2 is open since ms 0, the deadline 0 (5,000 us). -/
def collDue : Coll := { collOf dRed with since := some 0, slot0 := ⟨2, 1, [(0, [3])], [], 0, [], [], []⟩, last := 2 }

theorem witness_CollectivesRun_deadline : let g : Geo := ⟨BitVec.ofNat 512 dRed, 3, grp5⟩
    let s := (demoK [] [] [(9, collDue)]).setReg (regRdgLdgStep 9) (BitVec.ofNat 64 (2 + 2 ^ 32))
    s.coll 9 = some collDue ∧ s.geo collDue.desc = some g ∧ (s.ctx 1).any (fun x => x.lost) = false ∧ cDeadline g.d = 0 ∧ (s.ms + 1 - 0) * 1000 ≤ 5000 ∧
    (let u := s.setReg regIdentHeartbeat 5
     5000 < (u.ms + 1 - 0) * 1000 ∧
      (match u.holdLoad 9 g collDue with
        | .ok h s1 => (match s1.holdStore 9 g (Hold.close s1 g 2 h) with | .ok _ _ => true | _ => false)
        | _ => false) = true) := by decide +kernel


/-! ## Images and Ridge: witnesses -/

/-- A module whose Cairn runs, with staged bytes. -/
def demoUp (staged : List (BitVec 8)) : State :=
  let s := (demo []).setReg regIdentLoadStatus 0
  { s with pwr := { s.pwr with phase := .up }, load := { s.load with staged := staged } }

theorem witness_ImagesLoad : let s := demoUp []
    let u := demoUp (List.replicate 16 1)
    s.armed = [] ∧ s.pwr.phase = .up ∧ s.fld regIdentLoadStatus 2 1 = 0 ∧ (s.setReg regIdentLoadStatus 4).fld regIdentLoadStatus 2 1 = 1 ∧ s.load.staged = [] ∧
    u.load.staged ≠ [] ∧ s.load.staged.length + 16 ≤ 0x200000 ∧ 0x200000 < 0x200000 - 8 + 16 ∧ s.hostUp = true ∧
    { s with pwr := { s.pwr with linkUp := false } }.hostUp = false := by decide

/-- Every running load command may stand in a module that is up. -/
theorem witness_ImagesLoad_ends (r : LoadRun) : let s := { demoUp [] with load := { (demoUp []).load with running := some r } }
    s.armed = [] ∧ s.pwr.phase = .up ∧ s.load.running = some r := ⟨rfl, rfl, rfl⟩

theorem test_commit_and_load_go_on : let s := { demoUp [1] with load := { (demoUp [1]).load with running := some .clear } }
    (match s.loadEnd .clear with | t => decide (t.load.staged = []) && decide (t.load.running = none) && decide (t.fld regIdentLoadStatus 2 1 = 0)) = true ∧
    (match exec (.loadAppend 16) (demoUp []) with
      | .next t => decide (t.load.running = some (.append 16)) && decide (t.fld regIdentLoadStatus 2 1 = 1) &&
          (match exec .loadClear t with | .next u => decide (u.fld regIdentLoadStatus 20 4 = 1) && decide (u.load = t.load) | _ => false)
      | _ => false) = true := by decide +kernel

theorem witness_ImagesLoad_full : ∃ l : List (BitVec 8), 0x200000 < l.length + 16 ∧ l ≠ [] :=
  ⟨List.replicate 0x1FFFF8 1, by rw [List.length_replicate]; decide, List.cons_ne_nil _ _⟩

/-- A module with port 2 in a state and a role, peer NODE 7. -/
def portIn (st role : Nat) : State := (withRoute (demo []) role).setReg (regRdgPortStatus 2) (BitVec.ofNat 64 (role + st * 16))

theorem witness_RidgePorts : (∀ st ∈ [1, 4, 2, 3, 8], let s := portIn st 4
      s.armed = [] ∧ s.ridge.held = [] ∧ s.portState 2 = st ∧ s.portRole 2 = 4 ∧ s.load.img.isSome = true ∧ s.reg (regRdgPortCtrl 2) = 0 ∧
      s.portAwake 2 = true ∧ (s.setReg (regPwrDom 280) 1).portAwake 2 = false ∧ s.hostUp = true ∧
      { s with pwr := { s.pwr with linkUp := false } }.hostUp = false) ∧
    (let q := (portIn 3 4).port 2
     q.txUnits < 2 ^ 47 ∧ q.rxUnits < 2 ^ 47 ∧
      2 ^ 47 ≤ (((portIn 3 4).setPort 2 { q with txUnits := 2 ^ 47 }).port 2).txUnits ∧ ((portIn 3 4).setPort 2 { q with txUnits := 2 ^ 47 }).portState 2 = 3) ∧
    (let s := (portIn 2 4).setReg (regSecFjHash 1 0) 0x0807060504030201
     let k : PeerKey := ⟨leBytes 8 0x0807060504030201 ++ List.replicate 40 0, true, [1], []⟩
     let u := s.setReg regSecCfg 2 |>.setReg regSecStatus 1 |>.setReg (regSecOwnerHash 0 0) 7
     k.ok = true ∧ s.fjLive 1 = true ∧ s.hash48 (regSecFjHash 1) = k.root ∧ s.fld regSecCfg 1 1 = 0 ∧ s.portState 2 = 2 ∧ (s.setReg regSecStatus 0x200).fjLive 1 = false ∧
      u.fld regSecCfg 1 1 = 1 ∧ u.fld regSecStatus 0 1 = 1 ∧ u.hash48 (regSecOwnerHash 0) = leBytes 8 7 ++ List.replicate 40 0) ∧
    ((portIn 2 4).port 2).replay = [] ∧ ((portIn 2 4).port 2).peer ≠ some (5, 6) ∧
    (let h : HelloRec := ⟨9, 0, 0, 5, 6, 4⟩; ((portIn 2 4).portRole 2, h.role.toNat) ∈ [(1, 1), (2, 3), (3, 2), (4, 4)] ∧ h.node.toNat ≠ (portIn 2 4).node) ∧
    (let h : HelloRec := ⟨3, 0, 0, 5, 6, 4⟩; h.node.toNat = (portIn 2 4).node) ∧
    (((portIn 2 4).setPort 2 { Port.empty with peer := some (5, 6) }).port 2).peer = some (5, 6) := by decide +kernel

/-- A frame to a destination, of a type, arguments and payload. -/
def frOf (typ dst hops args : Nat) (payload : List (BitVec 8)) : Frame :=
  ⟨BitVec.ofNat 4 typ, vcOf (BitVec.ofNat 4 typ), BitVec.ofNat 6 hops, BitVec.ofNat 20 dst, 7, BitVec.ofNat 14 payload.length, 21, 0, BitVec.ofNat 128 args, payload,
    false, false, .good⟩

theorem witness_RidgePorts_frames : let fs : List (BitVec 16 × Frame) := [(100, frOf 5 7 1 0 []), (101, frOf 5 7 1 0 []), (102, frOf 5 7 1 0 [])]
    let s := (portIn 3 4).setPort 2 { Port.empty with replay := fs }
    s.armed = [] ∧ s.ridge.held = [] ∧ s.portState 2 = 3 ∧ (s.port 2).replay = fs ∧ fs.length < 2 ^ 15 ∧
    (∀ i : Fin 3, (fs[i.val]?).map (·.1) = some ((100 : BitVec 16) + BitVec.ofNat 16 i.val)) ∧ (s.port 2).replays = [] ∧ (s.port 2).resend = [] ∧ (s.port 2).credits.length = 4 ∧
    s.portAwake 2 = true ∧ (s.setReg (regPwrDom 280) 1).portAwake 2 = false ∧ (s.setReg (regPwrDom 280) 1).portState 2 = 3 ∧
    (let u := s.setPort 2 { Port.empty with replay := fs, resend := fs }
     (u.port 2).resend = fs ∧ ∀ e ∈ fs, frameUnits e.2 ≤ (u.port 2).credits.getD e.2.vc.toNat 0 + bitsOf (2 ^ 96 - 1) (24 * e.2.vc.toNat) 24) := by decide +kernel

/-- Frames of another module that fill channel 0 of port 2's receive buffer. -/
def fullIn : State :=
  let s := portIn 3 4
  { s with ridge := { s.ridge with held := (List.range 256).map fun _ => ⟨frOf 5 9 1 0 [1], false, some 2⟩ } }

theorem witness_FramesAreRoutedOrRefused_full : frameUnits (frOf 5 9 1 0 [1]) = 2 ∧ (fullIn.vcFree 2).getD 0 0 = 0 ∧
    (fullIn.vcFree 2).getD (frOf 5 7 1 0 []).vc.toNat 0 < frameUnits (frOf 5 7 1 0 []) ∧ (fullIn.port 2).overruns = [] ∧ fullIn.portState 2 = 3 ∧
    fullIn.portAwake 2 = true ∧ fullIn.armed = [] ∧ (frOf 5 7 1 0 []).dst.toNat ≠ fullIn.node := by decide +kernel

theorem witness_FramesAreRoutedOrRefused_held : (∀ h ∈ ([⟨frOf 1 9 1 0 [], true, none⟩, ⟨frOf 10 9 1 0 [], false, some 2⟩, ⟨frOf 1 9 1 0 [], false, some 2⟩] : List HeldFrame),
      let s := portIn 3 4
      { s with ridge := { s.ridge with held := [h] } }.ridge.held = [h]) ∧
    (frOf 1 9 1 0 []).typ ≠ 10 ∧ (frOf 1 9 1 0 []).wire ≠ .noSrc ∧ ({ frOf 1 9 1 0 [] with wire := .noSrc }).wire = .noSrc ∧
    (frOf 1 9 1 0 []).src.toNat ≠ (portIn 3 4).node ∧ ((portIn 3 4).setReg regRdgNode 7).node = (frOf 1 9 1 0 []).src.toNat := by decide +kernel

/-- No request of this module waits. -/
theorem witness_FramesAreRoutedOrRefused : let s := portIn 3 4
    let u := s.setReg regRdgNode 3
    s.armed = [] ∧ s.portState 2 = 3 ∧ frameBad (frOf 0 9 1 0 []) = true ∧ frameBad (frOf 5 9 1 0 []) = false ∧ (9 : Nat) ≠ s.node ∧ u.portState 2 = 3 ∧ u.node = 3 ∧
    (s.route 9).isSome = true ∧ u.route 9 = none ∧ (frOf 5 9 0 0 []).hops = 0 ∧ boardMem (frOf 5 9 1 0 []).typ = false ∧
    (let f := frOf 1 9 1 (0x4000 + 7 * 2 ^ 43) []; frameBad f = false ∧ boardMem f.typ = true ∧ s.portRole 2 ≠ 1) ∧
    (let f := frOf 10 3 1 2 []; frameBad f = false ∧ f.dst.toNat = s.node ∧ s.ridge.reqs = [] ∧ s.ridge.sigs = [] ∧ s.eng.colls = []) ∧
    (let f := frOf 10 3 1 (2 + 5 * 2 ^ 8) []; frameArg f 8 4 = 5 ∧ frameArg f 0 8 = 2 ∧ frameBad f = false) ∧
    (let v := withRoute (demoU [(0, 0x28)] []) 4
     v.cmd (rq 8) = some (cU [(0, 0x28)])) ∧ (frOf 10 9 1 2 []).typ = 10 ∧ ({ frOf 5 9 1 0 [] with src := 3 }).src.toNat = s.node ∧
    (let f := { frOf 5 9 1 0 [] with wire := .crc }; f.dst.toNat ≠ s.node ∧ f.wire = .crc) ∧ (5 : BitVec 16) ≠ (s.port 2).rx ∧
    s.portAwake 2 = true ∧ (s.setReg (regPwrDom 280) 1).portAwake 2 = false ∧
    (∀ f ∈ [frOf 5 9 1 0 [], frOf 1 9 1 (0x4000 + 7 * 2 ^ 43) []], Takes s 2 f) := by decide +kernel

/-- A module with a mesh neighbour on port 2 and line 128 in its cistern. -/
def demoM : State := (withRoute (demo [lineAt 128]) 1).setReg regRdgCfg 100

/-- MEM_RD of 8 bytes at 0x4008, MEM_WR of byte 3 of line 128, MEM_ATOM ADD of 8 bytes at 0x4008. -/
def fRd : Frame := frOf 1 3 0 (0x4008 + 7 * 2 ^ 43) []
def fWr : Frame := frOf 2 3 0 0x4000 ((leBytes 16 8) ++ ((List.range 128).map fun k => if k = 3 then 77 else 0))
def fWr0 : Frame := frOf 2 3 0 0x4000 (List.replicate 144 0)
def fAt : Frame := frOf 3 3 0 (0x4008 + 1 * 2 ^ 46) (leBytes 8 5 ++ leBytes 8 0)

theorem witness_BoardMemory : let s := demoM
    (∀ f ∈ [fRd, fWr, fWr0, fAt], Arrives s 2 f) ∧ s.portRole 2 = 1 ∧ s.fld regRdgBoard 32 3 = 0 ∧ s.fld (regRdgBoard) 56 1 ≠ 1 ∧ fRd.board.toNat = s.fld regRdgBoard 0 32 ∧
    frameArg fRd 40 3 = 0 ∧ (s.region 0x4008).isSome = true ∧ (s.takeIn 2 fRd).devReach (.far 7 21) none 0x4008 8 true false = .ok ∧
    (fRd.src.toNat = 7 ∧ fRd.tag.toNat = 21) ∧ fWr.poisoned = false ∧ { fWr with poisoned := true }.poisoned = true ∧ maskedBytes fWr ≠ [] ∧ maskedBytes fWr0 = [] ∧ (s.takeIn 2 fWr).devReach (.far 7 21) none 0x4000 128 false true = .ok ∧
    (match (s.takeIn 2 fAt).devAtomic (.far 7 21) (plainReq none) 0x4008 (bitsOfFmt 1 / 8) (fun x => atomNew 0 1 x 5 0) with | .done _ _ => true | _ => false) = true ∧
    (let f := { fRd with board := 1 }; f.board.toNat ≠ s.fld regRdgBoard 0 32 ∧ frameBad f = false) ∧
    (let f := frOf 1 3 0 (0xFFFFFFFF00 + 7 * 2 ^ 43) []; frameBad f = false ∧ s.region 0xFFFFFFFF00 = none) := by decide +kernel

theorem witness_BoardMemory_answers : let f := frOf 4 3 0 0 (leBytes 8 5)
    let r : BoardReq := ⟨21, .cmd (rq 8), 4, 1, frOf 1 7 0 (0x4008 + 7 * 2 ^ 43) [], none⟩
    let s := demoM
    let u := { s with ridge := { s.ridge with reqs := [r] } }
    Arrives s 2 f ∧ s.ridge.reqs = [] ∧ Arrives u 2 f ∧ u.ridge.held = [] ∧ r.tag = f.tag ∧ f.payload.length = rspBytes r.frame ∧ frameArg f 0 1 = 0 ∧ u.ownConflict = false ∧ r.frame.typ ≠ 2 ∧ u.portRole 2 = 1 ∧
    (u.setReg regRdgBoard (BitVec.ofNat 64 (2 ^ 56))).ownConflict = true ∧ ({ r with owner := .noone }).owner = .noone ∧
    (u.hif.admin = .none ∧ ∀ e ∈ u.hif.ctxs, e.2.destroying = false) := by decide +kernel

/-- A request for context 1 or 2 by an owner. -/
def reqOf (ctx : Nat) (o : Owner) : BoardReq := ⟨21, o, 4, ctx, frOf 1 7 0 (0x4008 + 7 * 2 ^ 43) [], some ⟨blk0.cmd, blk0.num, 2⟩⟩

/-- The module with that request, and the group of tile 5. -/
def demoReq (ctx : Nat) (o : Owner) : State :=
  let s := (demoM.setTile 5 { Tile.empty with blocks := [(0, blk0)], groups := [(1, grA)] })
  { s with ridge := { s.ridge with reqs := [reqOf ctx o] } }

theorem witness_BoardMemory_owners : let f := frOf 4 3 0 0 (leBytes 8 5)
    let p := { frOf 4 3 0 1 [] with poisoned := true }
    (∀ o ∈ [Owner.group 5 1, .store 5 1, .pump 5 0, .spur 3, .coll 9, .ending 1, .noone], let s := demoReq 1 o
      s.ridge.reqs = [reqOf 1 o] ∧ Arrives s 2 f ∧ Arrives s 2 p ∧ s.ownConflict = false ∧ s.ridge.held = []) ∧
    f.payload.length = rspBytes (reqOf 1 (.group 5 1)).frame ∧ frameArg p 0 1 = 1 ∧ frameArg f 0 1 = 0 ∧ f.tag = 21 ∧
    (demoReq 1 (.group 5 1)).isGroup ⟨5, 1⟩ ⟨blk0.cmd, blk0.num, 2⟩ = true ∧ (demoReq 1 (.group 5 1)).group ⟨5, 1⟩ = some grA ∧ grA.wait = .ready := by decide +kernel

theorem witness_BoardMemory_timeouts : let s := fun (c : Nat) => demoReq c (.group 5 1)
    (s 1).armed = [] ∧ (s 2).ctx 2 = none ∧ (s 2).ridge.held = [] ∧ (s 2).tagLoss = [] ∧ (s 2).hif.admin = .none ∧ (∀ e ∈ (s 2).hif.ctxs, e.2.destroying = false) ∧
    (s 1).ctx 1 = some (run1 []) ∧ (run1 []).lost = false ∧ (run1 []).destroying = false ∧ (22 : BitVec 16) ≠ (reqOf 1 (.group 5 1)).tag ∧
    (s 1).ridge.sigs = [] := by decide +kernel

theorem test_timeout_loses_the_context : (match exec (.rspTimeoutExpiry 21) (demoReq 1 (.group 5 1)) with
    | .next t => (t.ctx 1).any (fun r => r.lost && decide (r.code = stPoisonConsumed)) && decide ((t.tile 5).blocks = [])
    | _ => false) = true := by decide +kernel

theorem witness_SignalsBetweenModules_frames : let s := (demoM.setReg (regRdgRslotCtrl 2) (BitVec.ofNat 64 (1 + 7 * 2 ^ 12 + 9 * 2 ^ 32))).setReg (regRdgRslotEvt 2) 0x4008
    let f := frOf 5 3 1 (2 + 2 ^ 62 * 2 ^ 64) []
    Arrives s 2 f ∧ s.fld (regRdgRslotCtrl 2) 0 1 = 1 ∧ s.fld (regRdgRslotCtrl 2) 12 20 ≤ 7 ∧ 7 ≤ s.fld (regRdgRslotCtrl 2) 32 20 ∧
    (s.region (s.fld (regRdgRslotEvt 2) 3 37 * 8)).isSome = true ∧ frameArg f 12 1 = 0 ∧
    (match (s.takeIn 2 f).evDev (.far 7 21) (plainReq none) 0x4008 (EvOp.set (2 ^ 62)) with | .done _ _ => true | _ => false) = true ∧
    (let u := s.setReg (regRdgRslotCtrl 2) 0; Arrives u 2 f ∧ u.fld (regRdgRslotCtrl 2) 0 1 ≠ 1) ∧
    Arrives s 2 (frOf 6 3 1 0 []) ∧ s.ridge.sigs = [] := by decide +kernel

theorem witness_SignalsBetweenModules_collectives : let bar := frOf 7 3 1 (5 + 9 * 2 ^ 8 + 2 * 2 ^ 32) []
    let con := fun (u : Nat) => frOf 8 3 1 (5 + 9 * 2 ^ 8 + u * 2 ^ 32 + 1 * 2 ^ 64) (leBytes 8 4 ++ leBytes 8 6)
    let s := fun (d : Nat) => (demoK [] [] [(9, collOf d)]).setReg (regRdgLdgStep 9) 2
    Arrives (s dBar) 2 bar ∧ bar.src.toNat ∈ (⟨BitVec.ofNat 512 dBar, 3, grp5⟩ : Geo).others ∧
    (demoM.coll (frameArg bar 8 6) = none) ∧ (∀ u ∈ [2, 4], Arrives (s dRed) 2 (con u)) ∧ (s dRed).geo (collOf dRed).desc = some ⟨BitVec.ofNat 512 dRed, 3, grp5⟩ ∧
    (∀ u ∈ [2, 4], ((⟨BitVec.ofNat 512 dRed, 3, grp5⟩ : Geo).wireParts (con u)).isSome = true) ∧
    (match (s dRed).collIn (con 2) with | .stall _ => false | _ => true) = true ∧
    (match ((s dRed).takeIn 2 (con 2)).holdLoad 9 ⟨BitVec.ofNat 512 dRed, 3, grp5⟩ (collOf dRed) with
      | .ok h s1 => (match s1.holdStore 9 ⟨BitVec.ofNat 512 dRed, 3, grp5⟩ (Hold.parts s1 ⟨BitVec.ofNat 512 dRed, 3, grp5⟩ 7 2 false [[4, 6]] 0 { h with op := 2 }) with
        | .ok _ _ => true | _ => false)
      | _ => false) = true ∧
    (let f := { con 2 with src := 8 }; Arrives (s dRed) 2 f ∧ f.src.toNat ∉ (⟨BitVec.ofNat 512 dRed, 3, grp5⟩ : Geo).members) := by decide +kernel


/-! ## Ethernet, RoCEv2, the host link and trust: witnesses -/

/-- Ethernet port 1: on, its link up or not, rings of two descriptors at 0x1000 and 0x2000, descriptor 0 of each at address 0x3000 with 64 bytes. -/
def ethDemo (ctrl : Nat) (link txTail rxHead : Nat) : State :=
  let s := ((((demo []).setReg (regEthCtrl 1) (BitVec.ofNat 64 ctrl)).setReg (regEthStatus 1) (BitVec.ofNat 64 link)).setReg (regEthTxrTail 1) (BitVec.ofNat 64 txTail)).setReg
    (regEthRxrHead 1) (BitVec.ofNat 64 rxHead)
  let t := (((s.setReg (regEthRingBase 1 0) 0x1000).setReg (regEthRingBase 1 1) 0x2000).setReg (regEthRingCfg 1 0) (BitVec.ofNat 64 (1 + 5 * 2 ^ 16))).setReg (regEthRingCfg 1 1)
    (BitVec.ofNat 64 (1 + 6 * 2 ^ 16))
  { t with mem := { t.mem with host := [(0x1001, 0x30), (0x1008, 64), (0x2001, 0x30), (0x2008, 64), (0x3005, 7)] } }

theorem witness_EthernetPorts : let s := ethDemo 3 1 0 1
    s.armed = [] ∧ s.load.img.isSome = true ∧ s.ethUp 1 = true ∧ s.fld (regEthRxrTail 1) 0 32 = 0 ∧ s.ringSize 1 1 = 2 ∧
    (0 : Nat) ≠ s.fld (regEthRxrHead 1) 0 32 ∧ bitsOf (s.ringDesc 1 1 0) 64 14 = 64 ∧ ((List.replicate 60 (1 : BitVec 8)).drop 12).take 2 ≠ [0x81, 0x00] ∧
    s.ringSize 1 0 = 2 ∧ s.fld (regEthTxrHead 1) 0 32 = 0 ∧ s.fld (regEthCtrl 1) 5 1 = 0 ∧ bitsOf (s.ringDesc 1 0 0) 64 14 = 64 ∧ s.fld (regEthCtrl 1) 1 1 = 1 ∧
    (s.ethPort 1).ignoring = false ∧
    (let u := s.setEth 1 ⟨true, false, true, true⟩; (u.ethPort 1).paused = true ∧ (u.ethPort 1).rxDue = true ∧ (u.ethPort 1).txDue = true) ∧
    ((ethDemo 0 0 0 0).fld (regEthCtrl 1) 0 1 = 0 ∧ (ethDemo 1 0 0 0).fld (regEthCtrl 1) 1 1 = 0) ∧
    (let v := (ethDemo 1 0 0 0).setReg (regEthRingCfg 1 0) 0; v.fld (regEthCtrl 1) 0 1 = 1 ∧ v.ringSize 1 0 = 0) := by decide +kernel

theorem witness_HostAndPairPackets_roce : let s := demoCkp [] 1 (some (ckpt1 0 false))
    s.armed = [] ∧ s.fld (regCkpQpCtrl 0) 5 2 = 1 ∧ s.fld (regCkpQpCtrl 1) 5 2 ≠ 1 ∧ s.eng.ckpt = some (ckpt1 0 false) ∧
    (s.qp 0).unacked = [(5, 0, 1024), (6, 1024, 1024)] ∧ ((5 : BitVec 24) - ((s.qp 0).psn - 1)).toNat < 2 ^ 23 ∧
    (let u := s.setQp 0 { s.qp 0 with psn := 7 }; ((5 : BitVec 24) - ((u.qp 0).psn - 1)).toNat ≥ 2 ^ 23 ∧ (5 : BitVec 24) = (6 : BitVec 24) - 1) ∧
    (demoCkp [] 1 none).eng.ckpt = none ∧ (3 : BitVec 24) ≠ (s.qp 0).epsn ∧ (ckpt1 0 false).sent = false ∧
    [((6 : BitVec 24), 1024, 1024)] ≠ ([] : List (BitVec 24 × Nat × Nat)) := by decide +kernel

/-- A module whose host link is up, with an IDE state. -/
def linkDemo (i : Ide) : State := let s := demo []; { s with pwr := { s.pwr with linkUp := true, phase := .up }, trust := { s.trust with ide := i } }

theorem witness_HostAndPairPackets_hostLink : (∀ i ∈ [Ide.noKeys, .keyed, .secure, .insecure], (linkDemo i).pwr.linkUp = true ∧ (linkDemo i).armed = [] ∧ (linkDemo i).trust.ide = i) ∧
    { demo [] with pwr := { (demo []).pwr with linkUp := false } }.pwr.linkUp = false ∧ (linkDemo .noKeys).domState 280 = 0 ∧
    ((linkDemo .noKeys).setReg (regPwrDom 280) 1).domState 280 ≠ 0 ∧ (demo []).ctx 1 = some (run1 []) ∧ (run1 []).lost = false ∧ (run1 []).destroying = false ∧
    (demo []).armed = [] ∧ ((linkDemo .noKeys).setReg regIdentStatus 0).fld regIdentStatus 0 1 = 0 ∧
    (let s := (linkDemo .noKeys).setReg regIdentStatus 1; s.fld regIdentStatus 0 1 = 1 ∧ s.pwr.linkUp = true ∧ s.armed = [] ∧ s.trust.ide ≠ .insecure) := by decide

/-- Key slot 2 of a confidential context. -/
def slot2 : KeySlot := ⟨9, 5, none⟩

/-- The module with mailbox arguments, a confidential context 1 on key slot 2, an installed page and a slot status. -/
def mbxDemo (ws : List Nat) (status sec : Nat) : State :=
  let s := ((demo []).setReg (regSecKeyslot 1) (BitVec.ofNat 64 status)).setReg regSecStatus (BitVec.ofNat 64 sec)
  let t := ws.zipIdx.foldl (fun (u : State) e => u.setReg (regMbxArg e.2) (BitVec.ofNat 64 e.1)) s
  { t with hif := { t.hif with ctxs := [(1, { run1 [] with keySlot := some 2 })] },
           trust := { t.trust with slots := [(2, slot2)], pages := [⟨0x40, 2, 3, false⟩], ownerKeys := [(1, [7]), (2, [8])] } }

/-- With the installed pages given. -/
def mbxPages (ps : List PtPage) (s : State) : State := { s with trust := { s.trust with pages := ps } }

theorem witness_MailboxCommands_owner : (mbxDemo [2 ^ 16] 1 0).armed = [] ∧ (mbxDemo [2 ^ 16] 1 0).load.img.isSome = true ∧ (mbxDemo [1] 1 0).fld regMbxStatus 0 1 = 0 ∧
    ((mbxDemo [1] 1 0).setReg regMbxStatus 1).fld regMbxStatus 0 1 = 1 ∧ 2 ^ 16 ≤ ((mbxDemo [2 ^ 16] 1 0).reg (regMbxArg 0)).toNat ∧
    (mbxDemo [1] 1 0).fld regSecStatus 0 4 = 0 ∧ (mbxDemo [1] 1 2).fld regSecStatus 1 1 = 1 ∧ (mbxDemo [0] 1 2).ownerLive 0 = false ∧
    (mbxDemo [1] 1 2).ownerLive 1 = true ∧ (∀ i < 4, i ≠ 1 → (mbxDemo [1] 1 2).ownerLive i = false) ∧ (mbxDemo [1] 1 6).ownerLive 2 = true := by decide +kernel

/-- With the pages of context 1's tables installed and their lines in cistern 0, under tag 2. -/
def tabled (s : State) : State :=
  { s with mem := { s.mem with hbm := [] }, trust := { s.trust with pages := [⟨0x10, 2, 0, false⟩, ⟨0x11, 2, 1, false⟩, ⟨0x12, 2, 2, false⟩] } }.setCistern 0 { Cistern.empty with
    lines := [512, 544, 576].map fun n => { lineBytes n (fun k => (Memory.read tables (128 * n + k)).toNat) with tag := 2 } }

theorem witness_MailboxCommands_context : let s := tabled (mbxDemo [1, 0x4000, 0x1000] 1 0)
    (mbxDemo [2] 1 0).mbxCtx = none ∧ (s.mbxCtx).map (fun x => (x.1, x.2.2)) = some (1, 2) ∧ Tbl.find s.trust.slots 2 = some slot2 ∧ s.sealed 2 = false ∧
    (mbxDemo [1] 3 0).sealed 2 = true ∧
    (match s.vRead .noone 1 (plainReq (some 1)) 0x4000 0x1000 with | .ok bs s1 => decide (bs.length = 4096) && decide (Tbl.find s1.trust.slots 2 = some slot2) | _ => false) = true := by
  decide +kernel

theorem witness_MailboxCommands_pages : let s := mbxPages [⟨0x40, 2, 4, false⟩] (mbxDemo [1, 0x40000] 1 0)
    let u := mbxPages [] (mbxDemo [1, 0x50000] 1 0)
    (∀ t ∈ [s, u], (t.mbxCtx).map (fun x => (x.1, x.2.2)) = some (1, 2) ∧ t.ptNamed 2 ((t.reg (regMbxArg 1)).toNat / 4096) = false ∧
      t.pageReach ((t.reg (regMbxArg 1)).toNat / 4096) true = .ok) ∧
    (u.mbxCtx).any (fun x => u.pageFree x.2.1 2 0x50) = true ∧
    s.trust.pages.find? (fun x => decide (x.page = 0x40000 / 4096 ∧ x.slot = 2)) = some ⟨0x40, 2, 4, false⟩ ∧
    (s.mbxCtx).any (fun x => s.entryOk x.2.1 2 4 false 0 && !s.entryOk x.2.1 2 4 false 1) = true ∧
    (let t := mbxDemo [1, 0x40000] 3 0; t.sealed 2 = true ∧ field (BitVec.ofNat 64 (t.devVal 0x40000 8)) 0 1 = 0) := by decide +kernel

theorem witness_MailboxCommands_entries : let u := mbxPages [] (mbxDemo [1, 0x50000] 1 0)
    (u.mbxCtx).any (fun x => (u.pageEntries 0x50).all fun e => u.entryOk x.2.1 2 4 false e) = true := by decide +kernel

theorem witness_MailboxCommands_named : let s := mbxDemo [1, 0x40000] 3 0
    let t := { s with mem := { s.mem with hbm := (0x40000, 1) :: s.mem.hbm.filter fun e => e.1 < 0 } }
    field (BitVec.ofNat 64 (t.devVal 0x40000 8)) 0 1 = 1 ∧ t.sealed 2 = true := by decide +kernel

/-- The module with an SPDM connection and sessions. -/
def spdmDemo (c : Spdm) (ss : Tbl Session) (i : Ide) : State :=
  let s := tabled (mbxDemo [] 3 0)
  { s with pwr := { s.pwr with phase := .up }, trust := { s.trust with spdm := c, sessions := ss, ide := i } }

theorem witness_Attestation : (spdmDemo .start [] .noKeys).pwr.phase = .up ∧
    (∀ n : Fin 4, (∀ j < n.val + 1, 0 < j → (Tbl.find ((List.range n.val).map fun k => (k + 1, (⟨true, 0, 0⟩ : Session))) j).isSome = true) ∧
      Tbl.find ((List.range n.val).map fun k => (k + 1, (⟨true, 0, 0⟩ : Session))) (n.val + 1) = none) ∧
    (∀ j < 5, 0 < j → (Tbl.find (spdmDemo .negotiated [(1, ⟨true, 0, 0⟩), (2, ⟨true, 0, 0⟩), (3, ⟨false, 0, 0⟩), (4, ⟨true, 0, 0⟩)] .keyed).trust.sessions j).isSome = true) ∧
    (let s := spdmDemo .negotiated [(1, ⟨true, 0, 0⟩)] .keyed
     s.secretSlot 1 5 = some 2 ∧ s.secretSlot 1 6 = none ∧ Tbl.find s.trust.slots 2 = some slot2 ∧
      (match s.vWrite .noone 1 (plainReq (some 1)) 0x4000 [1, 2, 3] with | .ok _ u => decide (u.trust.sessions = s.trust.sessions) | _ => false) = true) := by decide +kernel

theorem witness_EthernetPorts_asleep : let s := ethDemo 3 1 0 1
    s.hostUp = true ∧ s.domState (280 + 1 / 2) = 0 ∧ (s.setReg (regPwrDom 280) 1).domState (280 + 1 / 2) ≠ 0 ∧ (s.setReg (regPwrDom 280) 1).ethUp 1 = true ∧
    s.trust.ide ≠ .insecure ∧ (ethDemo 3 0 0 1).ethUp 1 = false ∧ { s with pwr := { s.pwr with linkUp := false } }.hostUp = false := by decide +kernel

theorem witness_HostAndPairPackets_pairs : let s := demoCkp [] 1 (some (ckpt1 0 false))
    s.domState (s.pairDie 0) = 0 ∧ (s.setReg (regPwrDom 280) 1).domState (s.pairDie 0) ≠ 0 ∧ (s.setReg (regPwrDom 280) 1).fld (regCkpQpCtrl 0) 5 2 = 1 := by decide +kernel

theorem witness_MailboxCommands_waits : let s := tabled (mbxDemo [1, 0x40000] 1 0)
    s.hostUp = true ∧ { s with pwr := { s.pwr with linkUp := false } }.hostUp = false ∧ s.xltBusy 5 = false ∧
    ((withStores [] grA [qst 1 0] [] blk0).xltBusy 5 = true) ∧ words1.asid = 5 := by decide +kernel

/-- A NEGOTIATE_ALGORITHMS that offers the module's four algorithms. -/
def negotiate : List (BitVec 8) := [0xE3, 0, 2, 0, 0, 0, 0, 0, 0x80, 0, 0, 0, 2] ++ List.replicate 19 0 ++ [2, 0, 0x10, 0, 3, 0, 2, 0]

theorem witness_Attestation_connection : (bitOf (leAt negotiate 8 4) 7 = true ∧ bitOf (leAt negotiate 12 4) 1 = true ∧ bitOf (algTable negotiate 2) 4 = true ∧
      bitOf (algTable negotiate 3) 1 = true ∧ bitOf (algTable [] 2) 4 = false) ∧
    (∀ c ∈ [Spdm.start, .version, .capabilities, .negotiated], (spdmDemo c [] .noKeys).trust.spdm = c ∧ (spdmDemo c [] .noKeys).pwr.phase = .up) ∧
    (([0x83, 0, 0x21] : List (BitVec 8)).getD 2 0).toNat % 16 ≠ 0 ∧ (([0x83, 0, 0x10] : List (BitVec 8)).getD 2 0).toNat % 16 = 0 ∧
    (let s := spdmDemo .negotiated [(1, ⟨true, 0, 0⟩), (2, ⟨false, 0, 0⟩)] .secure
     Tbl.find s.trust.sessions 1 = some ⟨true, 0, 0⟩ ∧ Tbl.find s.trust.sessions 2 = some ⟨false, 0, 0⟩ ∧ Tbl.find s.trust.sessions 3 = none ∧ s.trust.ide = .secure) ∧
    (demo []).pwr.phase ≠ .up := by decide +kernel

theorem test_key_update_renews_keys : (match exec (.keyUpdate 1 [0xE9, 0, 2]) (spdmDemo .negotiated [(1, ⟨true, 3, 5⟩)] .noKeys) with
    | .next t => Tbl.find t.trust.sessions 1
    | _ => none) = some ⟨true, 4, 6⟩ := by decide +kernel

/-! ## Power, resets, detectors, the monitor: witnesses -/

/-- The module powered, with an operating point, and registers. -/
def pwrDemo (op : Nat) (rs : List (Nat × Nat)) (p : Power → Power) : State :=
  let s := (demo []).setFld regPwrStatus 0 2 op
  let t := rs.foldl (fun (u : State) e => u.setReg e.1 (BitVec.ofNat 64 e.2)) s
  { t with pwr := p { t.pwr with phase := .up }, load := { t.load with img := some { img0 with inject := true, votes := [(3, 0x10000), (4, 0x20000)] } } }

/-- All points allowed, running OP `op`. -/
def points (op : Nat) : Nat × Nat := (regPwrStatus, op + 15 * 32)

theorem witness_OperatingPoints : let s := pwrDemo 1 [points 1] id
    s.armed = [] ∧ s.powered = true ∧ s.pwr.step = none ∧ s.fld regPwrStatus 9 1 = 0 ∧ s.pwr.refHold = false ∧ s.slower = some 2 ∧ s.faster = some 0 ∧
    s.fld regPwrLimit 0 13 < 6001 ∧ 5 < s.fld regPwrLimit 24 8 ∧ 1 ≤ s.fld regPwrLimit 0 13 ∧ s.pwr.since < 999 ∧
    (let u := pwrDemo 1 [points 1] fun p => { p with since := 1001 }; 1000 ≤ u.pwr.since ∧ u.faster = some 0) ∧
    (∀ up : Bool, let u := pwrDemo 1 [points 1] fun p => { p with step := some ⟨up, 0⟩ }; u.pwr.step = some ⟨up, 0⟩ ∧ u.fld regPwrLimit 16 2 ≤ (if up then 0 else u.op) ∧ u.pwr.refHold = false) ∧
    (s.op ≠ 3) ∧ (let u := s.setReg regClkStatus 2; u.fld regClkStatus 1 1 = 1 ∧ u.op < 3) ∧
    ((0x5F000FA0 : BitVec 64) &&& ~~~0xFF031FFF = 0 ∧ field (0x5F000FA0 : BitVec 64) 0 13 = 4000 ∧ field (0x5F000FA0 : BitVec 64) 24 8 = 95) ∧
    ¬(1000 ≤ field (0x5F000001 : BitVec 64) 0 13) ∧ (0x5F000001 : BitVec 64) &&& ~~~0xFF031FFF = 0 := by decide +kernel

/-- Spur 3 in a state, with what it is between. -/
def domDemo (st : Nat) (low : Nat) (r : Option DomRun) : State :=
  pwrDemo 1 [(regPwrDom 3, st + low * 8), (regPwrTimer 0, 100 + 100 * 2 ^ 32)] fun p => { p with doms := match r with | some x => [(3, x)] | none => [] }

theorem witness_WakesDuringEntry : ∀ w : Bool, ∀ target ∈ [1, 2, 3], let u := domDemo 4 2 (some ⟨target, w, 0, 0, []⟩)
    u.armed = [] ∧ u.powered = true ∧ u.domState 3 = 4 ∧ u.domRun 3 = some ⟨target, w, 0, 0, []⟩ := by decide +kernel

theorem witness_PowerDomains : let s := domDemo 0 2 none
    s.armed = [] ∧ s.powered = true ∧ s.domIdle 3 = true ∧ s.domState 3 = 0 ∧ s.fld (regPwrTimer (domClass 3)) 0 32 ≠ 0 ∧ s.fld (regPwrTimer (domClass 3)) 32 32 ≠ 0 ∧
    s.voted 3 = false ∧ 0 < s.fld (regPwrDom 3) 3 2 ∧
    (let u := s.setReg (regPwrHostVote 0) 8; u.voted 3 = true) ∧
    (∀ target ∈ [1, 2, 3], let u := domDemo 4 2 (some ⟨target, false, 0, 0, []⟩); u.domRun 3 = some ⟨target, false, 0, 0, []⟩ ∧ u.domState 3 = 4) ∧
    (∀ st ∈ [1, 2, 3], let u := domDemo st 2 none; u.domState 3 = st ∧ u.domRun 3 = none ∧ u.load.img.isSome = true ∧ u.fld (regPwrDom 3) 3 2 ≠ 0 ∧ u.fld (regPwrDom 3) 5 1 = 0) ∧
    (∀ stage ∈ [0, 3], let u := domDemo 5 2 (some ⟨0, false, 2, stage, []⟩); u.domState 3 = 5 ∧ u.domRun 3 = some ⟨0, false, 2, stage, []⟩) ∧
    ((s.voteWord 3).testBit 16 = true ∧ (s.voteWord 5).testBit 16 = false ∧ (8 : BitVec 64).getLsbD 3 = true ∧ ∀ j < 64, (8 : BitVec 64).getLsbD j = true → j = 3) ∧
    (s.part 0 = some part0 ∧ s.part 1 = none ∧ s.fld regPwrPrstStatus 0 1 = 0 ∧ (s.ctx 1).map (fun r => r.words.part) = some 0) ∧
    (let u := s.setReg regPwrPrstStatus 1; u.fld regPwrPrstStatus 0 1 = 1 ∧ u.fld regPwrPartReset 0 4 = 0 ∧ (∃ x ∈ u.hif.ctxs, x.2.words.part = 0) ∧ ∀ x ∈ part0.spurs, u.domState x = 0) ∧
    (let u := { s.setReg regPwrPrstStatus 1 with hif := { s.hif with ctxs := [] } }
     u.fld regPwrPrstStatus 0 1 = 1 ∧ u.part (u.fld regPwrPartReset 0 4) = some part0 ∧ u.hif.ctxs = [] ∧ ∀ x ∈ part0.spurs, u.domState x = 0) := by decide +kernel

theorem witness_PowerDomains_gates : let s := domDemo 0 2 none
    s.hostUp = true ∧ s.entering = false ∧ (domDemo 4 2 none).entering = true ∧ { s with pwr := { s.pwr with linkUp := false } }.hostUp = false ∧
    (s.ridge.held = []) ∧ (domDemo 1 2 none).hostUp = true := by decide +kernel

/-- A module whose own request waits for I/O die 1, which is in its exit. -/
def dieDemo : State :=
  let s := ((withRoute (demo []) 1).setReg (regRdgRoute 0) (BitVec.ofNat 64 (0xFFFFF * 2 ^ 20 + 20 * 2 ^ 40 + 9 * 2 ^ 51))).setReg (regPwrDom 281) 5
  let f := frOf 1 7 0 (0x4008 + 7 * 2 ^ 43) []
  let t := ((s.setReg (regRdgPortStatus 2) 0).setReg (regRdgPortStatus 20) (BitVec.ofNat 64 (1 + 3 * 16))).setReg (regRdgPortPeer 20) 7
  { t with
    ridge := { t.ridge with held := [⟨f, true, none⟩], reqs := [⟨21, .group 5 1, 4, 1, f, none⟩] }
    pwr := { t.pwr with doms := [(281, ⟨0, false, 1, 3, []⟩)] } }

theorem witness_PowerDomains_failed : let s := dieDemo
    let u := (s.det detPwrWakeFail).failDom 281 false
    s.armed = [] ∧ s.domRun 281 = some ⟨0, false, 1, 3, []⟩ ∧ s.domState 281 = 5 ∧ boardMem (frOf 1 7 0 (0x4008 + 7 * 2 ^ 43) []).typ = true ∧
    (frOf 1 7 0 (0x4008 + 7 * 2 ^ 43) []).tag = 21 ∧ u.exitDies true (frOf 1 7 0 (0x4008 + 7 * 2 ^ 43) []) = [281] := by decide +kernel

theorem witness_ResetsAndBringUp : State.reset.pwr.phase = .bringUp ∧ State.reset.pwr.powerOnLoad = true ∧ State.reset.pwr.resetN = true ∧
    (let s := pwrDemo 1 [points 1] id; s.pwr.phase = .up ∧ s.pwr.perstN = true ∧ s.entering = false ∧ s.load.img.isSome = true ∧ s.eng.ckpt = none ∧ s.fld regPwrCfg 0 1 = 0) ∧
    (let s := pwrDemo 1 [(regIdentLoadStatus, 4)] fun p => { p with perstN := false }; s.pwr.perstN = false ∧ s.fld regIdentLoadStatus 2 1 = 1) ∧
    (let u := pwrDemo 1 [] fun p => { p with phase := .offEntry }
     let s := { u with regs := { u.regs with vals := (List.range 282).map fun d => (regPwrDom d, 3) } }
     s.pwr.phase = .offEntry ∧ (∀ d < 282, s.domState d = 3) ∧ s.pwr.latch = none) ∧
    (∀ ph ∈ [ModPhase.held, .noInput, .overvoltage, .waitRef, .off], let s := pwrDemo 1 [] fun p => { p with phase := ph }; s.pwr.phase = ph ∧ s.pwr.resetN = true) ∧
    (let s := pwrDemo 1 [] fun p => { p with phase := .overvoltage, resetN := false }; s.pwr.phase = .overvoltage ∧ s.pwr.resetN = false) ∧
    (let s := pwrDemo 1 [] id
     let u := { s with hif := { s.hif with ctxs := [], objs := [] } }
     s.load.running = none ∧ u.eng.ckpt = none ∧ u.hif.ctxs = [] ∧ u.hif.objs = []) := by
  decide +kernel

theorem witness_ResetsAndBringUp_latched : (∀ n : Bool, let s := pwrDemo 1 [] fun p => { p with phase := .offEntry, latch := some 2, resetN := n }
      s.pwr.phase = .offEntry ∧ s.pwr.latch = some 2 ∧ s.pwr.resetN = n) ∧
    (∀ ph ∈ [ModPhase.noFirmware, .tripped, .off, .held], (pwrDemo 1 [] fun p => { p with phase := ph }).pwr.phase = ph) ∧
    (let s := pwrDemo 1 [(regPwrDom 3, 4)] id; s.entering = true ∧ s.pwr.phase = .up) ∧
    (let s := pwrDemo 1 [] id; s.pwr.perstN = true ∧ s.domState 280 = 0 ∧ (s.setReg (regPwrDom 280) 1).domState 280 ≠ 0 ∧ s.load.running = none) := by decide +kernel

theorem test_a_loss_of_input_may_tear_the_newest_record : let r : LogRec := ⟨1, false, 7, 1000, 0x50, 2, 3, 0, 4, true⟩
    let s := pwrDemo 1 [] id
    let u := { s with log := { s.log with recs := [{ r with boot := s.log.boot, time := s.ms }, r] } }
    (match exec .inputPowerLoss u with
      | .next t => decide (t.log.recs.tail = [r]) && decide ((t.log.recs.head?.map fun x => x.time) = some s.ms)
      | _ => false) = true := by decide +kernel

theorem test_reset_in_off_entry_survives_perst : (match exec .perstAssert (pwrDemo 1 [] fun p => { p with phase := .offEntry, latch := some 2, resetN := false }) with
    | .next t => decide (t.pwr.phase = .held)
    | _ => false) = true := by decide +kernel

/-- A powered module without partitions whose software allows OFF. -/
def offDemo : State := { pwrDemo 1 [(regPwrCfg, 1)] id with load := { (demo []).load with img := some { img0 with parts := [] } } }

theorem witness_ResetsAndBringUp_off : offDemo.pwr.phase = .up ∧ offDemo.load.img.isSome = true ∧ offDemo.fld regPwrCfg 0 1 = 1 ∧
    ∀ d < 282, offDemo.voted d = false ∧ offDemo.pinned d = false ∧ offDemo.domState d = 0 ∧ offDemo.mayDeep d = true := by
  have h : ∀ d < 282, offDemo.voted d = false ∧ offDemo.pinned d = false ∧ offDemo.domState d = 0 := by decide +kernel
  refine ⟨by decide +kernel, by decide +kernel, by decide +kernel, fun d hd => ⟨(h d hd).1, (h d hd).2.1, (h d hd).2.2, ?_⟩⟩
  have t : ∀ n, (offDemo.tile n).blocks = [] := fun n => rfl
  have p : ∀ n, ((offDemo.cistern n).pages.all fun (e : Nat × PageEntry) => decide (e.2.state = 0)) = true := fun n => rfl
  unfold State.mayDeep State.spurTaken State.ringFree
  split
  · simp [t]
  · split
    · exact List.all_eq_true.mpr fun n _ => p n
    · rfl

theorem witness_DetectorsAndInjectors : let s := pwrDemo 1 [(regDetLogTotal, 2), (regDetLogSel, 1), (regDetLogStat, 1)] id
    let r : LogRec := ⟨1, false, 7, 1000, 0x50, 2, 3, 0, 4, true⟩
    let u := { s with log := { s.log with recs := [r, r] } }
    s.load.img.isSome = true ∧ s.armed = [] ∧ s.fld regDetLogStat 0 1 = 1 ∧ 1 ≤ (s.reg regDetLogSel).toNat ∧ (s.reg regDetLogSel).toNat ≤ (s.reg regDetLogTotal).toNat ∧
    u.log.recs[2 - 1]? = some r ∧ r.ok = true ∧ (s.setReg regDetLogSel 3).reg regDetLogSel = 3 ∧ s.isArmed 2 = false ∧ s.injects = true ∧
    s.hostUp = true ∧ { s with pwr := { s.pwr with linkUp := false } }.hostUp = false ∧ { r with ok := false }.ok = false ∧
    0 < kindUnits (detKind 0x10) ∧ kindUnits (detKind 0x10) < 65535 := by decide +kernel

theorem witness_DetectorsAndInjectors_armed : let s := { (pwrDemo 1 [(regInjCtrl 2, 4 + 0x10 * 256)] id) with armed := [(2, 0)] }
    s.judge detRegViolation 0 false = (false, s) ∧ s.isArmed 2 = true ∧
    (let u := { s with load := { s.load with img := some { img0 with inject := false } }, armed := [] }; u.injects = false ∧ u.load.img.isSome = true ∧ u.isArmed 3 = false) := by decide +kernel

theorem witness_MonitorCommands : let s := pwrDemo 1 [] id
    s.pwr.phase = .up ∧ s.armed = [] ∧ s.load.img.any (fun i => i.debug) = true ∧ s.load.img.any (fun i => i.inject) = true ∧
    (let u := State.reset; ({ u with pwr := { u.pwr with phase := .up } } : State).load.img = none ∧ u.armed = []) ∧
    (let u := { s with load := { s.load with img := some { img0 with debug := false, inject := false } } }
     u.load.img.any (fun i => i.debug) = false ∧ u.load.img.any (fun i => i.inject) = false) ∧
    s.isArmed 3 = false ∧ 0 < kindUnits (detKind 0x20) := by decide +kernel

/-- The characters of a monitor line. -/
def ascii (s : String) : List (BitVec 8) := s.toList.map fun c => BitVec.ofNat 8 c.toNat

theorem witness_MonitorCommands_lines : 256 < (List.replicate 257 (0x41 : BitVec 8)).length ∧ monWords (ascii "  ") = [] ∧ monWords (ascii "frob 1") ≠ [] ∧
    monParse (monWords (ascii "frob 1")) = none ∧ monParse (monWords (ascii "CNT 1 2")) = none ∧ monParse (monWords (ascii "cnt 0x1_0")) = some (.cnt (.index 16)) ∧
    monParse (monWords (ascii "id")) = some .id ∧ (ascii "pcie_err").map upChar = "PCIE_ERR".toList ∧ (demo []).pwr.phase ≠ .up ∧ (demo []).pwr.phase ≠ .offEntry := by
  decide +kernel

theorem test_counter_by_name : (match exec (.monCnt (.name (ascii (detNames.getD 3 "")))) ((pwrDemo 1 [] id).setReg (regDetCounter 3) 9) with
    | .next t => decide (t.out.head? = some (.monitor [("CNT", [9])] "OK"))
    | _ => false) = true := by decide +kernel

/-! ## Results the spec's text gives -/

/-- Example 1.1. -/
theorem test_example_1_1_tile_2345 : 2345 % 64 = 41 ∧ 2345 / 64 = 36 ∧ spurOfTile 2345 = 154 ∧ crestOfTile 2345 = 5 := by decide

/-- R163: the record 0007 of fjpv-lane-ffma-f32-f32-rn.pv. -/
theorem test_record_0007_ffma : let gr := grp [(4, 0x3F800000), (5, 0x40000000), (7, 0xBF800000)] []
    regAfter (exec (.ffma g0 (w6 4 0 6 4 5 7)) (st gr)) 0 6 = some 0x3F800000 := by decide

/-- Example 4.1: in every order, and through a drain to F32. -/
theorem test_example_4_1 : let e := fun (c : Nat) => arrElem 0 c
    let x := fun (c : Nat) => shiftVal (-4) (e c)
    let d := dot 14 0 [e 0x7E, e 0x7E, e 0x01] [x 0x7E, x 0xFE, x 0x01]
    d.sum = 2 ^ 59 ∧ d.trunc = 0 ∧ (dot 14 0 [e 0x7E] [x 0x7E]).sum = 0x620000000000000000000000 ∧
    drainVal ⟨BitVec.ofInt 192 d.sum, false, false, false, false⟩ 14 0 0 .nan = .val (.fin false (2 ^ 59) (-81)) ∧
    (drainElem 11 false (.val (.fin false (2 ^ 59) (-81)))).1 = 0x34800000 := by decide +kernel

/-- Table 5.2 and the text below it: 464 is a tie that rounds to 448, and 470 overflows. -/
theorem test_e4m3_overflow : fE4M3.decode 0x7E = .fin false 14 5 ∧ fE4M3.encode 0 true (.fin false 464 0) = 0x7E ∧
    (fE4M3.convert 0 true (.fin false 464 0)).sat = false ∧ (fE4M3.convert 0 true (.fin false 470 0)).sat = true := by decide

/-- Example 5.1: the scale byte, the elements and what they count. -/
theorem test_example_5_1 : let b := mxBlock 2 (.val (.fin false 1000 0) :: .val (.fin false 10737418 (-30)) :: .val (.fin true 7 0) :: List.replicate 29 (.val (.fin false 0 0)))
    b.1 = 0x80 ∧ (b.2.take 4).map (·.1) = [0x7E, 0x03, 0xC6, 0x00] ∧ (b.2.filter fun e => e.2.zero).length = 29 ∧
    (b.2.filter fun e => e.2.sat).length = 1 := by decide +kernel

/-- Example 7.1. -/
theorem test_example_7_1 : (match drainVal ⟨3 * 2 ^ 95, false, false, false, false⟩ 0 0 5 (fF32.decode 0x3F000000) with
    | .val v => fF32.encode 0 false v
    | _ => 0) = 0x4004EC4F := by decide +kernel

/-- Below Table 7.1: a saved sigmoid output of 1.25 gives g = -0.3125. -/
theorem test_sigmoid_of_1_25 : factorOf 1 ⟨5, -2⟩ = .frac (-5) 1 (-4) := by decide

/-- Example 7.4. -/
theorem test_example_7_4 : (stochElem 0 (fF32.decode 0x3E980000) 0x7FFFFFFF).1 = 0x2A ∧ (stochElem 0 (fF32.decode 0x3E980000) 0x80000000).1 = 0x29 := by
  decide

/-- Example 7.5: the first round and the keys of vectors 2 and 3. -/
theorem test_example_7_5 : cgRound 1 0x20000 3 5 0 0 = (4, 0xB4000191, 0x1A747, 0x807E7891) ∧
    cgRound 5 0x10001 0x1F 0x3E8 7 1 = (0x31B, 0x1EC8DA77, 0xD3C2, 0x4B0E31AD) ∧
    cgRound 0 0 0 0 0x9E3779B9 0x7F4A7C15 = (0, 0x9E3779B9, 0, 0x7F4A7C15) ∧
    cgRounds 0 0 0 0 0 (7 + 12 * 0x9E3779B9) (1 + 12 * 0x7F4A7C15) = [0x6A99B4B3, 0xF77DD0FD, 0x6A99B4B3, 0xF77DD0FD] := by decide

/-- Example 9.1, with the entry 2,803 of the default table. -/
theorem test_example_9_1 : let s := ((State.reset.setReg (regCisRgnSize 0) (BitVec.ofNat 64 (2 ^ 39 + 512 * 2 ^ 40))).setReg regCisCfg
      (BitVec.ofNat 64 (8192 * 1024))).setReg (regCisSpreadMap 2803) (BitVec.ofNat 64 (7 + 5 * 512))
    s.home 0x12345680 = some (7, 4198965) ∧ 4198965 % 512 = 53 ∧ 4198965 / 512 = 8201 := by decide +kernel

/-- Example 16.1, step 1. -/
theorem test_example_16_1 : let s := { pwrDemo 1 [(regInjSkip 0, 2)] id with armed := [] }
    modReg (exec (.injCtrlArm 0 0x72A01) s) (regInjCtrl 0) = some 0x72A04 ∧ modReg (exec (.injCtrlArm 0 0x72A01) s) regInjStatus = some 1 := by
  decide +kernel

/-- R54: an illegal word is counted; Table 2.6: IADD wraps; the program counter goes to the next word. -/
theorem test_iadd_wraps : let s := st (grp (r45 0xFFFFFFFF 2 7 9) [])
    regAfter (exec (.iadd g0 (w6 0 0 6 4 5 0)) s) 0 6 = some 1 ∧ regAfter (exec (.iadd g0 (w6 0 0 6 4 5 0)) s) 3 6 = some 16 ∧
    regAfter (exec (.iadd g0 (w6 0 0 6 4 5 0)) s) 1 6 = some 0 ∧ pcAfter (exec (.iadd g0 (w6 0 0 6 4 5 0)) s) = some 0x1008 ∧
    modReg (exec (.iadd g0 (w6 9 0 6 4 5 0)) s) (regDetCounter detIllegalInsn) = some 1 := by decide

end Sys2Proof.Tests
end

section
/-!
The state after reset (R11, log 4): what reads as its default because nothing is listed, and that both invariants of memory hold there.
-/
namespace Sys2Proof.Machine

@[simp] theorem Tbl.getD_nil {α : Type} (k : Nat) (d : α) : Tbl.getD [] k d = d := rfl

@[simp] theorem Memory.read_nil (a : Nat) : Memory.read [] a = 0 := Tbl.getD_nil a 0

/-- A register that nothing has changed reads its reset value (R11). -/
theorem State.reg_of_unlisted {s : State} {off : Nat} (h : Tbl.find s.regs.vals off = none) : s.reg off = regReset off := by
  simp [State.reg, Tbl.getD, h]

/-- A line without a tag is read from HBM in clear (R387). -/
theorem State.hbmByte_of_untagged {s : State} {dpa : Nat} (h : Tbl.getD s.mem.tags (dpa / 128) 0 = 0) :
    s.hbmByte dpa = Memory.read s.mem.hbm dpa := if_pos h

theorem State.cistern_of_unlisted {s : State} {n : Nat} (h : Tbl.find s.mem.cis n = none) : s.cistern n = Cistern.empty := by
  simp [State.cistern, Tbl.getD, h]

theorem MemoriesOk.of_nil {s : State} (hhost : s.mem.host = []) (hhbm : s.mem.hbm = []) : MemoriesOk s := by
  rw [MemoriesOk, hhost, hhbm]
  exact ⟨rfl, rfl⟩

/-- `CisternsOk` speaks of the lines that cisterns hold: cisterns that hold none keep it, whatever HBM holds. -/
theorem CisternsOk.of_no_lines {s : State} (h : ∀ n, (s.cistern n).lines = []) : CisternsOk s := by
  intro n
  rw [h n]
  exact ⟨List.nodup_nil, fun _ hl => absurd hl List.not_mem_nil⟩

@[simp] theorem State.reset_reg (off : Nat) : State.reset.reg off = regReset off := State.reg_of_unlisted rfl

@[simp] theorem State.reset_hbmByte (dpa : Nat) : State.reset.hbmByte dpa = 0 := State.hbmByte_of_untagged rfl

@[simp] theorem State.reset_cistern (n : Nat) : State.reset.cistern n = Cistern.empty := State.cistern_of_unlisted rfl

/-- The start of the induction for `Obligations.MemoriesStayCanonical` over the states that reset leads to. -/
theorem memoriesOk_reset : MemoriesOk State.reset := .of_nil rfl rfl

/-- The same for `Obligations.CisternsHoldMemory`. -/
theorem cisternsOk_reset : CisternsOk State.reset := .of_no_lines fun n => by rw [State.reset_cistern]; rfl

/-- Settles O2: registers and bytes that are not listed read their reset values, lists are empty by definition, and both invariants hold
where no byte and no cistern line is listed. -/
theorem resetState : Obligations.ResetState := by
  have hregs : ∀ off, State.reset.reg off = regReset off := State.reset_reg
  have hbytes : ∀ a, Memory.read State.reset.mem.host a = 0 ∧ State.reset.hbmByte a = 0 := fun a =>
    ⟨Memory.read_nil a, State.reset_hbmByte a⟩
  exact ⟨hregs, rfl, rfl, rfl, rfl, rfl, rfl, rfl, rfl, rfl, rfl, rfl, hbytes, memoriesOk_reset, cisternsOk_reset, rfl⟩

end Sys2Proof.Machine
end

section
/-!
Little-endian values and the bytes of a statistics record (R5, R158, Table 5.6): a field that is written reads back, and the other bytes stay.
-/
namespace Sys2Proof.Machine

/-! ## Little-endian values -/

@[simp] theorem leBytes_length (n : Nat) : ∀ v, (leBytes n v).length = n := by
  induction n with
  | zero => exact fun _ => rfl
  | succ n ih => exact fun v => congrArg (· + 1) (ih (v / 256))

theorem leVal_lt (bs : List (BitVec 8)) : leVal bs < 256 ^ bs.length := by
  induction bs with
  | nil => exact Nat.one_pos
  | cons b bs ih =>
    have hb : b.toNat < 256 := b.isLt
    rw [leVal, List.length_cons, Nat.pow_succ]
    omega

/-- A value of eight bytes is a 64-bit word's. -/
theorem leVal_take_eight_lt (bs : List (BitVec 8)) : leVal (bs.take 8) < 2 ^ 64 :=
  Nat.lt_of_lt_of_le (leVal_lt _) (Nat.pow_le_pow_right (n := 256) (by decide) (List.length_take_le 8 bs))

theorem leVal_leBytes (n : Nat) : ∀ v, leVal (leBytes n v) = v % 256 ^ n := by
  induction n with
  | zero => exact fun v => (Nat.mod_one v).symm
  | succ n ih => intro v; rw [Nat.pow_succ', Nat.mod_mul, leBytes, leVal, ih, BitVec.toNat_ofNat]

/-! ## Signed fields -/

/-- `sVal` is the library's two's-complement reading. -/
theorem sVal_eq_toInt (n x : Nat) : sVal n x = (BitVec.ofNat n x).toInt := rfl

/-- `wrapN` is the library's two's-complement word. -/
theorem wrapN_eq_toNat (n : Nat) (v : Int) : wrapN n v = (BitVec.ofInt n v).toNat := (BitVec.toNat_ofInt v).symm

theorem sVal_toNat {w : Nat} (n : Nat) (b : BitVec w) : sVal n b.toNat = (b.setWidth n).toInt := by
  rw [sVal_eq_toInt, BitVec.ofNat_toNat]

theorem sVal_wrapN_32 {e : Int} (lo : -(2 ^ 31) ≤ e) (hi : e < 2 ^ 31) : sVal 32 (wrapN 32 e) = e := by
  rw [sVal_eq_toInt, wrapN_eq_toNat, BitVec.ofNat_toNat, BitVec.setWidth_eq]
  exact BitVec.toInt_ofInt_eq_self (by decide) lo hi

/-! ## The fields of a record -/

theorem satAdd64_length {bs : List (BitVec 8)} {k : Nat} (n : Nat) (hlen : bs.length = 52) (hk : k < 6) :
    (satAdd64 bs k n).length = 52 := by
  simp only [satAdd64, List.length_append, List.length_take, List.length_drop, leBytes_length, hlen]
  omega

/-- The counter that is added to holds the sum, or all ones (R17). -/
theorem satAdd64_field {bs : List (BitVec 8)} {k : Nat} (n : Nat) (hlen : bs.length = 52) (hk : k < 6) :
    leVal (((satAdd64 bs k n).drop (8 * k)).take 8) = min (leVal ((bs.drop (8 * k)).take 8) + n) (2 ^ 64 - 1) := by
  have hpre : (bs.take (8 * k)).length = 8 * k := by rw [List.length_take, hlen]; omega
  have hfield : ((satAdd64 bs k n).drop (8 * k)).take 8 = leBytes 8 (min (leVal ((bs.drop (8 * k)).take 8) + n) (2 ^ 64 - 1)) := by
    rw [satAdd64, List.append_assoc, List.drop_left' hpre, List.take_left' (leBytes_length 8 _)]
  rw [hfield, leVal_leBytes]
  exact Nat.mod_eq_of_lt (by omega)

/-- The bytes before and after the counter stay. -/
theorem satAdd64_others {bs : List (BitVec 8)} {k j : Nat} (n : Nat) (hlen : bs.length = 52) (hk : k < 6)
    (hj : j < 8 * k ∨ (8 * k + 8 ≤ j ∧ j < 52)) : (satAdd64 bs k n).getD j 0 = bs.getD j 0 := by
  have hpre : (bs.take (8 * k)).length = 8 * k := by rw [List.length_take, hlen]; omega
  rw [satAdd64, List.append_assoc, List.getD_eq_getElem?_getD, List.getD_eq_getElem?_getD]
  rcases hj with before | ⟨after, _⟩
  · rw [List.getElem?_append_left (by omega), List.getElem?_take_of_lt before]
  · rw [List.getElem?_append_right (by omega), hpre, List.getElem?_append_right (by rw [leBytes_length]; omega), leBytes_length,
      List.getElem?_drop, show 8 * k + 8 + (j - 8 * k - 8) = j by omega]

theorem maxExpOf_bounds (bs : List (BitVec 8)) : -(2 ^ 31) ≤ maxExpOf bs ∧ maxExpOf bs < 2 ^ 31 :=
  ⟨BitVec.le_toInt (BitVec.ofNat 32 _), BitVec.toInt_lt (x := BitVec.ofNat 32 _)⟩

theorem raiseMaxExp_take {bs : List (BitVec 8)} (e : Int) (hlen : bs.length = 52) : (raiseMaxExp bs e).take 48 = bs.take 48 := by
  rw [raiseMaxExp, List.append_assoc, List.take_left' (by rw [List.length_take, hlen]; rfl)]

theorem raiseMaxExp_length {bs : List (BitVec 8)} (e : Int) (hlen : bs.length = 52) : (raiseMaxExp bs e).length = 52 := by
  simp [raiseMaxExp, hlen]

/-- MAXEXP becomes the larger of what it was and `e`. -/
theorem maxExpOf_raiseMaxExp {bs : List (BitVec 8)} {e : Int} (hlen : bs.length = 52) (lo : -(2 ^ 31) ≤ e) (hi : e < 2 ^ 31) :
    maxExpOf (raiseMaxExp bs e) = max (maxExpOf bs) e := by
  have hpre : (bs.take 48).length = 48 := by rw [List.length_take, hlen]; rfl
  have hfield : ((raiseMaxExp bs e).drop 48).take 4 = leBytes 4 (wrapN 32 (max (maxExpOf bs) e)) := by
    rw [raiseMaxExp, List.append_assoc, List.drop_left' hpre, List.take_left' (leBytes_length 4 _)]
  have hword : wrapN 32 (max (maxExpOf bs) e) < 256 ^ 4 := by rw [wrapN_eq_toNat]; exact BitVec.isLt _
  obtain ⟨hlo, hhi⟩ := maxExpOf_bounds bs
  rw [maxExpOf, hfield, leVal_leBytes, Nat.mod_eq_of_lt hword]
  exact sVal_wrapN_32 (by omega) (by omega)

end Sys2Proof.Machine
end

section
/-!
The statistics instructions (R161, R162, Table 5.8) of a group that may issue: what an instruction that reaches memory leaves, and the effect of
STRD, STCLR and STADD with and without a table.
-/
namespace Sys2Proof.Machine

/-! ## Issue of an instruction that reaches memory -/

theorem Go.bind_ne_stall {α β : Type} {x : Go α} {f : α → State → Go β} (hx : ∀ u, x ≠ .stall u) (hf : ∀ a t u, f a t ≠ .stall u) :
    ∀ u, x.bind f ≠ .stall u := by
  cases x with
  | ok a t => exact hf a t
  | stall t => exact absurd rfl (hx t)
  | lose c va t => exact fun u => nofun

/-- A legal word whose effect waits neither before issue nor after it leaves what the effect leaves after issue. -/
theorem State.issueGo_ok {s : State} {g : GRef} {gr : Group} {i : Insn} {fm : Form} {f : Group → State → Go Unit} {t : State}
    (h : Ready s g gr) (ok : fm.ok i = true) (hgo : ∀ u, f gr s ≠ .stall u)
    (hrun : f gr (s.issued g gr.pc.toNat (regUses fm i)) = .ok () t) : s.issueGo g i fm f = t := by
  cases hs : f gr s with
  | stall u => exact absurd hs (hgo u)
  | ok _ _ | lose _ _ _ => simp only [State.issueGo, h.2, ok, if_true, hs, State.issue_ok _ h ok, hrun]

/-! ## The record that an instruction names -/

theorem State.ctxOf_issued (s : State) (g : GRef) (gr : Group) (pc : Nat) (rs : List (Nat × Bool)) :
    (s.issued g pc rs).ctxOf g gr = s.ctxOf g gr := by
  have hblocks : ((s.issued g pc rs).tile g.tile).blocks = (s.tile g.tile).blocks := by
    change ((State.setTile s g.tile _).tile g.tile).blocks = _
    rw [State.tile_setTile_self]
    rfl
  simp only [State.ctxOf, State.blockOf, hblocks]

theorem State.statVa_issued (s : State) (g : GRef) (pc : Nat) (rs : List (Nat × Bool)) (c id : Nat) :
    (s.issued g pc rs).statVa c id = s.statVa c id := rfl

/-- The record that an instruction of a group names (R162): the identifier is A of the lowest active lane. -/
def State.namedStat (s : State) (g : GRef) (gr : Group) (i : Insn) : Option Nat :=
  s.statVa (s.ctxOf g gr) (gr.rd gr.first (regNum i.a)).toNat

theorem State.namedStat_issued (s : State) (g : GRef) (gr : Group) (i : Insn) (pc : Nat) (rs : List (Nat × Bool)) :
    (s.issued g pc rs).namedStat g gr i = s.namedStat g gr i := by
  rw [State.namedStat, State.ctxOf_issued, State.statVa_issued, State.namedStat]

/-! ## STCLR and STADD -/

/-- R161: without a table the change is not performed and is counted. -/
theorem State.statInsn_noTable {s : State} {g : GRef} {gr : Group} {i : Insn} (f : List (BitVec 8) → List (BitVec 8)) (calm : Calm s)
    (hm : gr.m ≠ 0) (hva : s.namedStat g gr i = none) :
    s.statInsn g gr i f = .ok () ((s.det detStatDropped).putGroup g gr.next) := by
  rw [State.namedStat] at hva
  rw [State.statInsn, if_neg hm]
  simp [hva, State.check_calm _ _ _ _ calm.1]

/-- With a table and no store queued to the record, the record is read and changed in one step. -/
theorem State.statInsn_table {s : State} {g : GRef} {gr : Group} {i : Insn} {va : Nat} (f : List (BitVec 8) → List (BitVec 8))
    (calm : Calm s) (hm : gr.m ≠ 0) (hva : s.namedStat g gr i = some va) (hq : s.behindStores g (s.ctxOf g gr) va = false) :
    s.statInsn g gr i f = (s.vModify (.group g.tile g.slot) (s.ctxOf g gr) va 52 f).bind fun _ t => .ok () (t.putGroup g gr.next) := by
  rw [State.namedStat] at hva
  rw [State.statInsn, if_neg hm]
  simp [hva, hq, State.check_calm _ _ _ _ calm.1]

section
variable {s : State} {g : GRef} {gr : Group} {i : Insn} {fm : Form}

theorem State.issueGo_statInsn_noTable (f : Group → List (BitVec 8) → List (BitVec 8)) (h : Ready s g gr) (ok : fm.ok i = true)
    (hm : gr.m ≠ 0) (hva : s.namedStat g gr i = none) :
    s.issueGo g i fm (fun gr t => t.statInsn g gr i (f gr)) =
      ((s.issued g gr.pc.toNat (regUses fm i)).det detStatDropped).putGroup g gr.next := by
  refine State.issueGo_ok h ok (fun u => ?_) (State.statInsn_noTable _ (h.1.issued ..) hm ((State.namedStat_issued ..).trans hva))
  rw [State.statInsn_noTable _ h.1 hm hva]
  exact nofun

theorem State.issueGo_statInsn_table {va : Nat} {bs : List (BitVec 8)} {t : State} (f : Group → List (BitVec 8) → List (BitVec 8))
    (h : Ready s g gr) (ok : fm.ok i = true) (hm : gr.m ≠ 0) (hva : s.namedStat g gr i = some va)
    (hq : s.behindStores g (s.ctxOf g gr) va = false)
    (hq' : (s.issued g gr.pc.toNat (regUses fm i)).behindStores g (s.ctxOf g gr) va = false)
    (hgo : ∀ u, s.vModify (.group g.tile g.slot) (s.ctxOf g gr) va 52 (f gr) ≠ .stall u)
    (hrun : (s.issued g gr.pc.toNat (regUses fm i)).vModify (.group g.tile g.slot) (s.ctxOf g gr) va 52 (f gr) = .ok bs t) :
    s.issueGo g i fm (fun gr t => t.statInsn g gr i (f gr)) = t.putGroup g gr.next := by
  have hctx := State.ctxOf_issued s g gr gr.pc.toNat (regUses fm i)
  refine State.issueGo_ok h ok ?_ ?_
  · rw [State.statInsn_table _ h.1 hm hva hq]
    exact Go.bind_ne_stall hgo fun _ _ _ => nofun
  · rw [State.statInsn_table _ (h.1.issued ..) hm ((State.namedStat_issued ..).trans hva) (by rw [hctx]; exact hq'), hctx, hrun]
    rfl

/-- What STADD makes of a record's bytes (Table 5.8): MAXEXP raised, or the named counter added to, by B of the lowest active lane. -/
def staddChange (i : Insn) (gr : Group) (bs : List (BitVec 8)) : List (BitVec 8) :=
  let b := gr.rd64 gr.first (regNum i.b)
  if i.mod.toNat = 6 then raiseMaxExp bs (b.setWidth 32).toInt else satAdd64 bs i.mod.toNat b.toNat

theorem exec_stclr (s : State) (g : GRef) (i : Insn) :
    exec (.stclr g i) s = .next (s.issueGo g i (formStat i 0 0 false) fun gr t => t.statInsn g gr i fun _ => statClear) := rfl

theorem exec_stadd (s : State) (g : GRef) (i : Insn) :
    exec (.stadd g i) s = .next (s.issueGo g i (formStat i 0 2 true) fun gr t => t.statInsn g gr i (staddChange i gr)) := by
  refine congrArg (fun f => Host.Outcome.next (s.issueGo g i _ f)) (funext fun gr => funext fun t =>
    congrArg (t.statInsn g gr i) (funext fun bs => ?_))
  rw [staddChange, sVal_toNat]

/-! ## STRD -/

/-- The value of a field of a record, as 64 bits: a counter, or MAXEXP with its sign extended (Table 5.8). -/
def statField (i : Insn) (bs : List (BitVec 8)) : Nat :=
  if i.mod = 6 then ((BitVec.ofNat 32 (leVal ((bs.drop 48).take 4))).signExtend 64).toNat else leVal ((bs.drop (8 * i.mod.toNat)).take 8)

theorem statField_lt (i : Insn) (bs : List (BitVec 8)) : statField i bs < 2 ^ 64 := by
  unfold statField
  split
  · exact BitVec.isLt _
  · exact leVal_take_eight_lt _

theorem statField_eq (i : Insn) (bs : List (BitVec 8)) :
    statField i bs = if i.mod.toNat = 6 then wrapN 64 (maxExpOf bs) else leVal ((bs.drop (8 * i.mod.toNat)).take 8) := by
  have hmod : i.mod = 6 ↔ i.mod.toNat = 6 := BitVec.toNat_inj.symm
  simp only [statField, hmod, wrapN_eq_toNat]
  rfl

/-- The effect of STRD in a group that has been issued. -/
def State.strdGo (g : GRef) (i : Insn) (gr : Group) (t : State) : Go Unit :=
  if gr.m = 0 then .ok () (t.putGroup g gr.next)
  else match t.namedStat g gr i with
    | none => .ok () (t.putGroup g (writeLanes gr (regNum i.d) 2 fun _ => 0))
    | some va =>
      if t.behindStores g (t.ctxOf g gr) va then .stall t
      else (t.vRead (.group g.tile g.slot) (t.ctxOf g gr) (plainReq (some (t.ctxOf g gr))) va 52).bind fun bs t1 =>
        .ok () (t1.putGroup g (writeLanes gr (regNum i.d) 2 fun _ => statField i bs))

theorem exec_strd (s : State) (g : GRef) (i : Insn) :
    exec (.strd g i) s = .next (s.issueGo g i (formStat i 2 0 true) (State.strdGo g i)) := by
  refine congrArg (fun f => Host.Outcome.next (s.issueGo g i _ f)) (funext fun gr => funext fun t => ?_)
  simp only [State.strdGo, statField_eq]
  rfl

theorem State.strdGo_noTable (hm : gr.m ≠ 0) (hva : s.namedStat g gr i = none) :
    State.strdGo g i gr s = .ok () (s.putGroup g (writeLanes gr (regNum i.d) 2 fun _ => 0)) := by
  rw [State.strdGo, if_neg hm, hva]

theorem State.strdGo_table {va : Nat} (hm : gr.m ≠ 0) (hva : s.namedStat g gr i = some va)
    (hq : s.behindStores g (s.ctxOf g gr) va = false) :
    State.strdGo g i gr s = (s.vRead (.group g.tile g.slot) (s.ctxOf g gr) (plainReq (some (s.ctxOf g gr))) va 52).bind fun bs t =>
      .ok () (t.putGroup g (writeLanes gr (regNum i.d) 2 fun _ => statField i bs)) := by
  rw [State.strdGo, if_neg hm, hva]
  simp [hq]

/-- The register pair that a legal STRD names as D lies within the register file. -/
theorem regNum_d_of_formStat (ok : (formStat i 2 0 true).ok i = true) : regNum i.d + 2 ≤ 128 := by
  refine regNum_fits i.d 2 (by decide) ?_
  simp only [formStat, Form.ok, Bool.and_eq_true] at ok
  obtain ⟨⟨⟨_, hd⟩, _⟩, _⟩ := ok
  exact hd

/-- A lane's pair holds the 64-bit value written to it. -/
theorem writeLanes_rd64 (gr : Group) {d : Nat} (v : Nat → Nat) (hd : d + 2 ≤ 128) {l : Nat} (hl : l ∈ gr.lanes) (hv : v l < 2 ^ 64) :
    ((writeLanes gr d 2 v).rd64 l d).toNat = v l := by
  obtain ⟨hl32, hact⟩ := (gr.mem_lanes l).1 hl
  have hlow : (writeLanes gr d 2 v).rd l d = BitVec.ofNat 32 (v l) := by
    rw [writeLanes_rd gr d 2 v hd l d hl32 (by omega), if_pos ⟨hact, by omega, by omega⟩, Nat.sub_self]
    rfl
  have hhigh : (writeLanes gr d 2 v).rd l (d + 1) = BitVec.ofNat 32 (v l >>> 32) := by
    rw [writeLanes_rd gr d 2 v hd l (d + 1) hl32 (by omega), if_pos ⟨hact, by omega, by omega⟩, Nat.add_sub_cancel_left]
  rw [Group.rd64, hlow, hhigh, BitVec.toNat_append, ← Nat.shiftLeft_add_eq_or_of_lt (BitVec.isLt _), BitVec.toNat_ofNat,
    BitVec.toNat_ofNat, Nat.shiftRight_eq_div_pow, Nat.shiftLeft_eq]
  omega

/-- R161: without a table STRD writes 0. -/
theorem strd_noTable (h : Ready s g gr) (ok : (formStat i 2 0 true).ok i = true) (hm : gr.m ≠ 0) (hva : s.namedStat g gr i = none) :
    Runs (.strd g i) s (LaneWrote s g gr (formStat i 2 0 true) i 2 fun _ => 0) := by
  have hrun := State.strdGo_noTable hm ((State.namedStat_issued s g gr i gr.pc.toNat (regUses (formStat i 2 0 true) i)).trans hva)
  refine ⟨_, (exec_strd s g i).trans (congrArg _ (State.issueGo_ok h ok (fun u => ?_) hrun)), _, rfl, writeLanes_pc .., writeLanes_only ..,
    fun l r hl hr => writeLanes_rd _ _ _ _ (regNum_d_of_formStat ok) l r hl hr⟩
  rw [State.strdGo_noTable hm hva]
  exact nofun

/-- With a table STRD writes the field of the record's bytes. -/
theorem strd_table {va : Nat} {bs : List (BitVec 8)} {t : State} (h : Ready s g gr) (ok : (formStat i 2 0 true).ok i = true)
    (hm : gr.m ≠ 0) (hva : s.namedStat g gr i = some va) (hq : s.behindStores g (s.ctxOf g gr) va = false)
    (hq' : (s.issued g gr.pc.toNat (regUses (formStat i 2 0 true) i)).behindStores g (s.ctxOf g gr) va = false)
    (hgo : ∀ u, s.vRead (.group g.tile g.slot) (s.ctxOf g gr) (plainReq (some (s.ctxOf g gr))) va 52 ≠ .stall u)
    (hrun : (s.issued g gr.pc.toNat (regUses (formStat i 2 0 true) i)).vRead (.group g.tile g.slot) (s.ctxOf g gr)
      (plainReq (some (s.ctxOf g gr))) va 52 = .ok bs t) :
    Runs (.strd g i) s fun t => ∃ gr', t.group g = some gr' ∧ gr'.pc = gr.pc + 8 ∧
      ∀ l ∈ gr.lanes, (gr'.rd64 l (regNum i.d)).toNat = statField i bs := by
  have hctx := State.ctxOf_issued s g gr gr.pc.toNat (regUses (formStat i 2 0 true) i)
  refine ⟨t.putGroup g (writeLanes gr (regNum i.d) 2 fun _ => statField i bs), ?_, _, State.group_putGroup_self .., writeLanes_pc ..,
    fun l hl => writeLanes_rd64 gr _ (regNum_d_of_formStat ok) hl (statField_lt i bs)⟩
  refine (exec_strd s g i).trans (congrArg _ (State.issueGo_ok h ok ?_ ?_))
  · rw [State.strdGo_table hm hva hq]
    exact Go.bind_ne_stall hgo fun _ _ _ => nofun
  · rw [State.strdGo_table hm ((State.namedStat_issued ..).trans hva) (by rw [hctx]; exact hq'), hctx, hrun]
    rfl

end

/-- Settles O22: the instructions' effect with and without a table, and then the bytes of the record that STADD and STCLR leave. -/
theorem statisticsInstructions : Obligations.StatisticsInstructions := by
  refine ⟨fun s g gr i h hm => ⟨fun hva => ⟨fun ok => strd_noTable h ok hm hva, fun ok => ?_, fun ok => ?_⟩,
    fun va hva hq => ⟨fun bs t ok hq' hgo hrun => strd_table h ok hm hva hq hq' hgo hrun, fun bs t ok hq' hgo hrun => ?_,
      fun bs t ok hq' hgo hrun => ?_⟩⟩, fun bs k n hlen hk => ?_, fun bs e hlen lo hi => ?_, by decide⟩
  · exact (exec_stclr s g i).trans (congrArg _ (State.issueGo_statInsn_noTable _ h ok hm hva))
  · exact (exec_stadd s g i).trans (congrArg _ (State.issueGo_statInsn_noTable _ h ok hm hva))
  · exact (exec_stclr s g i).trans (congrArg _ (State.issueGo_statInsn_table _ h ok hm hva hq hq' hgo hrun))
  · exact (exec_stadd s g i).trans (congrArg _ (State.issueGo_statInsn_table _ h ok hm hva hq hq' hgo hrun))
  · exact ⟨satAdd64_length n hlen hk, satAdd64_field n hlen hk, fun j hj => satAdd64_others n hlen hk hj⟩
  · exact ⟨raiseMaxExp_length e hlen, maxExpOf_raiseMaxExp hlen lo hi, raiseMaxExp_take e hlen⟩

end Sys2Proof.Machine
end

section
/-!
The rules U-SGDM and U-SIGN (R210): what the last pass makes of one element, and that `layerStep` makes it of every element.
-/
namespace Sys2Proof.Machine

/-- The decayed master of the last pass, (1 - ETA * LAMBDA) * w (R210). -/
def decayedMaster (l : LRec) (eta w : Nat) : Nat := f32Mul (f32Fma (f32Neg eta) (lLam l) f32One) w

/-- U-SGDM: the momentum, then the step along it or along its look-ahead. -/
theorem lastPass_sgdm {l : LRec} (hrule : lRule l = 0) (eta g h cf w m : Nat) :
    let m' := f32Fma (lB1 l) m g
    lastPass l eta (f32Fma (f32Neg eta) (lLam l) f32One) g h cf w m =
      (f32Fma (f32Neg eta) (if lLook l then f32Fma (lB1 l) m' g else m') (decayedMaster l eta w), m') := by
  simp only [lastPass, hrule, decayedMaster]

/-- U-SIGN: the step along the sign of the first average, and the second average kept. -/
theorem lastPass_sign {l : LRec} (hrule : lRule l = 3) (eta g h cf w m : Nat) :
    lastPass l eta (f32Fma (f32Neg eta) (lLam l) f32One) g h cf w m =
      (f32Fma (f32Neg eta) (f32Sgn (f32Fma (lB1 l) m (f32Mul (f32Sub f32One (lB1 l)) g))) (decayedMaster l eta w),
        f32Fma (lB2 l) m (f32Mul (f32Sub f32One (lB2 l)) g)) := by
  simp only [lastPass, hrule, decayedMaster]

/-- Without the statistics of U-FAC and U-FACM the last pass takes each gradient as its value h, and no clipping sum. -/
theorem layerStep_element {l : LRec} {b : LBufs} {k w : Nat} (eta : Nat) (hplain : lFactored l = false) (hw : b.w[k]? = some w) :
    let p := lastPass l eta (f32Fma (f32Neg eta) (lLam l) f32One) (b.g.getD k 0) (b.g.getD k 0) (clipFactor l []) w (b.m.getD k 0)
    (layerStep l eta b).1.w[k]? = some p.1 ∧ (layerStep l eta b).1.m[k]? = some p.2 := by
  constructor <;>
    simp only [layerStep, hplain, List.getElem?_map, List.getElem?_zipIdx, hw, Option.map_some, Nat.zero_add, Bool.false_eq_true, if_false]

/-- Settles O40: the last pass on the element by each rule; the operations are the exact ones rounded once, by definition. -/
theorem updateRules : Obligations.UpdateRules := by
  refine ⟨fun l eta b k w hw => ?_, fun a b c => ⟨rfl, rfl⟩⟩
  refine ⟨fun hrule => ?_, fun hrule => ?_⟩
  · have hplain : lFactored l = false := by simp [lFactored, hrule]
    obtain ⟨hwk, hmk⟩ := layerStep_element eta hplain hw
    rw [lastPass_sgdm hrule] at hwk hmk
    exact ⟨hmk, hwk⟩
  · have hplain : lFactored l = false := by simp [lFactored, hrule]
    obtain ⟨hwk, hmk⟩ := layerStep_element eta hplain hw
    rw [lastPass_sign hrule] at hwk hmk
    exact ⟨hmk, hwk⟩

end Sys2Proof.Machine
end

section
/-!
The update commands and engines (R204 to R209, R212, R220): what a command's start leaves, which layer an engine takes and what it leaves
of it, and the end of a layer.
-/
namespace Sys2Proof.Machine

@[simp] theorem Go.bind_ok {α β : Type} (a : α) (s : State) (f : α → State → Go β) : (Go.ok a s).bind f = f a s := rfl

@[simp] theorem Go.bind_stall {α β : Type} (s : State) (f : α → State → Go β) : (Go.stall s : Go α).bind f = .stall s := rfl

/-! ## Commands -/

theorem State.started_of_cmd {s : State} {r : CmdRef} {c : Cmd} {opc : Nat} (hc : s.cmd r = some c) (hph : c.phase = .started)
    (hop : cmdFld c 0 8 = opc) : s.started r opc = some c := by
  simp only [State.started, hc, hph, hop, true_and, if_true]

@[simp] theorem State.ctx_putCtx_self (s : State) (c : Nat) (run : CtxRun) : (s.putCtx c run).ctx c = some run := Tbl.find_put_self ..

theorem State.queue_putQueue_self {s : State} {c n : Nat} {q : Queue} (v : Queue) (hq : s.queue c n = some q) :
    (s.putQueue c n v).queue c n = some v := by
  obtain ⟨run, hrun, -⟩ := Option.bind_eq_some_iff.1 hq
  simp only [State.putQueue, hrun, State.queue, State.ctx_putCtx_self, Option.bind_some, Tbl.find_put_self]

theorem State.cmd_putCmd_self {s : State} {r : CmdRef} {c : Cmd} (v : Cmd) (hc : s.cmd r = some c) : (s.putCmd r v).cmd r = some v := by
  obtain ⟨q, hq, -⟩ := Option.bind_eq_some_iff.1 hc
  simp only [State.putCmd, hq, State.cmd, State.queue_putQueue_self _ hq, Option.bind_some, Tbl.find_put_self]

theorem State.putCmd_cases (s : State) (r : CmdRef) (v : Cmd) : s.putCmd r v = s ∨ ∃ c run, s.putCmd r v = s.putCtx c run := by
  unfold State.putCmd State.putQueue
  split
  · split
    · exact .inr ⟨_, _, rfl⟩
    · exact .inl rfl
  · exact .inl rfl

@[simp] theorem State.putCmd_mem (s : State) (r : CmdRef) (v : Cmd) : (s.putCmd r v).mem = s.mem := by
  obtain h | ⟨c, run, h⟩ := s.putCmd_cases r v <;> simp [h]

@[simp] theorem State.putCmd_eng (s : State) (r : CmdRef) (v : Cmd) : (s.putCmd r v).eng = s.eng := by
  obtain h | ⟨c, run, h⟩ := s.putCmd_cases r v <;> simp [h]

section
variable {s : State} {r : CmdRef} {c : Cmd} (hc : s.cmd r = some c) (status : Nat)
include hc

theorem State.finish_of_cmd : s.finish r status = s.putCmd r { c with phase := .finished status, progress := 0 } := by
  rw [State.finish, hc]

theorem State.cmd_finish_self : (s.finish r status).cmd r = some { c with phase := .finished status, progress := 0 } := by
  rw [State.finish_of_cmd hc, State.cmd_putCmd_self _ hc]

theorem State.finish_mem_of_cmd : (s.finish r status).mem = s.mem := by rw [State.finish_of_cmd hc, State.putCmd_mem]

theorem State.finish_eng_of_cmd : (s.finish r status).eng = s.eng := by rw [State.finish_of_cmd hc, State.putCmd_eng]

end

@[simp] theorem State.boardDone_mem (s : State) (o : Owner) : (s.boardDone o).mem = s.mem := rfl
@[simp] theorem State.boardDone_eng (s : State) (o : Owner) : (s.boardDone o).eng = s.eng := rfl
@[simp] theorem State.boardDone_cmd (s : State) (o : Owner) (r : CmdRef) : (s.boardDone o).cmd r = s.cmd r := rfl

/-- What a command leaves that finishes with a status, in a module that stands as `s` otherwise (R322). -/
def FinishedOf (s : State) (r : CmdRef) (c : Cmd) (status : Nat) (t : State) : Prop :=
  (∃ c', t.cmd r = some c' ∧ c' = { c with phase := .finished status, progress := 0 }) ∧ t.mem = s.mem ∧ t.eng = s.eng

theorem State.boardDone_finish {s : State} {r : CmdRef} {c : Cmd} (o : Owner) (hc : s.cmd r = some c) (status : Nat) :
    FinishedOf s r c status ((s.boardDone o).finish r status) := by
  have hc' : (s.boardDone o).cmd r = some c := hc
  exact ⟨⟨_, State.cmd_finish_self hc' status, rfl⟩, State.finish_mem_of_cmd hc' status, State.finish_eng_of_cmd hc' status⟩

/-! ## The start of an update command (R207, R208, R209) -/

/-- The engines' list with a command's run entered, no layer taken. -/
def State.enterUpd (s : State) (r : CmdRef) : State := { s with eng := { s.eng with upds := s.eng.upds ++ [⟨r, 0, 0, false, []⟩] } }

section
variable {s t1 : State} {r : CmdRef} {c : Cmd} {h : Nat}

/-- The header is read and judged, for a command that is not in the list and whose table is aligned. -/
theorem State.updStart_of_header (ok : Bool) (hnew : ∀ u ∈ s.eng.upds, u.r ≠ r) (hal : cmdFld c 128 57 % 64 = 0)
    (hread : s.updHeader r (.cmd r) c = .ok h t1) :
    s.updStart r c ok = if ok && updOk c.raw.toNat h (ones 128 57 ||| ones 192 97) then (t1.boardDone (.cmd r)).enterUpd r
      else (t1.boardDone (.cmd r)).finish r stDescInvalid := by
  have hlisted : s.eng.upds.any (fun u => u.r = r) = false := by simpa using hnew
  have hal' : bitsOf c.raw.toNat 128 57 % 64 = 0 := hal
  simp only [State.updStart, hlisted, hal', hread, Go.forCmd, State.enterUpd, ne_eq, not_true, if_false, Bool.false_eq_true]

theorem exec_updRun (hc : s.cmd r = some c) (hph : c.phase = .started) (hop : cmdFld c 0 8 = 0x10) (hmode : cmdFld c 288 1 = 0) :
    exec (.updRun r) s = .next (s.updStart r c (decide (cmdFld c 256 32 ≠ 0))) := by
  change execUpdRun r s = _
  rw [execUpdRun, State.started_of_cmd hc hph hop]
  exact congrArg _ (if_pos hmode)

theorem exec_updRunRefresh (hc : s.cmd r = some c) (hph : c.phase = .started) (hop : cmdFld c 0 8 = 0x10) (hmode : cmdFld c 288 1 = 1) :
    exec (.updRunRefresh r) s = .next (s.updStart r c (decide (cmdFld c 256 32 = 0))) := by
  change execUpdRunRefresh r s = _
  rw [execUpdRunRefresh, State.started_of_cmd hc hph hop]
  exact congrArg _ (if_pos hmode)

/-- What UPD_SET_STEP is judged by once its header is read (R207, R208). -/
def setStepOk (c : Cmd) (h : Nat) : Bool :=
  updOk c.raw.toNat h (ones 128 57 ||| ones 192 96 ||| ones 320 57) && decide (cmdFld c 256 32 ≠ 0) && decide (cmdFld c 320 57 % 4 = 0)

theorem setStepOk_iff (c : Cmd) (h : Nat) : setStepOk c h = true ↔
    updOk c.raw.toNat h (ones 128 57 ||| ones 192 96 ||| ones 320 57) = true ∧ cmdFld c 256 32 ≠ 0 ∧ cmdFld c 320 57 % 4 = 0 := by
  simp only [setStepOk, Bool.and_eq_true, decide_eq_true_eq, and_assoc]

/-- UPD_SET_STEP reads the step sizes and writes them as step entries (R208). -/
def State.setSteps (s : State) (r : CmdRef) (c : Cmd) (h : Nat) : Go Unit :=
  (s.vKeep (.cmd r) r.ctx (engReq r.ctx) (cmdFld c 320 57) (4 * cmdFld c 224 32)).bind fun bs t =>
    t.vWrite (.cmd r) r.ctx (engReq r.ctx) (bitsOf h 128 57 + 8 * cmdFld c 192 32) (stepBytes (cmdFld c 256 32) (u32s (cmdFld c 224 32) bs))

theorem exec_updSetStep (hc : s.cmd r = some c) (hph : c.phase = .started) (hop : cmdFld c 0 8 = 0x11) (hal : cmdFld c 128 57 % 64 = 0)
    (hread : s.updHeader r (.cmd r) c = .ok h t1) :
    exec (.updSetStep r) s = .next (if setStepOk c h then Go.forCmd r (fun _ u => (u.boardDone (.cmd r)).finish r 0) (t1.setSteps r c h)
      else (t1.boardDone (.cmd r)).finish r stDescInvalid) := by
  change execUpdSetStep r s = _
  rw [execUpdSetStep, State.started_of_cmd hc hph hop]
  simp only [hal, hread, Go.forCmd, ne_eq, not_true, if_false]
  rfl

/-- What a command's run leaves that enters the list, in a module that stands as `s` otherwise. -/
def EnteredOf (s : State) (r : CmdRef) (t : State) : Prop :=
  t.eng.upds = s.eng.upds ++ [⟨r, 0, 0, false, []⟩] ∧ t.mem = s.mem ∧ t.eng.spurs = s.eng.spurs

/-- A run enters the list where its payload, header and step are good, and its command is refused otherwise. -/
theorem State.updStart_cases (P : Prop) [Decidable P] (hnew : ∀ u ∈ s.eng.upds, u.r ≠ r) (hal : cmdFld c 128 57 % 64 = 0)
    (hread : s.updHeader r (.cmd r) c = .ok h t1) (hc1 : t1.cmd r = some c) :
    let good := updOk c.raw.toNat h (ones 128 57 ||| ones 192 97) = true ∧ P
    (good → EnteredOf t1 r (s.updStart r c (decide P))) ∧ (¬good → FinishedOf t1 r c stDescInvalid (s.updStart r c (decide P))) := by
  rw [State.updStart_of_header _ hnew hal hread]
  refine ⟨fun ⟨hok, hP⟩ => ?_, fun hbad => ?_⟩
  · rw [if_pos (by simp [hok, hP])]
    exact ⟨rfl, rfl, rfl⟩
  · rw [if_neg (by simpa [and_comm] using hbad)]
    exact State.boardDone_finish _ hc1 _

theorem updSetStep_writes {bs : List (BitVec 8)} {t2 t3 : State} (hc : s.cmd r = some c) (hph : c.phase = .started)
    (hop : cmdFld c 0 8 = 0x11) (hal : cmdFld c 128 57 % 64 = 0) (hread : s.updHeader r (.cmd r) c = .ok h t1) (hok : setStepOk c h = true)
    (hsrc : t1.vKeep (.cmd r) r.ctx (engReq r.ctx) (cmdFld c 320 57) (4 * cmdFld c 224 32) = .ok bs t2)
    (hdst : t2.vWrite (.cmd r) r.ctx (engReq r.ctx) (bitsOf h 128 57 + 8 * cmdFld c 192 32)
      (stepBytes (cmdFld c 256 32) (u32s (cmdFld c 224 32) bs)) = .ok () t3) (hc3 : t3.cmd r = some c) :
    Runs (.updSetStep r) s (FinishedOf t3 r c 0) := by
  have hsteps : t1.setSteps r c h = .ok () t3 := by rw [State.setSteps, hsrc, Go.bind_ok, hdst]
  refine ⟨_, exec_updSetStep hc hph hop hal hread, ?_⟩
  rw [if_pos hok, hsteps]
  exact State.boardDone_finish _ hc3 0

theorem updSetStep_refused (hc : s.cmd r = some c) (hph : c.phase = .started) (hop : cmdFld c 0 8 = 0x11) (hal : cmdFld c 128 57 % 64 = 0)
    (hread : s.updHeader r (.cmd r) c = .ok h t1) (hbad : ¬ setStepOk c h = true) (hc1 : t1.cmd r = some c) :
    Runs (.updSetStep r) s (FinishedOf t1 r c stDescInvalid) := by
  refine ⟨_, exec_updSetStep hc hph hop hal hread, ?_⟩
  rw [if_neg hbad]
  exact State.boardDone_finish _ hc1 _

end

/-! ## What an engine takes of a layer -/

/-- An engine has taken layer `i` of a run, whose record lies at `va`, and will write `status` (R209), with memory as it stands in `w`. -/
def TookLayer (spur : Nat) (r : CmdRef) (i va status : Nat) (w t : State) : Prop :=
  t.mem = w.mem ∧ ∃ e, Tbl.find t.eng.spurs spur = some e ∧ e.r = r ∧ e.layer = i ∧ e.va = va ∧ e.status = status

theorem State.takeLayer_took {s w : State} {spur i va status : Nat} {u : UpdRun} {adds : List (Nat × List Nat × Option Int)}
    (hmem : s.mem = w.mem) : TookLayer spur u.r i va status w (s.takeLayer spur u ⟨u.r, i, va, status, adds⟩) :=
  ⟨hmem, _, Tbl.find_put_self .., rfl, rfl, rfl, rfl⟩

/-! ## The checks of a layer (R206, R209) -/

/-- The step entry is counted where it is of another step than the command (R209). -/
def State.noteEntry (s : State) (c : Cmd) (ent : Nat) : State := if ent / 2 ^ 32 ≠ cmdFld c 256 32 then s.det detUpdStaleStep else s

@[simp] theorem State.noteEntry_mem (s : State) (c : Cmd) (ent : Nat) : (s.noteEntry c ent).mem = s.mem := by
  unfold State.noteEntry
  split <;> simp

theorem State.noteEntry_armed (s : State) (c : Cmd) (ent : Nat) : (s.noteEntry c ent).armed = s.armed := by
  unfold State.noteEntry
  split <;> simp

section
variable {s : State} {c : Cmd} {l : LRec} {ent : Nat} (spur : Nat) (u : UpdRun) (i va hdr : Nat) (calm : s.armed = [])
include calm

theorem State.runLayer_invalid (hbad : layerOk l = false ∨ (cmdFld c 288 1 = 0 ∧ f32NonNeg (ent % 2 ^ 32) = false)) :
    s.runLayer spur u c i va l hdr ent = .ok () ((s.det detUpdInvalid).takeLayer spur u ⟨u.r, i, va, 4, []⟩) := by
  have hinvalid : (!(layerOk l && (decide (cmdFld c 288 1 = 1) || f32NonNeg (ent % 2 ^ 32)))) = true := by
    obtain h | ⟨hmode, heta⟩ := hbad
    · simp only [h, Bool.false_and, Bool.not_false]
    · simp only [hmode, heta, Nat.zero_ne_one, decide_false, Bool.or_false, Bool.and_false, Bool.not_false]
  simp only [State.runLayer, State.check_calm _ _ _ _ calm, hinvalid, if_true]

theorem State.runLayer_refresh (hok : layerOk l = true) (hmode : cmdFld c 288 1 = 1) :
    s.runLayer spur u c i va l hdr ent = s.refreshLayer spur u i va l (BitVec.ofNat 64 hdr) := by
  simp [State.runLayer, State.check_calm _ _ _ _ calm, hok, hmode]

/-- A valid record in update mode: LASTSTEP decides. -/
theorem State.runLayer_update (hok : layerOk l = true) (hmode : cmdFld c 288 1 = 0) (heta : f32NonNeg (ent % 2 ^ 32) = true) :
    s.runLayer spur u c i va l hdr ent =
      if cmdFld c 256 32 ≤ lLast l then .ok () (((s.noteEntry c ent).det detUpdRepeat).takeLayer spur u ⟨u.r, i, va, 2, []⟩)
      else (s.noteEntry c ent).updateLayer spur u i va l (BitVec.ofNat 64 hdr) (ent % 2 ^ 32) (cmdFld c 256 32) := by
  have hupdate : decide (cmdFld c 288 1 = 1) = false := by simp only [hmode, Nat.zero_ne_one, decide_false]
  have hentry : (s.check detUpdStaleStep spur (decide (ent / 2 ^ 32 ≠ cmdFld c 256 32))).2 = s.noteEntry c ent := by
    simp only [State.check_calm _ _ _ _ calm, State.noteEntry, decide_eq_true_eq]
  have hrepeat : ∀ bad, (s.noteEntry c ent).check detUpdRepeat spur bad =
      (bad, if bad then (s.noteEntry c ent).det detUpdRepeat else s.noteEntry c ent) :=
    fun bad => State.check_calm _ _ _ _ ((s.noteEntry_armed c ent).trans calm)
  simp only [State.runLayer, hupdate, hok, heta, Bool.false_or, Bool.and_self, Bool.not_true, State.check_calm s detUpdInvalid _ _ calm,
    Bool.false_eq_true, if_false, hentry, hrepeat, decide_eq_true_eq]
  by_cases hrep : cmdFld c 256 32 ≤ lLast l
  · rw [if_pos hrep, if_pos hrep, if_pos hrep]
  · rw [if_neg hrep, if_neg hrep, if_neg hrep]

end

/-! ## The passes of a layer (R209, R210, R212, R220) -/

/-- What the passes write besides the narrow orders: masters, moments, and the statistics and P2 of the rules that keep them (Table 7.7). -/
def bufferWrites (l : LRec) (va : Nat) (n : LBufs × Nat) : List (Nat × Nat × List (BitVec 8)) :=
  [(lWbase l, 0, numBytes 4 n.1.w), (lMbase l, 0, if lMoment l then numBytes 4 n.1.m else []),
    (lRbase l, 0, if lFactored l then numBytes 4 n.1.r else []), (lCbase l, 0, if lFactored l then numBytes 4 n.1.c else []),
    (va + 116, 0, if lFactored l then leBytes 4 n.2 else [])]

section
variable {s t0 t1 t2 : State} {spur i va : Nat} {u : UpdRun} {l : LRec} {key : BitVec 64}

theorem State.refreshLayer_took {w : List Nat} (hw : s.vNums (.spur spur) u.r.ctx 0 (lWbase l) (lElems l) 4 = .ok w t1)
    (hput : t1.vWrites (.spur spur) u.r.ctx (orderWrites l (narrowOrders l key (lLast l) w)) = .ok () t2) :
    ∃ t, s.refreshLayer spur u i va l key = .ok () t ∧ TookLayer spur u.r i va 5 t2 t := by
  simp only [State.refreshLayer, hw, Go.bind_ok, hput]
  exact ⟨_, rfl, State.takeLayer_took rfl⟩

variable {g1 : List Nat} (eta step : Nat) (hscan : s.scanPass (.spur spur) u.r.ctx l = .ok g1 t0) (calm : t0.armed = [])
include hscan calm

theorem State.updateLayer_skips (hskip : lNfskip l = true) (hg : g1.any f32NonFinite = true) :
    ∃ t, s.updateLayer spur u i va l key eta step = .ok () t ∧ TookLayer spur u.r i va 3 t0 t := by
  simp only [State.updateLayer, hscan, Go.bind_ok, hskip, hg, if_true, State.judge_calm _ _ _ _ calm]
  exact ⟨_, rfl, State.takeLayer_took (State.det_mem ..)⟩

theorem State.updateLayer_took {b : LBufs} (hgo : lNfskip l = false ∨ g1.any f32NonFinite = false)
    (hb : t0.layerBufs (.spur spur) u.r.ctx l g1 = .ok b t1)
    (hput : t1.vWrites (.spur spur) u.r.ctx (bufferWrites l va (layerStep l eta b) ++
      orderWrites l (narrowOrders l key step (layerStep l eta b).1.w)) = .ok () t2) :
    ∃ t, s.updateLayer spur u i va l key eta step = .ok () t ∧ TookLayer spur u.r i va 1 t2 t := by
  have hjudge : (if lNfskip l then t0.judge detUpdNonfinite spur (g1.any f32NonFinite) else (false, t0)) = (false, t0) := by
    rw [State.judge_calm _ _ _ _ calm]
    obtain h | h := hgo <;> simp [h]
  rw [bufferWrites] at hput
  simp only [State.updateLayer, hscan, Go.bind_ok, hjudge, Bool.false_eq_true, if_false, hb, hput]
  exact ⟨_, rfl, State.takeLayer_took rfl⟩

end

/-! ## UPD_LAYER -/

/-- What an engine reads before it judges a layer: the table's header, the record, and in update mode the step entry (R206, R209). -/
def State.readLayer (s : State) (spur : Nat) (u : UpdRun) (c : Cmd) (i : Nat) : Go (Nat × Nat × Nat) :=
  (s.updHeader u.r (.spur spur) c).bind fun hdr s1 =>
  (s1.vNums (.spur spur) u.r.ctx 0 (s.layerVa u.r i) 1 128).bind fun lr s2 =>
  (if cmdFld c 288 1 = 1 then Go.ok [0] s2 else s2.vNums (.spur spur) u.r.ctx 0 (bitsOf hdr 128 57 + 8 * i) 1 8).bind fun ent s3 =>
    .ok (hdr, lr.headD 0, ent.headD 0) s3

theorem State.readLayer_ok {s s1 s2 s3 : State} {spur hdr lr ent : Nat} {u : UpdRun} {c : Cmd} {i : Nat}
    (hhdr : s.updHeader u.r (.spur spur) c = .ok hdr s1) (hrec : s1.vNums (.spur spur) u.r.ctx 0 (s.layerVa u.r i) 1 128 = .ok [lr] s2)
    (hent : (if cmdFld c 288 1 = 1 then Go.ok [0] s2 else s2.vNums (.spur spur) u.r.ctx 0 (bitsOf hdr 128 57 + 8 * i) 1 8) = .ok [ent] s3) :
    s.readLayer spur u c i = .ok (hdr, lr, ent) s3 := by
  rw [State.readLayer, hhdr, Go.bind_ok, hrec, Go.bind_ok, hent, Go.bind_ok, List.headD_cons, List.headD_cons]

theorem State.readLayer_stall {s t : State} {spur : Nat} {u : UpdRun} {c : Cmd} (i : Nat) (hhdr : s.updHeader u.r (.spur spur) c = .stall t) :
    s.readLayer spur u c i = .stall t := by
  rw [State.readLayer, hhdr, Go.bind_stall]

theorem exec_updLayer_waits {s : State} {spur : Nat} (hturn : s.engineTurn spur = false) : exec (.updLayer spur) s = .next s := by
  change execUpdLayer spur s = _
  rw [execUpdLayer, if_pos (.inr hturn)]

section
variable {s : State} {spur : Nat} {u : UpdRun} {c : Cmd} {i : Nat} (hfree : Tbl.find s.eng.spurs spur = none)
  (hturn : s.engineTurn spur = true) (hnext : s.nextLayer spur = some (u, c, i))
include hfree hturn hnext

theorem exec_updLayer_holds {t : State} (hstall : s.readLayer spur u c i = .stall t) :
    exec (.updLayer spur) s = .next (t.holdLayer spur u i) := by
  rw [State.readLayer] at hstall
  change execUpdLayer spur s = _
  simp only [execUpdLayer, hfree, hturn, hnext, hstall, Option.isSome_none, Bool.false_eq_true, Bool.true_eq_false, or_self, if_false]

theorem exec_updLayer_runs {t t' : State} {hdr lr ent : Nat} (hread : s.readLayer spur u c i = .ok (hdr, lr, ent) t)
    (hrun : t.runLayer spur u c i (s.layerVa u.r i) (BitVec.ofNat 1024 lr) hdr ent = .ok () t') :
    exec (.updLayer spur) s = .next t' := by
  rw [State.readLayer] at hread
  change execUpdLayer spur s = _
  simp only [execUpdLayer, hfree, hturn, hnext, hread, hrun, Option.isSome_none, Bool.false_eq_true, Bool.true_eq_false, or_self, if_false]

end

/-! ## UPD_LAYER_DONE -/

/-- The engine of a spur is idle, and the runs are `us`. -/
def State.spurIdle (s : State) (spur : Nat) (us : List UpdRun) : State :=
  { s with eng := { s.eng with spurs := Tbl.del s.eng.spurs spur, upds := us } }

@[simp] theorem State.cmd_with_eng (s : State) (g : Engines) (r : CmdRef) : ({ s with eng := g } : State).cmd r = s.cmd r := rfl

@[simp] theorem State.boardBusy_with_eng (s : State) (g : Engines) (o : Owner) :
    ({ s with eng := g } : State).boardBusy o = s.boardBusy o := rfl

section
variable {s : State} {spur : Nat} {e : UpdEng} {u : UpdRun} {c : Cmd}

/-- The only run ends with its last layer, and goes on otherwise (R209). -/
theorem State.layerEnd_of_one (hupds : s.eng.upds = [u]) (hr : u.r = e.r) (hc : s.cmd e.r = some c) :
    s.layerEnd spur e = if cmdFld c 224 32 ≤ u.done + 1 then (s.spurIdle spur []).finish e.r (if u.bad then stDescInvalid else 0)
      else s.spurIdle spur [{ u with done := u.done + 1 }] := by
  have hc' : (s.spurIdle spur [{ u with done := u.done + 1 }]).cmd e.r = some c := hc
  have hset : ({ s with eng := { s.eng with spurs := Tbl.del s.eng.spurs spur } } : State).setUpd e.r (fun x => { x with done := x.done + 1 }) =
      s.spurIdle spur [{ u with done := u.done + 1 }] := by
    simp [State.setUpd, hupds, hr, State.spurIdle]
  simp only [State.layerEnd, hset, hc']
  simp [State.spurIdle, hr]

/-- The write of an engine that has performed all else: LASTSTEP and STATUS together, or STATUS alone (R209, R212). -/
def State.statusWrite (s : State) (e : UpdEng) (c : Cmd) : Go Unit :=
  s.vWrite (.cmd e.r) e.r.ctx (engReq e.r.ctx) (if e.status = 1 ∨ e.status = 3 then e.va + 120 else e.va + 124)
    (if e.status = 1 ∨ e.status = 3 then leBytes 8 (cmdFld c 256 32 + e.status * 2 ^ 32) else leBytes 1 e.status)

theorem exec_updLayerDone {t : State} (he : Tbl.find s.eng.spurs spur = some e) (hadds : e.adds = []) (hidle : s.boardBusy (.spur spur) = false)
    (hc : s.cmd e.r = some c)
    (hput : ({ s with eng := { s.eng with spurs := Tbl.put s.eng.spurs spur e } } : State).statusWrite e c = .ok () t) :
    exec (.updLayerDone spur) s = .next (t.layerEnd spur e) := by
  obtain ⟨r, layer, va, status, adds⟩ := e
  subst hadds
  rw [State.statusWrite] at hput
  change execUpdLayerDone spur s = _
  simp only [execUpdLayerDone, he, State.updStats, State.boardBusy_with_eng, State.cmd_with_eng, hidle, hc]
  by_cases hst : status = 1 ∨ status = 3
  · simp only [hst, if_true] at hput ⊢
    simp only [hput, Bool.false_eq_true, if_false]
  · simp only [hst, if_false] at hput ⊢
    simp only [hput, Bool.false_eq_true, if_false]

end

/-- Settles O39: the start of a command, an engine's layer by its checks in their order, and the end of the layer. -/
theorem updatesStartAndRun : Obligations.UpdatesStartAndRun := by
  refine ⟨fun s r c hc hph hnew => ?_, fun s spur u c i calm hfree => ⟨exec_updLayer_waits, fun hturn hnext => ?_⟩,
    fun s spur e u c he hadds hidle hc hupds hr s0 t1 hs0 hput heng hc1 => ?_⟩
  · intro f finished hal h t1 hread hc1
    refine ⟨fun hop hmode => ?_, fun hop hmode => ?_, fun hop => ?_⟩
    · obtain ⟨henter, hrefuse⟩ := State.updStart_cases (cmdFld c 256 32 ≠ 0) hnew hal hread hc1
      have hexec := exec_updRun hc hph hop hmode
      exact ⟨fun hgood => ⟨_, hexec, henter hgood⟩, fun hbad => ⟨_, hexec, hrefuse hbad⟩⟩
    · obtain ⟨henter, hrefuse⟩ := State.updStart_cases (cmdFld c 256 32 = 0) hnew hal hread hc1
      have hexec := exec_updRunRefresh hc hph hop hmode
      exact ⟨fun hgood => ⟨_, hexec, henter hgood⟩, fun hbad => ⟨_, hexec, hrefuse hbad⟩⟩
    · exact ⟨fun hgood bs t2 t3 hsrc hdst hc3 => updSetStep_writes hc hph hop hal hread ((setStepOk_iff c h).2 hgood) hsrc hdst hc3,
        fun hbad => updSetStep_refused hc hph hop hal hread (fun hok => hbad ((setStepOk_iff c h).1 hok)) hc1⟩
  · intro hdr s1 lr s2 ent s3 va o
    refine ⟨fun t hstall => exec_updLayer_holds hfree hturn hnext (State.readLayer_stall i hstall), fun hhdr hrec hent calm3 => ?_⟩
    intro l eta step key takes
    have hread : s.readLayer spur u c i = .ok (hdr, lr, ent) s3 := State.readLayer_ok hhdr hrec hent
    have took : ∀ {st w}, (∃ t, s3.runLayer spur u c i va l hdr ent = .ok () t ∧ TookLayer spur u.r i va st w t) →
        Runs (.updLayer spur) s (takes st w) := fun ⟨t, hrun, ht⟩ => ⟨t, exec_updLayer_runs hfree hturn hnext hread hrun, ht⟩
    refine ⟨fun hbad => ?_, fun hok hmode w t1 t2 hw hput => ?_, fun hok hmode heta => ⟨fun hrep => ?_, fun hlast => ?_⟩⟩
    · exact took ⟨_, State.runLayer_invalid spur u i va hdr calm3 hbad, State.takeLayer_took (State.det_mem ..)⟩
    · refine took ?_
      rw [State.runLayer_refresh spur u i va hdr calm3 hok hmode]
      exact State.refreshLayer_took hw hput
    · refine took ?_
      rw [State.runLayer_update spur u i va hdr calm3 hok hmode heta, if_pos hrep]
      exact ⟨_, rfl, State.takeLayer_took (by simp)⟩
    · rintro _ g1 t0 rfl hscan calm0
      have hrun := State.runLayer_update spur u i va hdr calm3 hok hmode heta
      rw [if_neg (Nat.not_le.2 hlast)] at hrun
      refine ⟨fun hskip hg => took ?_, fun b t1 t2 hgo hb hput => took ?_⟩
      · rw [hrun]
        exact State.updateLayer_skips eta step hscan calm0 hskip hg
      · rw [hrun]
        exact State.updateLayer_took eta step hscan calm0 hgo hb hput
  · subst hs0
    have hupds1 : t1.eng.upds = [u] := by rw [heng]; exact hupds
    refine ⟨_, exec_updLayerDone he hadds hidle hc hput, ?_⟩
    rw [State.layerEnd_of_one hupds1 hr hc1]
    have hcEnd : (t1.spurIdle spur []).cmd e.r = some c := hc1
    split
    · refine ⟨State.finish_mem_of_cmd hcEnd _, ?_, ?_, _, State.cmd_finish_self hcEnd _, rfl⟩
      · rw [State.finish_eng_of_cmd hcEnd]
        exact Tbl.find_del_self ..
      · rw [State.finish_eng_of_cmd hcEnd]
        rfl
    · exact ⟨rfl, Tbl.find_del_self .., rfl, hc1⟩

end Sys2Proof.Machine
end
